-- ==== Sys2Proof/Word.lean ====
section
/-! DEFINITION. Words of the D8 and their plainest arithmetic (00_scope.md R4, R5; 01_machine.md R18). -/

namespace Sys2Proof

/-- A scalar register, a CSR or a scratchpad double word: 64 bits. -/
abbrev Word := BitVec 64

/-- A vector register, a reel flit, a result-queue segment: 2048 bits. -/
abbrev Vec := BitVec 2048

/-- One byte of memory. -/
abbrev Byte := BitVec 8

/-- A finite map from numbers, kept as a list with strictly rising keys; a key that is absent reads as the map's
default, which the accessor names. -/
abbrev Assoc (α : Type) := List (Nat × α)

/-- The entry of key `k`, or none. -/
def aget {α : Type} : Assoc α → Nat → Option α
  | [], _ => none
  | (k, v) :: r, n => if n = k then some v else if n < k then none else aget r n

/-- The map with key `n` set to `v`. -/
def aset {α : Type} : Assoc α → Nat → α → Assoc α
  | [], n, v => [(n, v)]
  | (k, x) :: r, n, v =>
    if n < k then (n, v) :: (k, x) :: r
    else if n = k then (n, v) :: r
    else (k, x) :: aset r n v

/-- The map without key `n`. -/
def adel {α : Type} (a : Assoc α) (n : Nat) : Assoc α := a.filter fun p => p.1 ≠ n

/-- The entry of key `k`, or the default `d`. -/
def agetD {α : Type} (a : Assoc α) (k : Nat) (d : α) : α := (aget a k).getD d

end Sys2Proof
end

