-- ==== Sys2Proof/Syntax.lean ====
section
/-! DEFINITION. The instructions of the D8 as syntax: one constructor per row of spec/opcode_table.json (03_encoding.md R46 to
R67), the event rows included. Register numbers and field values are the numbers of the encoding tables; WellFormed.lean says
which of them a word can hold. -/

namespace Sys2Proof

/-- A guard literal (R51): guard index 0 to 15 and a polarity; `g0` with plain polarity means unguarded. -/
structure Lit where
  neg : Bool
  idx : Nat
  deriving DecidableEq, Repr

/-- The unguarded literal. -/
def Lit.always : Lit := ⟨false, 0⟩

/-- The slot classes of Table 01-5. -/
inductive Cls where
  | c | s | v | m | l | q
  deriving DecidableEq, Repr

/-- The header of a bundle, slot-0 bits [31:24] (R46). -/
structure Header where
  sl : Bool
  ps : Bool
  fst : Nat
  lst : Nat
  deriving DecidableEq, Repr

/-- An instruction word of the D8, or an event row: what a later cycle, an engine or the outside does. In an event row
the write or access
to the control space that an event row performs stands in the state (`State.cw`), and `core`, `ctx`, `die`, `part`, `tq` name the unit (a token queue is 64 x die + queue), `id` names the pending work. The constructors with operands stand first (a compiler limit on constructor tags). -/
inductive Instr where
  /-- BR (R80). Unconditional branch: the bundle at a + 32 × offset issues in the next cycle. -/
  | br (off : Int)
  /-- BRC (R80). Branches in the next cycle if the guard literal is true; faults if its guard is open. -/
  | brc (l : Lit) (off : Int)
  /-- BRD (R192). Deferred branch on a guard that may still be open; the following bundles carry the implicit literal ¬lit until the guard lands. -/
  | brd (l : Lit) (off : Int)
  /-- JT (R81). Reads a storyboard word at sb + 8 × sa and jumps there after three delay bundles. -/
  | jt (sa : Nat) (sb : Nat)
  /-- CALL (R82). Writes a + 128 to s55 and transfers to the target after three delay bundles. -/
  | call (off : Int)
  /-- CALLG (R82). Call through a target held in a register. -/
  | callg (sa : Nat)
  /-- LOOP_REG (R83). Opens a loop level whose count is taken from a register. -/
  | loopReg (sa : Nat)
  /-- LOOP_IMM (R83). Opens a loop level whose count of 1 to 131,071 is taken from the word. -/
  | loopImm (n : Nat)
  /-- TRAP (R88). Raises a breakpoint fault of kind TRAP after its bundle issues. -/
  | trap (n : Nat)
  /-- BRK (R88). Raises a breakpoint fault of kind BRK in place of issuing its bundle. -/
  | brk (n : Nat)
  /-- SYSCALL (R88). Issues and enters the partition supervisor with a service number. -/
  | syscall (n : Nat)
  /-- WAITC (R89). Makes the context wait until an absolute cycle, counted as slip. -/
  | waitc (sa : Nat)
  /-- SLATE_Q (R91). Writes the slate status (pending pre-emption, interrupt, debugger stop, gate, ready contexts, span count) to a register. -/
  | slateQ (sd : Nat)
  /-- SLATE_T (R91). Writes the pending pre-emption cycle T′, or all ones if none is pending. -/
  | slateT (sd : Nat)
  /-- SCENE (R90). Sets a new scene base LASTREL + d and waits for it without slip. -/
  | scene (d : Nat)
  /-- ADD (R138). Scalar add. -/
  | add (g : Lit) (h : Bool) (sd : Nat) (sa : Nat) (sb : Nat)
  /-- SUB (R138). Scalar subtract. -/
  | sub (g : Lit) (h : Bool) (sd : Nat) (sa : Nat) (sb : Nat)
  /-- AND (R138). Scalar bitwise AND. -/
  | andS (g : Lit) (h : Bool) (sd : Nat) (sa : Nat) (sb : Nat)
  /-- OR (R138). Scalar bitwise OR. -/
  | orS (g : Lit) (h : Bool) (sd : Nat) (sa : Nat) (sb : Nat)
  /-- XOR (R138). Scalar bitwise XOR. -/
  | xorS (g : Lit) (h : Bool) (sd : Nat) (sa : Nat) (sb : Nat)
  /-- ANDN (R138). Scalar sa AND NOT sb. -/
  | andn (g : Lit) (h : Bool) (sd : Nat) (sa : Nat) (sb : Nat)
  /-- SHL (R138). Scalar shift left by sb[5:0]. -/
  | shl (g : Lit) (h : Bool) (sd : Nat) (sa : Nat) (sb : Nat)
  /-- SHR (R138). Scalar logical shift right by sb[5:0]. -/
  | shr (g : Lit) (h : Bool) (sd : Nat) (sa : Nat) (sb : Nat)
  /-- SAR (R138). Scalar arithmetic shift right by sb[5:0]. -/
  | sar (g : Lit) (h : Bool) (sd : Nat) (sa : Nat) (sb : Nat)
  /-- MIN (R141). Signed scalar minimum. -/
  | minS (g : Lit) (h : Bool) (sd : Nat) (sa : Nat) (sb : Nat)
  /-- MAX (R141). Signed scalar maximum. -/
  | maxS (g : Lit) (h : Bool) (sd : Nat) (sa : Nat) (sb : Nat)
  /-- MIN_N (R141). Unsigned scalar minimum. -/
  | minN (g : Lit) (h : Bool) (sd : Nat) (sa : Nat) (sb : Nat)
  /-- MAX_N (R141). Unsigned scalar maximum. -/
  | maxN (g : Lit) (h : Bool) (sd : Nat) (sa : Nat) (sb : Nat)
  /-- SEL (R145). Writes sa where the selecting literal is true and sb where it is false, splitting takes if its guard is open. -/
  | sel (l : Lit) (h : Bool) (sd : Nat) (sa : Nat) (sb : Nat)
  /-- CLZ (R138). Counts the leading zeros of sa. -/
  | clz (g : Lit) (h : Bool) (sd : Nat) (sa : Nat)
  /-- POPC (R138). Counts the set bits of sa. -/
  | popc (g : Lit) (h : Bool) (sd : Nat) (sa : Nat)
  /-- MUL (R142). Low 64 bits of the product, latency 3. -/
  | mul (g : Lit) (h : Bool) (sd : Nat) (sa : Nat) (sb : Nat)
  /-- MULH (R142). High 64 bits of the signed 128-bit product. -/
  | mulh (g : Lit) (h : Bool) (sd : Nat) (sa : Nat) (sb : Nat)
  /-- MULH_N (R142). High 64 bits of the unsigned 128-bit product. -/
  | mulhN (g : Lit) (h : Bool) (sd : Nat) (sa : Nat) (sb : Nat)
  /-- DIV (R143). Signed division truncating toward zero, latency 12; a zero divisor records DZ and faults. -/
  | divS (g : Lit) (h : Bool) (sd : Nat) (sa : Nat) (sb : Nat)
  /-- DIV_N (R143). Unsigned division. -/
  | divN (g : Lit) (h : Bool) (sd : Nat) (sa : Nat) (sb : Nat)
  /-- REM (R143). Signed remainder, with the sign of sa. -/
  | rem (g : Lit) (h : Bool) (sd : Nat) (sa : Nat) (sb : Nat)
  /-- REM_N (R143). Unsigned remainder. -/
  | remN (g : Lit) (h : Bool) (sd : Nat) (sa : Nat) (sb : Nat)
  /-- CMP (R144). Compares two scalars and opens a guard that lands at issue + 2. -/
  | cmp (g : Lit) (cond : Nat) (gd : Nat) (sa : Nat) (sb : Nat)
  /-- GAND (R191). Writes the AND of two guard literals to a guard. -/
  | gand (g : Lit) (gd : Nat) (la : Lit) (lb : Lit)
  /-- GOR (R191). Writes the OR of two guard literals to a guard. -/
  | gor (g : Lit) (gd : Nat) (la : Lit) (lb : Lit)
  /-- GNOT (R191). Writes the negation of a guard literal to a guard. -/
  | gnot (g : Lit) (gd : Nat) (la : Lit)
  /-- GCOPY (R191). Copies a guard literal to a guard. -/
  | gcopy (g : Lit) (gd : Nat) (la : Lit)
  /-- TAKE_WAIT (R182). Holds the bundle until the named guard has landed. -/
  | takeWait (g : Lit) (k : Nat)
  /-- TKCNT (R183). Writes the number of takes that sa holds. -/
  | tkcnt (g : Lit) (sd : Nat) (sa : Nat)
  /-- CSRR (R146). Reads a control and status register into a scalar. -/
  | csrr (g : Lit) (sd : Nat) (n : Nat)
  /-- CSRW (R146). Writes a control and status register, landing at issue + 1. -/
  | csrw (g : Lit) (sa : Nat) (n : Nat)
  /-- ROL (R138). Scalar rotate left by sb[5:0]. -/
  | rol (g : Lit) (h : Bool) (sd : Nat) (sa : Nat) (sb : Nat)
  /-- ROR (R138). Scalar rotate right by sb[5:0]. -/
  | ror (g : Lit) (h : Bool) (sd : Nat) (sa : Nat) (sb : Nat)
  /-- CTZ (R138). Counts the trailing zeros of sa. -/
  | ctz (g : Lit) (h : Bool) (sd : Nat) (sa : Nat)
  /-- ADDX_1 (R138). Writes sa + sb × 2. -/
  | addx1 (g : Lit) (h : Bool) (sd : Nat) (sa : Nat) (sb : Nat)
  /-- ADDX_2 (R138). Writes sa + sb × 4. -/
  | addx2 (g : Lit) (h : Bool) (sd : Nat) (sa : Nat) (sb : Nat)
  /-- ADDX_3 (R138). Writes sa + sb × 8. -/
  | addx3 (g : Lit) (h : Bool) (sd : Nat) (sa : Nat) (sb : Nat)
  /-- ADDX_8 (R138). Writes sa + sb × 256. -/
  | addx8 (g : Lit) (h : Bool) (sd : Nat) (sa : Nat) (sb : Nat)
  /-- ADDI (R140). Adds a sign-extended 12-bit immediate. -/
  | addi (g : Lit) (sd : Nat) (sa : Nat) (imm : Int)
  /-- LIH (R140). Loads imm20 × 2^12, sign-extended from bit 31. -/
  | lih (sd : Nat) (imm : Nat)
  /-- CMPI (R144). Compares a scalar with an immediate and opens a guard. -/
  | cmpi (g : Lit) (cond : Nat) (gd : Nat) (sa : Nat) (imm : Nat)
  /-- SHLI (R139). Shifts left by an immediate. -/
  | shli (g : Lit) (sd : Nat) (sa : Nat) (amt : Nat)
  /-- SHRI (R139). Shifts right logically by an immediate. -/
  | shri (g : Lit) (sd : Nat) (sa : Nat) (amt : Nat)
  /-- SARI (R139). Shifts right arithmetically by an immediate. -/
  | sari (g : Lit) (sd : Nat) (sa : Nat) (amt : Nat)
  /-- ANDI (R139). ANDs with a sign-extended 9-bit immediate. -/
  | andi (g : Lit) (sd : Nat) (sa : Nat) (imm : Int)
  /-- ORI (R139). ORs with a sign-extended 9-bit immediate. -/
  | ori (g : Lit) (sd : Nat) (sa : Nat) (imm : Int)
  /-- XORI (R139). XORs with a sign-extended 9-bit immediate. -/
  | xori (g : Lit) (sd : Nat) (sa : Nat) (imm : Int)
  /-- ROLI (R139). Rotates left by an immediate. -/
  | roli (g : Lit) (sd : Nat) (sa : Nat) (amt : Nat)
  /-- VADD_INT (R147). Integer lane add that wraps. -/
  | vaddInt (g : Lit) (ty : Nat) (vd : Nat) (va : Nat) (vb : Nat)
  /-- VSUB_INT (R147). Integer lane subtract that wraps. -/
  | vsubInt (g : Lit) (ty : Nat) (vd : Nat) (va : Nat) (vb : Nat)
  /-- VMUL_INT (R147). Low half of the integer lane product. -/
  | vmulInt (g : Lit) (ty : Nat) (vd : Nat) (va : Nat) (vb : Nat)
  /-- VMIN_INT (R147). Signed lane minimum. -/
  | vminInt (g : Lit) (ty : Nat) (vd : Nat) (va : Nat) (vb : Nat)
  /-- VMAX_INT (R147). Signed lane maximum. -/
  | vmaxInt (g : Lit) (ty : Nat) (vd : Nat) (va : Nat) (vb : Nat)
  /-- VMIN_N (R147). Unsigned lane minimum. -/
  | vminN (g : Lit) (ty : Nat) (vd : Nat) (va : Nat) (vb : Nat)
  /-- VMAX_N (R147). Unsigned lane maximum. -/
  | vmaxN (g : Lit) (ty : Nat) (vd : Nat) (va : Nat) (vb : Nat)
  /-- VADD_SAT_I (R147). Signed saturating lane add. -/
  | vaddSatI (g : Lit) (ty : Nat) (vd : Nat) (va : Nat) (vb : Nat)
  /-- VSUB_SAT_I (R147). Signed saturating lane subtract. -/
  | vsubSatI (g : Lit) (ty : Nat) (vd : Nat) (va : Nat) (vb : Nat)
  /-- VADD_SAT_N (R147). Unsigned saturating lane add. -/
  | vaddSatN (g : Lit) (ty : Nat) (vd : Nat) (va : Nat) (vb : Nat)
  /-- VSUB_SAT_N (R147). Unsigned saturating lane subtract. -/
  | vsubSatN (g : Lit) (ty : Nat) (vd : Nat) (va : Nat) (vb : Nat)
  /-- VSHL (R147). Lane shift left. -/
  | vshl (g : Lit) (ty : Nat) (vd : Nat) (va : Nat) (vb : Nat)
  /-- VSHR (R147). Lane logical shift right. -/
  | vshr (g : Lit) (ty : Nat) (vd : Nat) (va : Nat) (vb : Nat)
  /-- VSAR (R147). Lane arithmetic shift right. -/
  | vsar (g : Lit) (ty : Nat) (vd : Nat) (va : Nat) (vb : Nat)
  /-- VAND (R147). Bitwise AND over 2048 bits. -/
  | vand (g : Lit) (vd : Nat) (va : Nat) (vb : Nat)
  /-- VOR (R147). Bitwise OR over 2048 bits. -/
  | vor (g : Lit) (vd : Nat) (va : Nat) (vb : Nat)
  /-- VXOR (R147). Bitwise XOR over 2048 bits. -/
  | vxor (g : Lit) (vd : Nat) (va : Nat) (vb : Nat)
  /-- VANDN (R147). Bitwise a AND NOT b over 2048 bits. -/
  | vandn (g : Lit) (vd : Nat) (va : Nat) (vb : Nat)
  /-- VADD_FP (R148). Floating-point lane add, rounded rne. -/
  | vaddFp (g : Lit) (ty : Nat) (vd : Nat) (va : Nat) (vb : Nat)
  /-- VSUB_FP (R148). Floating-point lane subtract. -/
  | vsubFp (g : Lit) (ty : Nat) (vd : Nat) (va : Nat) (vb : Nat)
  /-- VMUL_FP (R148). Floating-point lane multiply. -/
  | vmulFp (g : Lit) (ty : Nat) (vd : Nat) (va : Nat) (vb : Nat)
  /-- VFMA (R148). Fused va × vb + vd with one rounding, latency 4. -/
  | vfma (g : Lit) (ty : Nat) (vd : Nat) (va : Nat) (vb : Nat)
  /-- VMIN_FP (R148). Floating-point lane minimum. -/
  | vminFp (g : Lit) (ty : Nat) (vd : Nat) (va : Nat) (vb : Nat)
  /-- VMAX_FP (R148). Floating-point lane maximum. -/
  | vmaxFp (g : Lit) (ty : Nat) (vd : Nat) (va : Nat) (vb : Nat)
  /-- VCMP_INT (R149). Integer lane comparison into a mask register. -/
  | vcmpInt (g : Lit) (ty : Nat) (cond : Nat) (m : Nat) (va : Nat) (vb : Nat)
  /-- VCMP_FP (R149). Floating-point lane comparison into a mask register. -/
  | vcmpFp (g : Lit) (ty : Nat) (cond : Nat) (m : Nat) (va : Nat) (vb : Nat)
  /-- VSEL (R150). Selects va lanes where the mask is set and vd lanes elsewhere. -/
  | vsel (g : Lit) (ty : Nat) (vd : Nat) (va : Nat) (m : Nat)
  /-- VPERMB (R152). Byte permutation of va by index bytes. -/
  | vpermb (g : Lit) (vd : Nat) (va : Nat) (vb : Nat)
  /-- VSHUF (R152). 32-bit lane shuffle of va. -/
  | vshuf (g : Lit) (vd : Nat) (va : Nat) (vb : Nat)
  /-- VDOT4 (R153). Accumulates four byte products per 32-bit lane into vd. -/
  | vdot4 (g : Lit) (uns : Bool) (vd : Nat) (va : Nat) (vb : Nat)
  /-- VBCAST (R152). Broadcasts one lane of va to every lane. -/
  | vbcast (g : Lit) (ty : Nat) (vd : Nat) (va : Nat) (vb : Nat)
  /-- VPACK (R154). Packs two vectors to half width with signed saturation. -/
  | vpack (g : Lit) (ty : Nat) (vd : Nat) (va : Nat) (vb : Nat)
  /-- VUNPK (R154). Widens one half of va's lanes by sign or zero extension. -/
  | vunpk (g : Lit) (ty : Nat) (vd : Nat) (va : Nat) (hi : Bool) (zx : Bool)
  /-- VCVT (R155). Converts elements between formats with the encoded rounding mode. -/
  | vcvt (g : Lit) (dst : Nat) (rnd : Nat) (src : Nat) (vd : Nat) (va : Nat)
  /-- VMOV (R156). Copies all 2048 bits of va. -/
  | vmov (g : Lit) (vd : Nat) (va : Nat)
  /-- VEXP (R157). Correctly rounded e^x per lane. -/
  | vexp (g : Lit) (ty : Nat) (vd : Nat) (va : Nat)
  /-- VRCP (R157). Correctly rounded reciprocal per lane. -/
  | vrcp (g : Lit) (ty : Nat) (vd : Nat) (va : Nat)
  /-- VRSQ (R157). Correctly rounded reciprocal square root per lane. -/
  | vrsq (g : Lit) (ty : Nat) (vd : Nat) (va : Nat)
  /-- VLOG (R157). Correctly rounded natural logarithm per lane. -/
  | vlog (g : Lit) (ty : Nat) (vd : Nat) (va : Nat)
  /-- VRED_ADD (R158). Fixed-tree sum of all lanes into a scalar. -/
  | vredAdd (g : Lit) (ty : Nat) (sd : Nat) (va : Nat)
  /-- VRED_MAX (R158). Fixed-tree maximum of all lanes into a scalar. -/
  | vredMax (g : Lit) (ty : Nat) (sd : Nat) (va : Nat)
  /-- VRED_MIN (R158). Fixed-tree minimum of all lanes into a scalar. -/
  | vredMin (g : Lit) (ty : Nat) (sd : Nat) (va : Nat)
  /-- VANY (R151). Opens a guard that lands at issue + 8, true if any mask bit is set. -/
  | vany (g : Lit) (ty : Nat) (gd : Nat) (m : Nat)
  /-- VALL (R151). Opens a guard that lands at issue + 8, true if all mask bits are set. -/
  | vall (g : Lit) (ty : Nat) (gd : Nat) (m : Nat)
  /-- VSCAN_ADD (R159). Inclusive prefix sum over the lanes in ascending order. -/
  | vscanAdd (g : Lit) (ty : Nat) (vd : Nat) (va : Nat)
  /-- VSCAN_MAX (R159). Inclusive prefix maximum over the lanes. -/
  | vscanMax (g : Lit) (ty : Nat) (vd : Nat) (va : Nat)
  /-- VRNG (R160). Fills 64 lanes from the counter-based generator. -/
  | vrng (g : Lit) (vd : Nat) (va : Nat)
  /-- VSAT (R154). Clamps signed lanes to the half-width range. -/
  | vsat (g : Lit) (ty : Nat) (vd : Nat) (va : Nat)
  /-- VSAT_N (R154). Clamps unsigned lanes to the half-width range. -/
  | vsatN (g : Lit) (ty : Nat) (vd : Nat) (va : Nat)
  /-- VCOMPRESS_G16 (R161). Keeps the 8 highest-ranked lanes of each group of 16 and zeroes the others. -/
  | vcompressG16 (g : Lit) (ty : Nat) (vd : Nat) (va : Nat)
  /-- VCOMPRESS_G8 (R161). Keeps the k highest-ranked lanes (k = 1 to 7) of each group of 8 and zeroes the others. -/
  | vcompressG8 (g : Lit) (k : Nat) (ty : Nat) (vd : Nat) (va : Nat)
  /-- VMOV_OQ (R162). Pops one result-queue segment into vd. -/
  | vmovOq (g : Lit) (vd : Nat) (oq : Nat) (vb : Nat)
  /-- VADD_OQ_FP (R162). Adds vb to a popped segment, in floating point. -/
  | vaddOqFp (g : Lit) (ty : Nat) (vd : Nat) (oq : Nat) (vb : Nat)
  /-- VMUL_OQ_FP (R162). Multiplies a popped segment by vb, in floating point. -/
  | vmulOqFp (g : Lit) (ty : Nat) (vd : Nat) (oq : Nat) (vb : Nat)
  /-- VFMA_OQ (R162). Computes segment × vb + vd with one rounding. -/
  | vfmaOq (g : Lit) (ty : Nat) (vd : Nat) (oq : Nat) (vb : Nat)
  /-- VMAX_OQ (R162). Takes the larger of a popped segment and vb. -/
  | vmaxOq (g : Lit) (ty : Nat) (vd : Nat) (oq : Nat) (vb : Nat)
  /-- VADD_OQ_INT (R162). Integer add of vb to a popped segment. -/
  | vaddOqInt (g : Lit) (ty : Nat) (vd : Nat) (oq : Nat) (vb : Nat)
  /-- VMUL_OQ_INT (R162). Integer multiply of a popped segment by vb. -/
  | vmulOqInt (g : Lit) (ty : Nat) (vd : Nat) (oq : Nat) (vb : Nat)
  /-- MWLOAD (R198). Fills a bank's shadow copy from a sealed port over 256 pops. -/
  | mwload (fmt : Nat) (bank : Nat) (p : Nat)
  /-- MSWAP (R199). Exchanges the active and shadow copies of the named banks. -/
  | mswap (mask : Nat)
  /-- MRES (R200). Writes the residency entry of a bank's shadow copy. -/
  | mres (bank : Nat) (sa : Nat)
  /-- MMUL_TM (R203). Streams n rows into a tile, each row tagged from a mask register. -/
  | mmulTm (init : Bool) (live : Bool) (acc : Nat) (p : Nat) (m : Nat) (n : Nat) (sl : Nat)
  /-- MMUL_BANK (R203). Streams n rows into a tile, all using one bank. -/
  | mmulBank (init : Bool) (live : Bool) (acc : Nat) (p : Nat) (bank : Nat) (n : Nat) (sl : Nat)
  /-- MDRAIN (R209). Drains tile rows as segments into a result queue, through the optional scale, top-k or tree epilogues. -/
  | mdrain (oq : Nat) (acc : Nat) (scale : Bool) (topk : Bool) (tree : Bool) (sp : Nat) (n : Nat)
  /-- MTOPK (R212). Configures the top-k epilogue's K, IBASE and merge. -/
  | mtopk (k : Nat) (sa : Nat)
  /-- MTREE (R214). Reads a tree record and builds the ancestor sets used by the drain's tree mask. -/
  | mtree (sa : Nat)
  /-- MGRAD (R216). Accumulates a bank's weight gradient from the rows of the last MMUL that used that bank. -/
  | mgrad (bank : Nat) (acc : Nat) (p : Nat) (n : Nat)
  /-- MLIVE (R207). Reads a tile's EV, LIVE and BUSY state into a scalar. -/
  | mlive (sd : Nat) (acc : Nat)
  /-- MCLR (R208). Zeroes the named tiles and clears their EV and LIVE. -/
  | mclr (mask : Nat)
  /-- LD (R164). Scalar scratchpad load of the encoded type, landing at issue + 6. -/
  | ld (g : Lit) (ty : Nat) (sd : Nat) (sa : Nat) (off : Int)
  /-- ST (R164). Scalar store that performs at issue + 4. -/
  | st (g : Lit) (ty : Nat) (sv : Nat) (sa : Nat) (off : Int)
  /-- ST_Z (R240). Lazy store entered into the core's lazy buffer. -/
  | stZ (g : Lit) (ty : Nat) (sv : Nat) (sa : Nat) (off : Int)
  /-- VLD (R165). Loads one 256-byte row, landing at issue + 8. -/
  | vld (g : Lit) (vd : Nat) (sa : Nat) (off : Int)
  /-- VST (R165). Stores one 256-byte row at issue + 4. -/
  | vst (g : Lit) (vv : Nat) (sa : Nat) (off : Int)
  /-- VGATHER (R166). Gathers 4-byte lanes from indexed addresses. -/
  | vgather (g : Lit) (vd : Nat) (sa : Nat) (vi : Nat)
  /-- VSCATTER (R166). Scatters 4-byte lanes to indexed addresses at issue + 4. -/
  | vscatter (g : Lit) (vv : Nat) (sa : Nat) (vi : Nat)
  /-- PSET (R168). Loads a port parameter set, resets its walk and turns its checker off. -/
  | pset (p : Nat) (sa : Nat)
  /-- PTAG (R171). Sets a port's expected sequence tag and turns its early-read checker on. -/
  | ptag (p : Nat) (t : Nat)
  /-- SEAL (R130). Checks a sealed tensor record and makes a handle from it. -/
  | seal (hd : Nat) (sa : Nat)
  /-- BIND (R231). Walks the page tables for a window descriptor and binds the window 64 cycles later. -/
  | bind (w : Nat) (sa : Nat)
  /-- COPY (R235). Enters a timed copy with a start time and a delivered tag into the copy buffer. -/
  | copy (rd : Nat) (ra : Nat) (rn : Nat) (rt : Nat)
  /-- ATOM (R244). Indivisible read-modify-write on a word; the old value returns to sd. -/
  | atom (op : Nat) (wide : Bool) (sd : Nat) (sa : Nat) (sb : Nat)
  /-- FENCE_X (R243). Forces an owner core's lazy stores issued so far to perform by a fixed bound. -/
  | fenceX (sa : Nat)
  /-- PFLUSH (R247). Captures a persistent range and persists it granule by granule on the flush path. -/
  | pflush (sa : Nat) (sn : Nat)
  /-- PFENCE (R248). Records a persist fence point at a scope. -/
  | pfence (sc : Nat)
  /-- RTX (R233). Sends a vector as a flit on a reel lane. -/
  | rtx (lane : Nat) (v : Nat)
  /-- RTAP (R43). Latches the flit available to this stop on a lane into scratchpad with a tag. -/
  | rtap (lane : Nat) (sa : Nat) (t : Nat)
  /-- TQSEND (R95). Sends a 64-byte entry into a token queue, blocking while the queue is full. -/
  | tqsend (q : Nat) (v : Nat)
  /-- TQRECV (R95). Receives the oldest unreserved entry, blocking while there is none. -/
  | tqrecv (v : Nat) (q : Nat)
  /-- TQPEEK (R95). Writes the count of receivable entries in a queue. -/
  | tqpeek (sd : Nat) (q : Nat)
  /-- BAR (R97). Arrives at a barrier of a scope and blocks until it is released. -/
  | bar (sc : Nat) (b : Nat) (sp : Nat)
  /-- XSLOT (R202). Acquires an expert slot of the die by lookup or clock sweep. -/
  | xslot (sd : Nat) (sa : Nat)
  /-- XSLOT_REL (R202). Releases one reference to an expert slot. -/
  | xslotRel (sd : Nat) (sa : Nat)
  /-- ACCEPT (R275). Walks an acceptance record and writes the accepted path, the emitted tokens and the storyboard index. -/
  | accept (sd : Nat) (sa : Nat)
  /-- PKEY (R278). Hashes a parent key and 16 tokens into a page key with SHA-512. -/
  | pkey (sd : Nat) (sa : Nat) (sb : Nat)
  /-- PLOOK (R280). Looks up a page key in the die's page directory and optionally inserts it. -/
  | plook (sd : Nat) (sa : Nat)
  /-- COMBINE (R290). Arrives at a combine group for a merge or sum collective and blocks until release. -/
  | combine (rn : Bool) (sa : Nat)
  /-- HRING (R287). Posts a token record to the partition's host ring, checked against the position table. -/
  | hring (sa : Nat)
  /-- IRQ (R304). Posts an MSI-X vector of the partition's range to the host. -/
  | irq (n : Nat)
  /-- RESULT_LANDING (R8). A result lands in its register at issue + latency under its captured cube. -/
  | resultLanding (core : Nat) (ctx : Nat) (id : Nat)
  /-- GUARD_LANDING (R176). A guard lands true or false and contrary takes, held stores and deferred entries vanish. -/
  | guardLanding (core : Nat) (ctx : Nat) (gi : Nat)
  /-- BRD_EFFECT (R192). In the cycle after the branch guard lands, issue goes to the target or continues in sequence. -/
  | brdEffect (core : Nat) (ctx : Nat)
  /-- HELD_STORE_RELEASE (R186). A held store whose cube has become true is released, one entry per cycle. -/
  | heldStoreRelease (core : Nat) (ctx : Nat)
  /-- HELD_STORE_PERFORM (R186). A released held store performs four cycles after its release. -/
  | heldStorePerform (core : Nat) (ctx : Nat) (id : Nat)
  /-- STORE_PERFORM (R164). A store or scatter writes scratchpad at issue + 4. -/
  | storePerform (core : Nat) (ctx : Nat) (id : Nat)
  /-- HANDLER_ENTRY (R321). At the quiet point after a user fault or SYSCALL, the trap CSRs are written and the context goes to supervisor privilege. -/
  | handlerEntry (core : Nat) (ctx : Nat)
  /-- FAULT_STOP (R324). A fault at supervisor privilege, or a stop under the debugger, makes the context Stopped at its quiet point. -/
  | faultStop (core : Nat) (ctx : Nat)
  /-- CONTEXT_SWITCH (R94). Four cycles after the holder blocks, halts or stops, the next ready context issues. -/
  | contextSwitch (core : Nat)
  /-- BLOCK_RELEASE (R93). A blocked slate bundle whose operation can complete issues or becomes Ready. -/
  | blockRelease (core : Nat) (ctx : Nat)
  /-- WAIT_END (R89). A WAITC or SCENE wait reaches its target cycle and the next bundle issues. -/
  | waitEnd (core : Nat) (ctx : Nat)
  /-- TQ_ENTRY_RECEIVABLE (R95). A sent entry becomes receivable at issue + 6 and joins the queue in order. -/
  | tqEntryReceivable (tq : Nat) (id : Nat)
  /-- TQ_PLACE_FREED (R96). A receive frees its place at issue + 1, which goes to the longest-waiting sender or hold entry. -/
  | tqPlaceFreed (tq : Nat)
  /-- BARRIER_RELEASE (R97). L cycles after the Nth arrival every participant can complete and LASTREL is set. -/
  | barrierRelease (part : Nat) (sc : Nat) (inst : Nat) (num : Nat)
  /-- FLIT_LEAVE (R233). A flit leaves its lane 129 cycles after entry, which counts as the transfer's arrival. -/
  | flitLeave (die : Nat) (id : Nat)
  /-- COPY_START (R235). At its start cycle a copy reads its whole source with its poison state. -/
  | copyStart (core : Nat) (id : Nat)
  /-- COPY_ARRIVAL (R235). At S + L a copy writes its destination and tag and frees its buffer entry. -/
  | copyArrival (core : Nat) (id : Nat)
  /-- COPY_POSTED_WRITE (R238). A copy to host or pod memory leaves the package as posted 64-byte writes under flow control. -/
  | copyPostedWrite (core : Nat) (id : Nat) (gran : Nat)
  /-- COPY_READ_RETURN (R238). Data of a copy from host or pod memory returns and becomes queue entries in address order. -/
  | copyReadReturn (core : Nat) (id : Nat) (gran : Nat) (data : Nat) (poison : Bool)
  /-- LAZY_DRAIN (R241). A lazy-buffer entry performs all its bytes through the fill port. -/
  | lazyDrain (core : Nat) (id : Nat)
  /-- ATOM_PERFORM (R245). An in-package atomic reads and writes its word at issue + 4 + p. -/
  | atomPerform (core : Nat) (id : Nat)
  /-- ATOM_REPLY (R246). The old value of a host or pod atomic arrives as an entry in the window's reply queue. -/
  | atomReply (core : Nat) (id : Nat) (old : Nat) (refused : Bool)
  /-- BIND_COMPLETE (R231). At issue + 64 the window binding takes effect, or a bind fault is taken. -/
  | bindComplete (core : Nat) (ctx : Nat)
  /-- FLUSH_GRANULE_PERSIST (R247). A flushed granule persists on the flush path at P0 + 2i. -/
  | flushGranulePersist (core : Nat) (id : Nat) (gran : Nat)
  /-- PSAVE_HEADER_WRITE (R249). A shadow record's header is written after its payload, and the record persists. -/
  | psaveHeaderWrite (core : Nat) (id : Nat)
  /-- QUEUE_SHADOW_PERSIST (R265). A token-queue change is written to its shadow and persists at change + 32. -/
  | queueShadowPersist (tq : Nat) (id : Nat)
  /-- MMUL_ROW_ENTRY (R204). A live row pops its port, passes its checks and enters the array with its bank. -/
  | mmulRowEntry (core : Nat) (id : Nat) (row : Nat)
  /-- MMUL_ROW_LAND (R203). An accumulator row lands 260 cycles after its entry and sets LIVE. -/
  | mmulRowLand (core : Nat) (id : Nat) (row : Nat)
  /-- MWLOAD_FILL_POP (R198). A fill pop delivers one column into the shadow copy. -/
  | mwloadFillPop (core : Nat) (id : Nat) (j : Nat)
  /-- MWLOAD_FILL_LAND (R198). At issue + 260 the shadow holds the new columns and format. -/
  | mwloadFillLand (core : Nat) (id : Nat)
  /-- MGRAD_LAND (R216). The gradient tile lands with LIVE set and its events. -/
  | mgradLand (core : Nat) (id : Nat)
  /-- DRAIN_ROW_READ (R209). A drain reads a tile row through its epilogues. -/
  | drainRowRead (core : Nat) (id : Nat) (row : Nat)
  /-- DRAIN_SCALE_READ (R211). A .scale drain reads one row of the band-scale block per cycle. -/
  | drainScaleRead (core : Nat) (id : Nat) (k : Nat)
  /-- SEGMENT_ARRIVAL (R210). A drained segment arrives in its result queue. -/
  | segmentArrival (core : Nat) (id : Nat) (k : Nat)
  /-- TREE_APPLY (R214). Drain reads from MTREE issue + 66 on use the new tree. -/
  | treeApply (core : Nat) (id : Nat)
  /-- XSLOT_PERFORM (R202). The slot request performs on the die table at issue + 260 and its result lands. -/
  | xslotPerform (core : Nat) (id : Nat)
  /-- ACCEPT_ROW_READ (R276). ACCEPT reads record rows 1 and 2 in the cycles after issue and may lose a bank conflict. -/
  | acceptRowRead (core : Nat) (id : Nat) (k : Nat)
  /-- ACCEPT_COMPLETE (R276). At issue + 40 ACCEPT writes rows 3 and 4 and lands INDEX. -/
  | acceptComplete (core : Nat) (id : Nat)
  /-- PKEY_COMPLETE (R278). At issue + 96 the page key is written and the digest lands. -/
  | pkeyComplete (core : Nat) (id : Nat)
  /-- PLOOK_PERFORM (R280). At issue + 32 the lookup or insert performs on the page directory and its result lands. -/
  | plookPerform (core : Nat) (id : Nat)
  /-- HRING_DEPART (R287). At issue + 32 the ring change persists and the slot's posted write departs to the host. -/
  | hringDepart (part : Nat) (id : Nat)
  /-- RING_COALESCE_TIMEOUT (R288). 52,500 cycles after the first unsignalled departure, the ring posts its vector. -/
  | ringCoalesceTimeout (part : Nat)
  /-- COMBINE_ROW_READ (R290). A combine arrival reads header rows in the cycles after arrival and may lose a bank conflict. -/
  | combineRowRead (core : Nat) (ctx : Nat) (k : Nat)
  /-- COMBINE_CLOSE_TIMEOUT (R290). A combine phase closes as DEGRADED at a0 + 16,752 if fewer than N arrived. -/
  | combineCloseTimeout (part : Nat) (grp : Nat) (phase : Nat)
  /-- COMBINE_RELEASE (R290). At release the result rows and status of every arrived participant are written. -/
  | combineRelease (part : Nat) (grp : Nat) (phase : Nat)
  /-- TASK_LAUNCH (R102). The scheduler selects one launchable head and sends its launch write, with scene base t + 53. -/
  | taskLaunch (q : Nat)
  /-- TASK_COMPLETE (R105). The task completes after its last halt, perform and arrival, and its completion record is written. -/
  | taskComplete (id : Nat)
  /-- TASK_TRIGGER (R106). The task is triggered once every gang core has issued TRIGGER or HALT. -/
  | taskTrigger (id : Nat)
  /-- PREEMPT_STOP (R109). At T′, or at the first slate at or after T′, a gang context stops for saving. -/
  | preemptStop (core : Nat) (ctx : Nat)
  /-- CONTEXT_SAVE_COMPLETE (R330). The stopped context's record header is written and the context and array become free. -/
  | contextSaveComplete (core : Nat) (ctx : Nat) (id : Nat)
  /-- GRAPH_LAUNCH (R285). A LAUNCH node enqueues its template task with an assigned TASKID. -/
  | graphLaunch (part : Nat)
  /-- GRAPH_WAIT (R285). A WAIT node finishes when the task of its named node is complete. -/
  | graphWait (part : Nat)
  /-- GRAPH_COND (R285). A COND node tests a memory word and branches, up to LIMIT times. -/
  | graphCond (part : Nat)
  /-- GRAPH_END (R285). An END node posts its vector and ends the graph. -/
  | graphEnd (part : Nat)
  /-- ZEROING_END (R299). Z cycles after it starts, a unit's zeroing ends and the unit is usable. -/
  | zeroingEnd (unit : Nat) (idx : Nat)
  /-- DEBUG_STOP (R360). The context stops at its next slate and its stop record is written. -/
  | debugStop (core : Nat) (ctx : Nat)
  /-- THERMAL_TRIP (R350). A die temperature reaching TRIP takes every compute rail down. -/
  | thermalTrip (die : Nat) (temp : Nat)
  /-- SUPPLY_FAILURE (R332). A core or die rail loses power after cycle b. -/
  | supplyFailure (dieRail : Bool) (place : Nat) (cause : Nat)
  /-- LOSS_REPORT (R350). Twenty cycles after a loss the power controller reports it and the affected tasks are stopped. -/
  | lossReport (dieRail : Bool) (place : Nat) (cause : Nat)
  /-- GATE_REQUEST (R349). After the idle count the power controller asks to gate a core. -/
  | gateRequest (core : Nat)
  /-- CORE_GATE (R333). At a slate of the holder, each context is saved as a gate record and the rail goes down. -/
  | coreGate (core : Nat)
  /-- CORE_UNGATE (R333). The core is powered again and its contexts are restored Ready. -/
  | coreUngate (core : Nat)
  /-- RECOVERY_RESUME (R334). After a supply failure, the gang resumes from the newest stop key that every member holds. -/
  | recoveryResume (q : Nat)
  /-- QUEUE_RESET_MESSAGE (R355). A received queue-reset message restarts the sender's sequence numbers for that queue. -/
  | queueResetMessage (src : Nat) (die : Nat) (q : Nat)
  /-- HOST_MEMORY_ACCESS (R352). A host read or write through BAR2 performs as an outside access. -/
  | hostMemoryAccess (wr : Bool) (addr : Nat) (len : Nat) (data : Nat)
  /-- QUEUE_APERTURE_WRITE (R352). A host write of a 64-byte block through BAR4 becomes an inbound queue entry. -/
  | queueApertureWrite (off : Nat) (len : Nat) (data : Nat) (poison : Bool)
  /-- HOST_ATOMICOP (R353). An AtomicOp from the host is completed with Unsupported Request. -/
  | hostAtomicop (addr : Nat)
  /-- ZIESH_REQUEST (R354). A pod request arriving on a Ziesh link is decoded and served, or refused and logged.
  `head` is its kind (low 3 bits) and the sequence number of the sender's copy or atomic (log 51). -/
  | zieshRequest (src : Nat) (head : Nat) (addr : Nat) (len : Nat) (data : Nat) (poison : Bool)
  /-- LINK_DOWN (R354). A Ziesh link goes down; unacknowledged requests are lost and logged, then traffic is remapped. -/
  | linkDown (link : Nat)
  /-- DEFINED_NO_OPERATION (R49). A word in a defined no-operation range (C 0x38–0x3E, S-R page 1 F 24–31, unary minors 48–63, M/L/Q opcodes 56–62) issues as NOP and ignores its other fields. -/
  | definedNop (cls : Cls) (w : Nat)
  /-- UNCORRECTABLE_ERROR (R338). An uncorrectable error strikes a scratchpad or ring-store granule, a register, a tile or the flush mirror, poisoning it and writing an error-log entry. -/
  | uncorrectableError (kind : Nat) (place : Nat) (idx : Nat)
  /-- POWER_RESTORED (R350). Power returns to a core or die rail, or to the package, after a supply failure or thermal trip, so that lost cores can serve recovery again. -/
  | powerRestored (kind : Nat) (place : Nat)
  /-- ZIESH_LINK_UP (R354). A Ziesh link comes up and trains, changing NUP and so the link chosen for each target package. -/
  | zieshLinkUp (link : Nat) (pkg : Nat)
  /-- NOP (R48). The all-zero word in any slot issues in its bundle's cycle and does nothing. -/
  | nop
  /-- RET (R82). Returns to the address in s55 after three delay bundles. -/
  | ret
  /-- LEND (R83). Ends a loop body: either repeats the level's first body bundle or closes the level. -/
  | lend
  /-- HALT (R85). Ends the context's part in its task, frees the context and releases the REL banks. -/
  | halt
  /-- TRIGGER (R86). Records that the core has reached its trigger point. -/
  | trigger
  /-- YIELD (R87). Blocks once so that another ready context of the core may take it. -/
  | yieldC
  /-- ERET (R88). Returns from a handler to TPC at the saved privilege and takes any held traps. -/
  | eret
  /-- MOWN (R196). Makes the issuing context the owner of the matrix array. -/
  | mown
  /-- MREL (R196). Frees the matrix array and keeps its contents. -/
  | mrel
  /-- FENCE_O (R242). Starts a new lazy-store epoch. -/
  | fenceO
  /-- PSAVE (R249). Captures the context state and writes it as a shadow record. -/
  | psave
  /-- QTAIL_DOORBELL (R108). A QTAIL write enqueues tasks, or sets ERR code 4 on overrun. -/
  | qtailDoorbell
  /-- QCFG_WRITE (R108). A QCFG write configures the queue; setting EN clears ERR and CODE. -/
  | qcfgWrite
  /-- PREEMPT_WRITE (R109). A PREEMPT write requests a stop of a running task at T′. -/
  | preemptWrite
  /-- GNODE_WRITE (R284). A GNODE write starts the partition's command graph at node 0. -/
  | gnodeWrite
  /-- HRCFG_WRITE (R286). An HRCFG write configures the ring; setting EN clears HRTAIL and the position table. -/
  | hrcfgWrite
  /-- HRHEAD_WRITE (R287). The host records consumed slots, freeing room for a blocked HRING. -/
  | hrheadWrite
  /-- EXPERT_SLOT_WRITE (R201). A control-space write changes an expert slot within the writer's rights. -/
  | expertSlotWrite
  /-- PARTITION_GRANT (R298). Setting a PCORE, PRS or PTQ bit grants a unit, which then begins zeroing. -/
  | partitionGrant
  /-- PARTITION_REVOKE (R298). Clearing a bit revokes a unit unless it is in use. -/
  | partitionRevoke
  /-- OWNER_CHANGE (R300). A PCFG.OWNER write zeroes every unit and table of the partition. -/
  | ownerChange
  /-- MIRROR_WRITE (R308). A page-table mirror write performs on all dies, or is discarded if a window pins the entry. -/
  | mirrorWrite
  /-- EXT_WRITE (R315). An EXT write extends the partition's measurement register with SHA-512. -/
  | extWrite
  /-- QREQ_WRITE (R317). A QREQ write starts a quote over the nonce and the partition's measurement. -/
  | qreqWrite
  /-- QUOTE_COMPLETE (R317). The Ed25519 signature appears in QSIG. -/
  | quoteComplete
  /-- DEBUG_ATTACH (R325). A DBGCTL write sets or clears ATTACH for the partition. -/
  | debugAttach
  /-- DEBUG_RESUME (R325). Writing RESUME makes the named Stopped context Ready. -/
  | debugResume
  /-- DBGSTOP_WRITE (R360). A DBGSTOP write requests a debugger stop of the selected context. -/
  | dbgstopWrite
  /-- DEBUG_IMAGE_WRITE (R360). The host writes a Stopped context's image through the debugger window. -/
  | debugImageWrite
  /-- DEBUG_APERTURE_ACCESS (R360). The host reads or writes the selected core's scratchpad through the aperture. -/
  | debugApertureAccess
  /-- TKILL (R326). A TKILL write ends a task, frees its contexts and marks it complete. -/
  | tkill
  /-- POISONARR_BAR (R341). A POISONARR write makes one poisoned arrival at a barrier. -/
  | poisonarrBar
  /-- POISONARR_COMBINE (R341). A POISONARR write makes one poisoned arrival at a combine phase. -/
  | poisonarrCombine
  /-- PKGNUM_WRITE (R349). Sets the package number, unless a partition is enabled. -/
  | pkgnumWrite
  /-- QRST_CLEAR (R349). Writing 1 clears a queue's rebuilt bit. -/
  | qrstClear
  /-- SUPTEST_ARM (R351). The test hook arms a rail failure after cycle B. -/
  | suptestArm
  /-- SUPTEST_RESTORE (R351). The test hook powers the failed rail again. -/
  | suptestRestore
  /-- PACKAGE_RESET (R356). PERST# or RESET# starts bring-up in reduced service. -/
  | packageReset
  /-- FULL_SERVICE_CHANGE (R342). Once all is ready and every context is Free, the clock changes to 1.05 GHz and every die enters service. -/
  | fullServiceChange
  /-- CONTROL_REGISTER_WRITE (R305). A write to a control-space register that has no row of its own, checked against the writer's rights. -/
  | controlRegisterWrite
  deriving DecidableEq, Repr

end Sys2Proof
end

