-- ==== Sys2Proof/WellFormed.lean ====
section
/-! DEFINITION. Which operand values an instruction word can hold (03_encoding.md, Tables 03-4 to 03-19). -/

namespace Sys2Proof

/-- A literal of a guard field (R49, R51): polarity 1 with index 0 is no code of it. -/
abbrev Lit.wf (l : Lit) : Prop := l.idx < 16 ∧ (l.neg = true → l.idx ≠ 0)

/-- A literal operand of guard logic (R49, R191): `!g0` is a valid operand there. -/
abbrev Lit.wfOp (l : Lit) : Prop := l.idx < 16

/-- `x` fits a signed field of `n + 1` bits. -/
abbrev inS (n : Nat) (x : Int) : Prop := -(2 ^ n : Int) ≤ x ∧ x < 2 ^ n

/-- A header that passes the word checks of R47. -/
abbrev Header.wf (h : Header) : Prop := h.fst < 7 ∧ h.lst < 7 ∧ (h.ps = true → h.sl = true)

/-- A word in a defined no-operation range of its class (R49, R52, R55, R61, R64, R65, R67). In class C it is the 24 bits
below the header; every other field is ignored, the guard field included. -/
def definedNopWord (k : Cls) (w : Nat) : Bool :=
  match k with
  | .c => w < 2 ^ 24 && (0x38 ≤ w / 2 ^ 18 && w / 2 ^ 18 ≤ 0x3E)
  | .s => w / 2 ^ 29 == 1 && 24 ≤ w / 2 ^ 18 % 32
  | .v => w < 2 ^ 32 && w / 4 % 32 == 0x1E && 48 ≤ w / 2 ^ 7 % 64 && w != 0xFFFFFFFF
  | .m | .l | .q => 56 ≤ w / 2 ^ 26 && w / 2 ^ 26 ≤ 62

/-- The operands of an instruction word are values its encoding can hold; an event row has no encoding and no condition. -/
def Instr.WellFormed : Instr → Prop
  | .br off => inS 17 off
  | .brc l off => l.wf ∧ l.idx ≠ 0 ∧ inS 12 off
  | .brd l off => l.wf ∧ l.idx ≠ 0 ∧ inS 12 off
  | .jt sa sb => sa < 64 ∧ sb < 64
  | .call off => inS 17 off
  | .callg sa => sa < 64
  | .loopReg sa => sa < 64
  | .loopImm n => 1 ≤ n ∧ n < 131072
  | .trap n => n < 256
  | .brk n => n < 256
  | .syscall n => n < 4096
  | .waitc sa => sa < 64
  | .slateQ sd => sd < 64
  | .slateT sd => sd < 64
  | .scene d => d < 131072
  | .add g _ sd sa sb => g.wf ∧ sd < 64 ∧ sa < 64 ∧ sb < 64
  | .sub g _ sd sa sb => g.wf ∧ sd < 64 ∧ sa < 64 ∧ sb < 64
  | .andS g _ sd sa sb => g.wf ∧ sd < 64 ∧ sa < 64 ∧ sb < 64
  | .orS g _ sd sa sb => g.wf ∧ sd < 64 ∧ sa < 64 ∧ sb < 64
  | .xorS g _ sd sa sb => g.wf ∧ sd < 64 ∧ sa < 64 ∧ sb < 64
  | .andn g _ sd sa sb => g.wf ∧ sd < 64 ∧ sa < 64 ∧ sb < 64
  | .shl g _ sd sa sb => g.wf ∧ sd < 64 ∧ sa < 64 ∧ sb < 64
  | .shr g _ sd sa sb => g.wf ∧ sd < 64 ∧ sa < 64 ∧ sb < 64
  | .sar g _ sd sa sb => g.wf ∧ sd < 64 ∧ sa < 64 ∧ sb < 64
  | .minS g _ sd sa sb => g.wf ∧ sd < 64 ∧ sa < 64 ∧ sb < 64
  | .maxS g _ sd sa sb => g.wf ∧ sd < 64 ∧ sa < 64 ∧ sb < 64
  | .minN g _ sd sa sb => g.wf ∧ sd < 64 ∧ sa < 64 ∧ sb < 64
  | .maxN g _ sd sa sb => g.wf ∧ sd < 64 ∧ sa < 64 ∧ sb < 64
  | .sel l _ sd sa sb => l.wf ∧ sd < 64 ∧ sa < 64 ∧ sb < 64
  | .clz g _ sd sa => g.wf ∧ sd < 64 ∧ sa < 64
  | .popc g _ sd sa => g.wf ∧ sd < 64 ∧ sa < 64
  | .mul g _ sd sa sb => g.wf ∧ sd < 64 ∧ sa < 64 ∧ sb < 64
  | .mulh g _ sd sa sb => g.wf ∧ sd < 64 ∧ sa < 64 ∧ sb < 64
  | .mulhN g _ sd sa sb => g.wf ∧ sd < 64 ∧ sa < 64 ∧ sb < 64
  | .divS g _ sd sa sb => g.wf ∧ sd < 64 ∧ sa < 64 ∧ sb < 64
  | .divN g _ sd sa sb => g.wf ∧ sd < 64 ∧ sa < 64 ∧ sb < 64
  | .rem g _ sd sa sb => g.wf ∧ sd < 64 ∧ sa < 64 ∧ sb < 64
  | .remN g _ sd sa sb => g.wf ∧ sd < 64 ∧ sa < 64 ∧ sb < 64
  | .cmp g cond gd sa sb => g.wf ∧ cond < 8 ∧ gd < 16 ∧ sa < 64 ∧ sb < 64
  | .gand g gd la lb => g.wf ∧ gd < 16 ∧ la.wfOp ∧ lb.wfOp
  | .gor g gd la lb => g.wf ∧ gd < 16 ∧ la.wfOp ∧ lb.wfOp
  | .gnot g gd la => g.wf ∧ gd < 16 ∧ la.wfOp
  | .gcopy g gd la => g.wf ∧ gd < 16 ∧ la.wfOp
  | .takeWait g k => g.wf ∧ k < 16
  | .tkcnt g sd sa => g.wf ∧ sd < 64 ∧ sa < 64
  | .csrr g sd n => g.wf ∧ sd < 64 ∧ n < 4096
  | .csrw g sa n => g.wf ∧ sa < 64 ∧ n < 4096
  | .rol g _ sd sa sb => g.wf ∧ sd < 64 ∧ sa < 64 ∧ sb < 64
  | .ror g _ sd sa sb => g.wf ∧ sd < 64 ∧ sa < 64 ∧ sb < 64
  | .ctz g _ sd sa => g.wf ∧ sd < 64 ∧ sa < 64
  | .addx1 g _ sd sa sb => g.wf ∧ sd < 64 ∧ sa < 64 ∧ sb < 64
  | .addx2 g _ sd sa sb => g.wf ∧ sd < 64 ∧ sa < 64 ∧ sb < 64
  | .addx3 g _ sd sa sb => g.wf ∧ sd < 64 ∧ sa < 64 ∧ sb < 64
  | .addx8 g _ sd sa sb => g.wf ∧ sd < 64 ∧ sa < 64 ∧ sb < 64
  | .addi g sd sa imm => g.wf ∧ sd < 64 ∧ sa < 64 ∧ inS 11 imm
  | .lih sd imm => sd < 64 ∧ imm < 1048576
  | .cmpi g cond gd sa imm => g.wf ∧ cond < 8 ∧ gd < 16 ∧ sa < 64 ∧ imm < 1024
  | .shli g sd sa amt => g.wf ∧ sd < 64 ∧ sa < 64 ∧ amt < 64
  | .shri g sd sa amt => g.wf ∧ sd < 64 ∧ sa < 64 ∧ amt < 64
  | .sari g sd sa amt => g.wf ∧ sd < 64 ∧ sa < 64 ∧ amt < 64
  | .andi g sd sa imm => g.wf ∧ sd < 64 ∧ sa < 64 ∧ inS 8 imm
  | .ori g sd sa imm => g.wf ∧ sd < 64 ∧ sa < 64 ∧ inS 8 imm
  | .xori g sd sa imm => g.wf ∧ sd < 64 ∧ sa < 64 ∧ inS 8 imm
  | .roli g sd sa amt => g.wf ∧ sd < 64 ∧ sa < 64 ∧ amt < 64
  | .vaddInt g ty vd va vb => g.wf ∧ ty < 4 ∧ vd < 128 ∧ va < 128 ∧ vb < 64
  | .vsubInt g ty vd va vb => g.wf ∧ ty < 4 ∧ vd < 128 ∧ va < 128 ∧ vb < 64
  | .vmulInt g ty vd va vb => g.wf ∧ ty < 4 ∧ vd < 128 ∧ va < 128 ∧ vb < 64
  | .vminInt g ty vd va vb => g.wf ∧ ty < 4 ∧ vd < 128 ∧ va < 128 ∧ vb < 64
  | .vmaxInt g ty vd va vb => g.wf ∧ ty < 4 ∧ vd < 128 ∧ va < 128 ∧ vb < 64
  | .vminN g ty vd va vb => g.wf ∧ ty < 4 ∧ vd < 128 ∧ va < 128 ∧ vb < 64
  | .vmaxN g ty vd va vb => g.wf ∧ ty < 4 ∧ vd < 128 ∧ va < 128 ∧ vb < 64
  | .vaddSatI g ty vd va vb => g.wf ∧ ty < 4 ∧ vd < 128 ∧ va < 128 ∧ vb < 64
  | .vsubSatI g ty vd va vb => g.wf ∧ ty < 4 ∧ vd < 128 ∧ va < 128 ∧ vb < 64
  | .vaddSatN g ty vd va vb => g.wf ∧ ty < 4 ∧ vd < 128 ∧ va < 128 ∧ vb < 64
  | .vsubSatN g ty vd va vb => g.wf ∧ ty < 4 ∧ vd < 128 ∧ va < 128 ∧ vb < 64
  | .vshl g ty vd va vb => g.wf ∧ ty < 4 ∧ vd < 128 ∧ va < 128 ∧ vb < 64
  | .vshr g ty vd va vb => g.wf ∧ ty < 4 ∧ vd < 128 ∧ va < 128 ∧ vb < 64
  | .vsar g ty vd va vb => g.wf ∧ ty < 4 ∧ vd < 128 ∧ va < 128 ∧ vb < 64
  | .vand g vd va vb => g.wf ∧ vd < 128 ∧ va < 128 ∧ vb < 64
  | .vor g vd va vb => g.wf ∧ vd < 128 ∧ va < 128 ∧ vb < 64
  | .vxor g vd va vb => g.wf ∧ vd < 128 ∧ va < 128 ∧ vb < 64
  | .vandn g vd va vb => g.wf ∧ vd < 128 ∧ va < 128 ∧ vb < 64
  | .vaddFp g ty vd va vb => g.wf ∧ ty < 3 ∧ vd < 128 ∧ va < 128 ∧ vb < 64
  | .vsubFp g ty vd va vb => g.wf ∧ ty < 3 ∧ vd < 128 ∧ va < 128 ∧ vb < 64
  | .vmulFp g ty vd va vb => g.wf ∧ ty < 3 ∧ vd < 128 ∧ va < 128 ∧ vb < 64
  | .vfma g ty vd va vb => g.wf ∧ ty < 3 ∧ vd < 128 ∧ va < 128 ∧ vb < 64
  | .vminFp g ty vd va vb => g.wf ∧ ty < 3 ∧ vd < 128 ∧ va < 128 ∧ vb < 64
  | .vmaxFp g ty vd va vb => g.wf ∧ ty < 3 ∧ vd < 128 ∧ va < 128 ∧ vb < 64
  | .vcmpInt g ty cond m va vb => g.wf ∧ ty < 4 ∧ cond < 8 ∧ m < 8 ∧ va < 128 ∧ vb < 64
  | .vcmpFp g ty cond m va vb => g.wf ∧ ty < 3 ∧ cond < 9 ∧ cond ≠ 4 ∧ cond ≠ 5 ∧ m < 8 ∧ va < 128 ∧ vb < 64
  | .vsel g ty vd va m => g.wf ∧ ty < 4 ∧ vd < 128 ∧ va < 128 ∧ m < 8
  | .vpermb g vd va vb => g.wf ∧ vd < 128 ∧ va < 128 ∧ vb < 64
  | .vshuf g vd va vb => g.wf ∧ vd < 128 ∧ va < 128 ∧ vb < 64
  | .vdot4 g _ vd va vb => g.wf ∧ vd < 128 ∧ va < 128 ∧ vb < 64
  | .vbcast g ty vd va vb => g.wf ∧ ty < 4 ∧ vd < 128 ∧ va < 128 ∧ vb < 64
  | .vpack g ty vd va vb => g.wf ∧ ty < 3 ∧ vd < 128 ∧ va < 128 ∧ vb < 64
  | .vunpk g ty vd va _ _ => g.wf ∧ ty < 3 ∧ vd < 128 ∧ va < 128
  | .vcvt g dst rnd src vd va => g.wf ∧ dst < 8 ∧ rnd < 3 ∧ src < 8 ∧ src ≠ dst ∧ vd < 128 ∧ va < 128
  | .vmov g vd va => g.wf ∧ vd < 128 ∧ va < 128
  | .vexp g ty vd va => g.wf ∧ ty < 3 ∧ vd < 128 ∧ va < 128
  | .vrcp g ty vd va => g.wf ∧ ty < 3 ∧ vd < 128 ∧ va < 128
  | .vrsq g ty vd va => g.wf ∧ ty < 3 ∧ vd < 128 ∧ va < 128
  | .vlog g ty vd va => g.wf ∧ ty < 3 ∧ vd < 128 ∧ va < 128
  | .vredAdd g ty sd va => g.wf ∧ ty < 4 ∧ sd < 64 ∧ va < 128
  | .vredMax g ty sd va => g.wf ∧ ty < 4 ∧ sd < 64 ∧ va < 128
  | .vredMin g ty sd va => g.wf ∧ ty < 4 ∧ sd < 64 ∧ va < 128
  | .vany g ty gd m => g.wf ∧ ty < 4 ∧ gd < 16 ∧ m < 8
  | .vall g ty gd m => g.wf ∧ ty < 4 ∧ gd < 16 ∧ m < 8
  | .vscanAdd g ty vd va => g.wf ∧ ty < 4 ∧ vd < 128 ∧ va < 128
  | .vscanMax g ty vd va => g.wf ∧ ty < 4 ∧ vd < 128 ∧ va < 128
  | .vrng g vd va => g.wf ∧ vd < 128 ∧ va < 128
  | .vsat g ty vd va => g.wf ∧ ty < 3 ∧ vd < 128 ∧ va < 128
  | .vsatN g ty vd va => g.wf ∧ ty < 3 ∧ vd < 128 ∧ va < 128
  | .vcompressG16 g ty vd va => g.wf ∧ ty < 4 ∧ vd < 128 ∧ va < 128
  | .vcompressG8 g k ty vd va => g.wf ∧ 1 ≤ k ∧ k < 8 ∧ ty < 4 ∧ vd < 128 ∧ va < 128
  | .vmovOq g vd oq vb => g.wf ∧ vd < 128 ∧ oq < 8 ∧ vb < 64
  | .vaddOqFp g ty vd oq vb => g.wf ∧ ty < 3 ∧ vd < 128 ∧ oq < 8 ∧ vb < 64
  | .vmulOqFp g ty vd oq vb => g.wf ∧ ty < 3 ∧ vd < 128 ∧ oq < 8 ∧ vb < 64
  | .vfmaOq g ty vd oq vb => g.wf ∧ ty < 3 ∧ vd < 128 ∧ oq < 8 ∧ vb < 64
  | .vmaxOq g ty vd oq vb => g.wf ∧ ty < 3 ∧ vd < 128 ∧ oq < 8 ∧ vb < 64
  | .vaddOqInt g ty vd oq vb => g.wf ∧ ty < 4 ∧ vd < 128 ∧ oq < 8 ∧ vb < 64
  | .vmulOqInt g ty vd oq vb => g.wf ∧ ty < 4 ∧ vd < 128 ∧ oq < 8 ∧ vb < 64
  | .mwload fmt bank p => fmt < 6 ∧ bank < 4 ∧ p < 8
  | .mswap mask => 1 ≤ mask ∧ mask < 16
  | .mres bank sa => bank < 4 ∧ sa < 64
  | .mmulTm _ live acc p m n sl => acc < 8 ∧ p < 8 ∧ m < 8 ∧ 1 ≤ n ∧ n ≤ 256 ∧ sl < 64 ∧ (live = false → sl = 0)
  | .mmulBank _ live acc p bank n sl => acc < 8 ∧ p < 8 ∧ bank < 4 ∧ 1 ≤ n ∧ n ≤ 256 ∧ sl < 64 ∧ (live = false → sl = 0)
  | .mdrain oq acc scale topk tree sp n => oq < 8 ∧ acc < 8 ∧ ¬ (topk = true ∧ tree = true) ∧ sp < 64 ∧ (scale = false → topk = false → tree = false → sp = 0) ∧ 1 ≤ n ∧ n ≤ 256
  | .mtopk k sa => 1 ≤ k ∧ k ≤ 64 ∧ sa < 64
  | .mtree sa => sa < 64
  | .mgrad bank acc p n => bank < 4 ∧ acc < 8 ∧ p < 8 ∧ 1 ≤ n ∧ n ≤ 256
  | .mlive sd acc => sd < 64 ∧ acc < 8
  | .mclr mask => 1 ≤ mask ∧ mask < 256
  | .ld g ty sd sa off => g.wf ∧ ty < 7 ∧ sd < 64 ∧ sa < 64 ∧ inS 8 off
  | .st g ty sv sa off => g.wf ∧ ty < 4 ∧ sv < 64 ∧ sa < 64 ∧ inS 8 off
  | .stZ g ty sv sa off => g.wf ∧ ty < 4 ∧ sv < 64 ∧ sa < 64 ∧ inS 8 off
  | .vld g vd sa off => g.wf ∧ vd < 128 ∧ sa < 64 ∧ inS 7 off
  | .vst g vv sa off => g.wf ∧ vv < 128 ∧ sa < 64 ∧ inS 7 off
  | .vgather g vd sa vi => g.wf ∧ vd < 128 ∧ sa < 64 ∧ vi < 32
  | .vscatter g vv sa vi => g.wf ∧ vv < 128 ∧ sa < 64 ∧ vi < 32
  | .pset p sa => p < 8 ∧ sa < 64
  | .ptag p t => p < 8 ∧ t < 256
  | .seal hd sa => hd < 16 ∧ sa < 64
  | .bind w sa => w < 16 ∧ sa < 64
  | .copy rd ra rn rt => rd < 64 ∧ ra < 64 ∧ rn < 64 ∧ rt < 64
  | .atom op _ sd sa sb => op < 7 ∧ sd < 64 ∧ sa < 64 ∧ sb < 64
  | .fenceX sa => sa < 64
  | .pflush sa sn => sa < 64 ∧ sn < 64
  | .pfence sc => 1 ≤ sc ∧ sc ≤ 4
  | .rtx lane v => lane < 16 ∧ v < 128
  | .rtap lane sa t => lane < 16 ∧ sa < 64 ∧ t < 256
  | .tqsend q v => q < 64 ∧ v < 128
  | .tqrecv v q => v < 128 ∧ q < 64
  | .tqpeek sd q => sd < 64 ∧ q < 64
  | .bar sc b sp => sc ≤ 5 ∧ b < 16 ∧ sp < 64
  | .xslot sd sa => sd < 64 ∧ sa < 64
  | .xslotRel sd sa => sd < 64 ∧ sa < 64
  | .accept sd sa => sd < 64 ∧ sa < 64
  | .pkey sd sa sb => sd < 64 ∧ sa < 64 ∧ sb < 64
  | .plook sd sa => sd < 64 ∧ sa < 64
  | .combine _ sa => sa < 64
  | .hring sa => sa < 64
  | .irq n => n < 2048
  | .resultLanding _ _ _ => True
  | .guardLanding _ _ _ => True
  | .brdEffect _ _ => True
  | .heldStoreRelease _ _ => True
  | .heldStorePerform _ _ _ => True
  | .storePerform _ _ _ => True
  | .handlerEntry _ _ => True
  | .faultStop _ _ => True
  | .contextSwitch _ => True
  | .blockRelease _ _ => True
  | .waitEnd _ _ => True
  | .tqEntryReceivable _ _ => True
  | .tqPlaceFreed _ => True
  | .barrierRelease _ _ _ _ => True
  | .flitLeave _ _ => True
  | .copyStart _ _ => True
  | .copyArrival _ _ => True
  | .copyPostedWrite _ _ _ => True
  | .copyReadReturn _ _ _ _ _ => True
  | .lazyDrain _ _ => True
  | .atomPerform _ _ => True
  | .atomReply _ _ _ _ => True
  | .bindComplete _ _ => True
  | .flushGranulePersist _ _ _ => True
  | .psaveHeaderWrite _ _ => True
  | .queueShadowPersist _ _ => True
  | .mmulRowEntry _ _ _ => True
  | .mmulRowLand _ _ _ => True
  | .mwloadFillPop _ _ _ => True
  | .mwloadFillLand _ _ => True
  | .mgradLand _ _ => True
  | .drainRowRead _ _ _ => True
  | .drainScaleRead _ _ _ => True
  | .segmentArrival _ _ _ => True
  | .treeApply _ _ => True
  | .xslotPerform _ _ => True
  | .acceptRowRead _ _ _ => True
  | .acceptComplete _ _ => True
  | .pkeyComplete _ _ => True
  | .plookPerform _ _ => True
  | .hringDepart _ _ => True
  | .ringCoalesceTimeout _ => True
  | .combineRowRead _ _ _ => True
  | .combineCloseTimeout _ _ _ => True
  | .combineRelease _ _ _ => True
  | .taskLaunch _ => True
  | .taskComplete _ => True
  | .taskTrigger _ => True
  | .preemptStop _ _ => True
  | .contextSaveComplete _ _ _ => True
  | .graphLaunch _ => True
  | .graphWait _ => True
  | .graphCond _ => True
  | .graphEnd _ => True
  | .zeroingEnd _ _ => True
  | .debugStop _ _ => True
  | .thermalTrip _ _ => True
  | .supplyFailure _ _ _ => True
  | .lossReport _ _ _ => True
  | .gateRequest _ => True
  | .coreGate _ => True
  | .coreUngate _ => True
  | .recoveryResume _ => True
  | .queueResetMessage _ _ _ => True
  | .hostMemoryAccess _ _ _ _ => True
  | .queueApertureWrite _ _ _ _ => True
  | .hostAtomicop _ => True
  | .zieshRequest _ _ _ _ _ _ => True
  | .linkDown _ => True
  | .definedNop cls w => definedNopWord cls w = true
  | .uncorrectableError _ _ _ => True
  | .powerRestored _ _ => True
  | .zieshLinkUp _ _ => True
  | .nop => True
  | .ret => True
  | .lend => True
  | .halt => True
  | .trigger => True
  | .yieldC => True
  | .eret => True
  | .mown => True
  | .mrel => True
  | .fenceO => True
  | .psave => True
  | .qtailDoorbell => True
  | .qcfgWrite => True
  | .preemptWrite => True
  | .gnodeWrite => True
  | .hrcfgWrite => True
  | .hrheadWrite => True
  | .expertSlotWrite => True
  | .partitionGrant => True
  | .partitionRevoke => True
  | .ownerChange => True
  | .mirrorWrite => True
  | .extWrite => True
  | .qreqWrite => True
  | .quoteComplete => True
  | .debugAttach => True
  | .debugResume => True
  | .dbgstopWrite => True
  | .debugImageWrite => True
  | .debugApertureAccess => True
  | .tkill => True
  | .poisonarrBar => True
  | .poisonarrCombine => True
  | .pkgnumWrite => True
  | .qrstClear => True
  | .suptestArm => True
  | .suptestRestore => True
  | .packageReset => True
  | .fullServiceChange => True
  | .controlRegisterWrite => True

/-- The slot class that carries an instruction word (Table 01-5); none for NOP, which every slot carries, and for an event row. -/
def Instr.cls : Instr → Option Cls
  | .br _ => some .c
  | .brc _ _ => some .c
  | .brd _ _ => some .c
  | .jt _ _ => some .c
  | .call _ => some .c
  | .callg _ => some .c
  | .loopReg _ => some .c
  | .loopImm _ => some .c
  | .trap _ => some .c
  | .brk _ => some .c
  | .syscall _ => some .c
  | .waitc _ => some .c
  | .slateQ _ => some .c
  | .slateT _ => some .c
  | .scene _ => some .c
  | .add _ _ _ _ _ => some .s
  | .sub _ _ _ _ _ => some .s
  | .andS _ _ _ _ _ => some .s
  | .orS _ _ _ _ _ => some .s
  | .xorS _ _ _ _ _ => some .s
  | .andn _ _ _ _ _ => some .s
  | .shl _ _ _ _ _ => some .s
  | .shr _ _ _ _ _ => some .s
  | .sar _ _ _ _ _ => some .s
  | .minS _ _ _ _ _ => some .s
  | .maxS _ _ _ _ _ => some .s
  | .minN _ _ _ _ _ => some .s
  | .maxN _ _ _ _ _ => some .s
  | .sel _ _ _ _ _ => some .s
  | .clz _ _ _ _ => some .s
  | .popc _ _ _ _ => some .s
  | .mul _ _ _ _ _ => some .s
  | .mulh _ _ _ _ _ => some .s
  | .mulhN _ _ _ _ _ => some .s
  | .divS _ _ _ _ _ => some .s
  | .divN _ _ _ _ _ => some .s
  | .rem _ _ _ _ _ => some .s
  | .remN _ _ _ _ _ => some .s
  | .cmp _ _ _ _ _ => some .s
  | .gand _ _ _ _ => some .s
  | .gor _ _ _ _ => some .s
  | .gnot _ _ _ => some .s
  | .gcopy _ _ _ => some .s
  | .takeWait _ _ => some .s
  | .tkcnt _ _ _ => some .s
  | .csrr _ _ _ => some .s
  | .csrw _ _ _ => some .s
  | .rol _ _ _ _ _ => some .s
  | .ror _ _ _ _ _ => some .s
  | .ctz _ _ _ _ => some .s
  | .addx1 _ _ _ _ _ => some .s
  | .addx2 _ _ _ _ _ => some .s
  | .addx3 _ _ _ _ _ => some .s
  | .addx8 _ _ _ _ _ => some .s
  | .addi _ _ _ _ => some .s
  | .lih _ _ => some .s
  | .cmpi _ _ _ _ _ => some .s
  | .shli _ _ _ _ => some .s
  | .shri _ _ _ _ => some .s
  | .sari _ _ _ _ => some .s
  | .andi _ _ _ _ => some .s
  | .ori _ _ _ _ => some .s
  | .xori _ _ _ _ => some .s
  | .roli _ _ _ _ => some .s
  | .vaddInt _ _ _ _ _ => some .v
  | .vsubInt _ _ _ _ _ => some .v
  | .vmulInt _ _ _ _ _ => some .v
  | .vminInt _ _ _ _ _ => some .v
  | .vmaxInt _ _ _ _ _ => some .v
  | .vminN _ _ _ _ _ => some .v
  | .vmaxN _ _ _ _ _ => some .v
  | .vaddSatI _ _ _ _ _ => some .v
  | .vsubSatI _ _ _ _ _ => some .v
  | .vaddSatN _ _ _ _ _ => some .v
  | .vsubSatN _ _ _ _ _ => some .v
  | .vshl _ _ _ _ _ => some .v
  | .vshr _ _ _ _ _ => some .v
  | .vsar _ _ _ _ _ => some .v
  | .vand _ _ _ _ => some .v
  | .vor _ _ _ _ => some .v
  | .vxor _ _ _ _ => some .v
  | .vandn _ _ _ _ => some .v
  | .vaddFp _ _ _ _ _ => some .v
  | .vsubFp _ _ _ _ _ => some .v
  | .vmulFp _ _ _ _ _ => some .v
  | .vfma _ _ _ _ _ => some .v
  | .vminFp _ _ _ _ _ => some .v
  | .vmaxFp _ _ _ _ _ => some .v
  | .vcmpInt _ _ _ _ _ _ => some .v
  | .vcmpFp _ _ _ _ _ _ => some .v
  | .vsel _ _ _ _ _ => some .v
  | .vpermb _ _ _ _ => some .v
  | .vshuf _ _ _ _ => some .v
  | .vdot4 _ _ _ _ _ => some .v
  | .vbcast _ _ _ _ _ => some .v
  | .vpack _ _ _ _ _ => some .v
  | .vunpk _ _ _ _ _ _ => some .v
  | .vcvt _ _ _ _ _ _ => some .v
  | .vmov _ _ _ => some .v
  | .vexp _ _ _ _ => some .v
  | .vrcp _ _ _ _ => some .v
  | .vrsq _ _ _ _ => some .v
  | .vlog _ _ _ _ => some .v
  | .vredAdd _ _ _ _ => some .v
  | .vredMax _ _ _ _ => some .v
  | .vredMin _ _ _ _ => some .v
  | .vany _ _ _ _ => some .v
  | .vall _ _ _ _ => some .v
  | .vscanAdd _ _ _ _ => some .v
  | .vscanMax _ _ _ _ => some .v
  | .vrng _ _ _ => some .v
  | .vsat _ _ _ _ => some .v
  | .vsatN _ _ _ _ => some .v
  | .vcompressG16 _ _ _ _ => some .v
  | .vcompressG8 _ _ _ _ _ => some .v
  | .vmovOq _ _ _ _ => some .v
  | .vaddOqFp _ _ _ _ _ => some .v
  | .vmulOqFp _ _ _ _ _ => some .v
  | .vfmaOq _ _ _ _ _ => some .v
  | .vmaxOq _ _ _ _ _ => some .v
  | .vaddOqInt _ _ _ _ _ => some .v
  | .vmulOqInt _ _ _ _ _ => some .v
  | .mwload _ _ _ => some .m
  | .mswap _ => some .m
  | .mres _ _ => some .m
  | .mmulTm _ _ _ _ _ _ _ => some .m
  | .mmulBank _ _ _ _ _ _ _ => some .m
  | .mdrain _ _ _ _ _ _ _ => some .m
  | .mtopk _ _ => some .m
  | .mtree _ => some .m
  | .mgrad _ _ _ _ => some .m
  | .mlive _ _ => some .m
  | .mclr _ => some .m
  | .ld _ _ _ _ _ => some .l
  | .st _ _ _ _ _ => some .l
  | .stZ _ _ _ _ _ => some .l
  | .vld _ _ _ _ => some .l
  | .vst _ _ _ _ => some .l
  | .vgather _ _ _ _ => some .l
  | .vscatter _ _ _ _ => some .l
  | .pset _ _ => some .l
  | .ptag _ _ => some .l
  | .seal _ _ => some .l
  | .bind _ _ => some .l
  | .copy _ _ _ _ => some .l
  | .atom _ _ _ _ _ => some .l
  | .fenceX _ => some .l
  | .pflush _ _ => some .l
  | .pfence _ => some .l
  | .rtx _ _ => some .q
  | .rtap _ _ _ => some .q
  | .tqsend _ _ => some .q
  | .tqrecv _ _ => some .q
  | .tqpeek _ _ => some .q
  | .bar _ _ _ => some .q
  | .xslot _ _ => some .q
  | .xslotRel _ _ => some .q
  | .accept _ _ => some .q
  | .pkey _ _ _ => some .q
  | .plook _ _ => some .q
  | .combine _ _ => some .q
  | .hring _ => some .q
  | .irq _ => some .q
  | .resultLanding _ _ _ => none
  | .guardLanding _ _ _ => none
  | .brdEffect _ _ => none
  | .heldStoreRelease _ _ => none
  | .heldStorePerform _ _ _ => none
  | .storePerform _ _ _ => none
  | .handlerEntry _ _ => none
  | .faultStop _ _ => none
  | .contextSwitch _ => none
  | .blockRelease _ _ => none
  | .waitEnd _ _ => none
  | .tqEntryReceivable _ _ => none
  | .tqPlaceFreed _ => none
  | .barrierRelease _ _ _ _ => none
  | .flitLeave _ _ => none
  | .copyStart _ _ => none
  | .copyArrival _ _ => none
  | .copyPostedWrite _ _ _ => none
  | .copyReadReturn _ _ _ _ _ => none
  | .lazyDrain _ _ => none
  | .atomPerform _ _ => none
  | .atomReply _ _ _ _ => none
  | .bindComplete _ _ => none
  | .flushGranulePersist _ _ _ => none
  | .psaveHeaderWrite _ _ => none
  | .queueShadowPersist _ _ => none
  | .mmulRowEntry _ _ _ => none
  | .mmulRowLand _ _ _ => none
  | .mwloadFillPop _ _ _ => none
  | .mwloadFillLand _ _ => none
  | .mgradLand _ _ => none
  | .drainRowRead _ _ _ => none
  | .drainScaleRead _ _ _ => none
  | .segmentArrival _ _ _ => none
  | .treeApply _ _ => none
  | .xslotPerform _ _ => none
  | .acceptRowRead _ _ _ => none
  | .acceptComplete _ _ => none
  | .pkeyComplete _ _ => none
  | .plookPerform _ _ => none
  | .hringDepart _ _ => none
  | .ringCoalesceTimeout _ => none
  | .combineRowRead _ _ _ => none
  | .combineCloseTimeout _ _ _ => none
  | .combineRelease _ _ _ => none
  | .taskLaunch _ => none
  | .taskComplete _ => none
  | .taskTrigger _ => none
  | .preemptStop _ _ => none
  | .contextSaveComplete _ _ _ => none
  | .graphLaunch _ => none
  | .graphWait _ => none
  | .graphCond _ => none
  | .graphEnd _ => none
  | .zeroingEnd _ _ => none
  | .debugStop _ _ => none
  | .thermalTrip _ _ => none
  | .supplyFailure _ _ _ => none
  | .lossReport _ _ _ => none
  | .gateRequest _ => none
  | .coreGate _ => none
  | .coreUngate _ => none
  | .recoveryResume _ => none
  | .queueResetMessage _ _ _ => none
  | .hostMemoryAccess _ _ _ _ => none
  | .queueApertureWrite _ _ _ _ => none
  | .hostAtomicop _ => none
  | .zieshRequest _ _ _ _ _ _ => none
  | .linkDown _ => none
  | .definedNop cls _ => some cls
  | .uncorrectableError _ _ _ => none
  | .powerRestored _ _ => none
  | .zieshLinkUp _ _ => none
  | .nop => none
  | .ret => some .c
  | .lend => some .c
  | .halt => some .c
  | .trigger => some .c
  | .yieldC => some .c
  | .eret => some .c
  | .mown => some .m
  | .mrel => some .m
  | .fenceO => some .l
  | .psave => some .l
  | .qtailDoorbell => none
  | .qcfgWrite => none
  | .preemptWrite => none
  | .gnodeWrite => none
  | .hrcfgWrite => none
  | .hrheadWrite => none
  | .expertSlotWrite => none
  | .partitionGrant => none
  | .partitionRevoke => none
  | .ownerChange => none
  | .mirrorWrite => none
  | .extWrite => none
  | .qreqWrite => none
  | .quoteComplete => none
  | .debugAttach => none
  | .debugResume => none
  | .dbgstopWrite => none
  | .debugImageWrite => none
  | .debugApertureAccess => none
  | .tkill => none
  | .poisonarrBar => none
  | .poisonarrCombine => none
  | .pkgnumWrite => none
  | .qrstClear => none
  | .suptestArm => none
  | .suptestRestore => none
  | .packageReset => none
  | .fullServiceChange => none
  | .controlRegisterWrite => none

end Sys2Proof
end

