-- ==== Sys2Proof/Decode.lean ====
section
/-! DEFINITION. The decoder, total on any 32-bit word of any slot, and after it the encoder, both written from the encoding
tables of 03_encoding.md (R46 to R67). A word that is no instruction is rejected by the name of its fate (R49). -/

namespace Sys2Proof

/-- What becomes of a word (R49). A defined no-operation is the instruction `definedNop`. -/
inductive Fate where
  | instr (i : Instr)
  | reserved
  | permanent
  deriving DecidableEq, Repr

/-- Field [hi:lo] of the word `w` (R4). -/
def bits (w hi lo : Nat) : Nat := w / 2 ^ lo % 2 ^ (hi - lo + 1)

/-- The two's complement value of an `n`-bit field. -/
def signed (n x : Nat) : Int := if x < 2 ^ (n - 1) then (x : Int) else (x : Int) - 2 ^ n

/-- The `n`-bit field that holds the signed value `x`. -/
def unsigned (n : Nat) (x : Int) : Nat := (x % 2 ^ n).toNat

/-- The literal of a 5-bit code (R51). -/
def litOf (c : Nat) : Lit := ⟨c / 16 % 2 = 1, c % 16⟩

/-- The 5-bit code of a literal (R51). -/
def Lit.code (l : Lit) : Nat := (if l.neg then 16 else 0) + l.idx

/-- The flag of a one-bit field. -/
def flag (x : Nat) : Bool := x = 1

/-- The one-bit field of a flag. -/
def ofFlag (b : Bool) : Nat := if b then 1 else 0

/-- An instruction, if the condition on its word's fields holds; otherwise the word is reserved and faulting. -/
def okIf (p : Bool) (i : Instr) : Fate := if p then .instr i else .reserved

/-- A word with a guard field: the code of polarity 1 with index 0 is reserved and faulting (R49). -/
def guarded (c : Nat) (k : Lit → Fate) : Fate := if c = 16 then .reserved else k (litOf c)

/-- The slate and loop flags of a slot-0 word (Table 03-1). -/
def headerOf (w : Nat) : Header :=
  ⟨flag (bits w 31 31), flag (bits w 30 30), bits w 29 27, bits w 26 24⟩

/-- The header bits of a slot-0 word. -/
def Header.code (h : Header) : Nat :=
  ofFlag h.sl * 2 ^ 31 + ofFlag h.ps * 2 ^ 30 + h.fst * 2 ^ 27 + h.lst * 2 ^ 24

/-- Slot 0, bits [23:0] (Tables 03-4 and 03-5). -/
def decodeC (w : Nat) : Fate :=
  match bits w 23 18 with
  | 0x00 => okIf (bits w 17 0 = 0) .nop
  | 0x01 => .instr (.br (signed 18 (bits w 17 0)))
  | 0x02 => okIf (bits w 16 13 ≠ 0) (.brc (litOf (bits w 17 13)) (signed 13 (bits w 12 0)))
  | 0x03 => okIf (bits w 16 13 ≠ 0) (.brd (litOf (bits w 17 13)) (signed 13 (bits w 12 0)))
  | 0x04 => okIf (bits w 5 0 = 0) (.jt (bits w 17 12) (bits w 11 6))
  | 0x05 => .instr (.call (signed 18 (bits w 17 0)))
  | 0x06 => okIf (bits w 11 0 = 0) (.callg (bits w 17 12))
  | 0x07 => okIf (bits w 17 0 = 0) .ret
  | 0x08 =>
    if bits w 17 17 = 0 then okIf (bits w 16 6 = 0) (.loopReg (bits w 5 0))
    else okIf (bits w 16 0 ≠ 0) (.loopImm (bits w 16 0))
  | 0x09 => okIf (bits w 17 0 = 0) .lend
  | 0x0A => okIf (bits w 17 0 = 0) .halt
  | 0x0B => okIf (bits w 17 0 = 0) .trigger
  | 0x0C => okIf (bits w 17 0 = 0) .yieldC
  | 0x0D => okIf (bits w 17 8 = 0) (.trap (bits w 7 0))
  | 0x0E => okIf (bits w 17 8 = 0) (.brk (bits w 7 0))
  | 0x0F => okIf (bits w 17 0 = 0) .eret
  | 0x10 => okIf (bits w 17 12 = 0) (.syscall (bits w 11 0))
  | 0x11 => okIf (bits w 11 0 = 0) (.waitc (bits w 17 12))
  | 0x12 => okIf (bits w 11 0 = 0) (.slateQ (bits w 17 12))
  | 0x13 => okIf (bits w 11 0 = 0) (.slateT (bits w 17 12))
  | 0x14 => okIf (bits w 17 17 = 0) (.scene (bits w 16 0))
  | 0x3F => .permanent
  | n => if 0x38 ≤ n then .instr (.definedNop .c (w % 2 ^ 24)) else .reserved

/-- The S-R forms of page 0 (Tables 03-6 to 03-8); `h` is the hold bit. -/
def decodeS0 (w : Nat) : Fate :=
  guarded (bits w 28 24) fun g =>
    let h := flag (bits w 23 23)
    let sd := bits w 17 12
    let sa := bits w 11 6
    let sb := bits w 5 0
    let f := bits w 22 18
    if 24 ≤ f then
      okIf (bits w 23 23 = 0 ∧ bits w 13 12 = 0) (.cmp g (f - 24) (bits w 17 14) sa sb)
    else
    match f with
    | 0 => okIf (w % 2 ^ 32 = 0) .nop
    | 1 => .instr (.add g h sd sa sb)
    | 2 => .instr (.sub g h sd sa sb)
    | 3 => .instr (.andS g h sd sa sb)
    | 4 => .instr (.orS g h sd sa sb)
    | 5 => .instr (.xorS g h sd sa sb)
    | 6 => .instr (.andn g h sd sa sb)
    | 7 => .instr (.shl g h sd sa sb)
    | 8 => .instr (.shr g h sd sa sb)
    | 9 => .instr (.sar g h sd sa sb)
    | 10 => .instr (.minS g h sd sa sb)
    | 11 => .instr (.maxS g h sd sa sb)
    | 12 => .instr (.minN g h sd sa sb)
    | 13 => .instr (.maxN g h sd sa sb)
    | 14 => .instr (.sel g h sd sa sb)
    | 15 => okIf (sb = 0) (.clz g h sd sa)
    | 16 => okIf (sb = 0) (.popc g h sd sa)
    | 17 => .instr (.mul g h sd sa sb)
    | 18 => .instr (.mulh g h sd sa sb)
    | 19 => .instr (.mulhN g h sd sa sb)
    | 20 => .instr (.divS g h sd sa sb)
    | 21 => .instr (.divN g h sd sa sb)
    | 22 => .instr (.rem g h sd sa sb)
    | 23 => .instr (.remN g h sd sa sb)
    | _ => .reserved

/-- The S-R forms of page 1 (Tables 03-6 to 03-8). -/
def decodeS1 (w : Nat) : Fate :=
  let f := bits w 22 18
  if 24 ≤ f then .instr (.definedNop .s w) else
  guarded (bits w 28 24) fun g =>
    let h := flag (bits w 23 23)
    let sd := bits w 17 12
    let sa := bits w 11 6
    let sb := bits w 5 0
    let gd := bits w 17 14
    let noH := bits w 23 23 = 0
    match f with
    | 0 => okIf (noH ∧ bits w 13 11 = 0 ∧ bits w 5 5 = 0) (.gand g gd (litOf (bits w 10 6)) (litOf (bits w 4 0)))
    | 1 => okIf (noH ∧ bits w 13 11 = 0 ∧ bits w 5 5 = 0) (.gor g gd (litOf (bits w 10 6)) (litOf (bits w 4 0)))
    | 2 => okIf (noH ∧ bits w 13 11 = 0 ∧ sb = 0) (.gnot g gd (litOf (bits w 10 6)))
    | 3 => okIf (noH ∧ bits w 13 11 = 0 ∧ sb = 0) (.gcopy g gd (litOf (bits w 10 6)))
    | 4 => okIf (noH ∧ sd = 0 ∧ bits w 11 10 = 0 ∧ sb = 0) (.takeWait g (bits w 9 6))
    | 5 => okIf (noH ∧ sb = 0) (.tkcnt g sd sa)
    | 6 => okIf noH (.csrr g sd (bits w 11 0))
    | 7 => okIf noH (.csrw g sd (bits w 11 0))
    | 8 => .instr (.rol g h sd sa sb)
    | 9 => .instr (.ror g h sd sa sb)
    | 10 => okIf (sb = 0) (.ctz g h sd sa)
    | 11 => .instr (.addx1 g h sd sa sb)
    | 12 => .instr (.addx2 g h sd sa sb)
    | 13 => .instr (.addx3 g h sd sa sb)
    | 14 => .instr (.addx8 g h sd sa sb)
    | _ => .reserved

/-- The S-L forms (Tables 03-6 and 03-7). -/
def decodeSL (w : Nat) : Fate :=
  guarded (bits w 28 24) fun g =>
    let sd := bits w 20 15
    let sa := bits w 14 9
    let amt := bits w 5 0
    let ok := bits w 8 6 = 0
    let imm := signed 9 (bits w 8 0)
    match bits w 23 21 with
    | 0 => okIf ok (.shli g sd sa amt)
    | 1 => okIf ok (.shri g sd sa amt)
    | 2 => okIf ok (.sari g sd sa amt)
    | 3 => .instr (.andi g sd sa imm)
    | 4 => .instr (.ori g sd sa imm)
    | 5 => .instr (.xori g sd sa imm)
    | 6 => okIf ok (.roli g sd sa amt)
    | _ => .reserved

/-- Slots 1 and 2 (Table 03-6). -/
def decodeS (w : Nat) : Fate :=
  match bits w 31 29 with
  | 0 => decodeS0 w
  | 1 => decodeS1 w
  | 2 => guarded (bits w 28 24) fun g => .instr (.addi g (bits w 23 18) (bits w 17 12) (signed 12 (bits w 11 0)))
  | 4 => okIf (bits w 28 26 = 0) (.lih (bits w 25 20) (bits w 19 0))
  | 5 => guarded (bits w 28 24) fun g =>
      okIf (bits w 19 16 < 8) (.cmpi g (bits w 19 16) (bits w 23 20) (bits w 15 10) (bits w 9 0))
  | 6 => decodeSL w
  | 7 => .permanent
  | _ => .reserved

/-- Row 0x78, the unary group (Table 03-13). -/
def decodeUnary (w : Nat) (g : Lit) : Fate :=
  let col := bits w 1 0
  let vd := bits w 26 20
  let va := bits w 19 13
  match bits w 12 7 with
  | 0 => okIf (col = 0) (.vmov g vd va)
  | 1 => okIf (col < 3) (.vexp g col vd va)
  | 2 => okIf (col < 3) (.vrcp g col vd va)
  | 3 => okIf (col < 3) (.vrsq g col vd va)
  | 4 => okIf (col < 3) (.vlog g col vd va)
  | 5 => okIf (vd < 64) (.vredAdd g col vd va)
  | 6 => okIf (vd < 64) (.vredMax g col vd va)
  | 7 => okIf (vd < 64) (.vredMin g col vd va)
  | 8 => okIf (vd < 16 ∧ va < 8) (.vany g col vd va)
  | 9 => okIf (vd < 16 ∧ va < 8) (.vall g col vd va)
  | 10 => .instr (.vscanAdd g col vd va)
  | 11 => .instr (.vscanMax g col vd va)
  | 12 => okIf (col = 0) (.vrng g vd va)
  | 13 => okIf (col < 3) (.vsat g col vd va)
  | 14 => okIf (col < 3) (.vsatN g col vd va)
  | 15 => .instr (.vcompressG16 g col vd va)
  | n => if 17 ≤ n ∧ n ≤ 23 then .instr (.vcompressG8 g (n - 16) col vd va) else .reserved

/-- The V-Q layout (Tables 03-10 and 03-15). OPQ 15 is permanent whatever the guard field (R63, log 76). -/
def decodeVQ (w : Nat) : Fate :=
  if bits w 10 7 = 15 then .permanent else
  guarded (bits w 31 27) fun g =>
    let col := bits w 1 0
    let vd := bits w 26 20
    let oq := bits w 19 17
    let vb := bits w 16 11
    match bits w 10 7 with
    | 0 => okIf (col = 0) (.vmovOq g vd oq vb)
    | 1 => okIf (col < 3) (.vaddOqFp g col vd oq vb)
    | 2 => okIf (col < 3) (.vmulOqFp g col vd oq vb)
    | 3 => okIf (col < 3) (.vfmaOq g col vd oq vb)
    | 4 => okIf (col < 3) (.vmaxOq g col vd oq vb)
    | 5 => .instr (.vaddOqInt g col vd oq vb)
    | 6 => .instr (.vmulOqInt g col vd oq vb)
    | _ => .reserved

/-- The rows of Table 03-12 below the unary group. -/
def decodeVA (w : Nat) (g : Lit) : Fate :=
  let col := bits w 1 0
  let vd := bits w 26 20
  let va := bits w 19 13
  let vb := bits w 12 7
  match bits w 6 2 with
  | 0 => okIf (w % 2 ^ 32 = 0) .nop
  | 1 => .instr (.vaddInt g col vd va vb)
  | 2 => .instr (.vsubInt g col vd va vb)
  | 3 => .instr (.vmulInt g col vd va vb)
  | 4 => .instr (.vminInt g col vd va vb)
  | 5 => .instr (.vmaxInt g col vd va vb)
  | 6 => .instr (.vminN g col vd va vb)
  | 7 => .instr (.vmaxN g col vd va vb)
  | 8 => .instr (.vaddSatI g col vd va vb)
  | 9 => .instr (.vsubSatI g col vd va vb)
  | 10 => .instr (.vaddSatN g col vd va vb)
  | 11 => .instr (.vsubSatN g col vd va vb)
  | 12 => .instr (.vshl g col vd va vb)
  | 13 => .instr (.vshr g col vd va vb)
  | 14 => .instr (.vsar g col vd va vb)
  | 15 =>
    match col with
    | 0 => .instr (.vand g vd va vb)
    | 1 => .instr (.vor g vd va vb)
    | 2 => .instr (.vxor g vd va vb)
    | _ => .instr (.vandn g vd va vb)
  | 16 => okIf (col < 3) (.vaddFp g col vd va vb)
  | 17 => okIf (col < 3) (.vsubFp g col vd va vb)
  | 18 => okIf (col < 3) (.vmulFp g col vd va vb)
  | 19 => okIf (col < 3) (.vfma g col vd va vb)
  | 20 => okIf (col < 3) (.vminFp g col vd va vb)
  | 21 => okIf (col < 3) (.vmaxFp g col vd va vb)
  | 22 => okIf (bits vd 6 3 < 8) (.vcmpInt g col (bits vd 6 3) (bits vd 2 0) va vb)
  | 23 => okIf (col < 3 ∧ bits vd 6 3 < 9 ∧ bits vd 6 3 ≠ 4 ∧ bits vd 6 3 ≠ 5)
      (.vcmpFp g col (bits vd 6 3) (bits vd 2 0) va vb)
  | 24 => okIf (vb < 8) (.vsel g col vd va vb)
  | 25 =>
    match col with
    | 0 => .instr (.vpermb g vd va vb)
    | 1 => .instr (.vshuf g vd va vb)
    | 2 => .instr (.vdot4 g false vd va vb)
    | _ => .instr (.vdot4 g true vd va vb)
  | 26 => .instr (.vbcast g col vd va vb)
  | 27 => okIf (col < 3) (.vpack g col vd va vb)
  | 28 => okIf (col < 3 ∧ 48 ≤ vb ∧ vb ≤ 51) (.vunpk g col vd va (flag (bits vb 0 0)) (flag (bits vb 1 1)))
  | 29 => okIf (bits vb 2 1 < 3 ∧ bits vb 0 0 * 4 + col ≠ bits vb 5 3)
      (.vcvt g (bits vb 5 3) (bits vb 2 1) (bits vb 0 0 * 4 + col) vd va)
  | 30 => decodeUnary w g
  | _ => .reserved

/-- Slots 3 and 4 (Tables 03-10 to 03-15). -/
def decodeV (w : Nat) : Fate :=
  if w = 0xFFFFFFFF then .permanent
  else if bits w 6 2 = 31 then decodeVQ w
  else if bits w 6 2 = 30 ∧ 48 ≤ bits w 12 7 then .instr (.definedNop .v w)
  else guarded (bits w 31 27) fun g => decodeVA w g

/-- Opcodes 56 to 63 of the M, L and Q slots (R64, R65, R67). -/
def decodeTop (k : Cls) (w : Nat) : Fate :=
  if bits w 31 26 = 63 then .permanent
  else if 56 ≤ bits w 31 26 then .instr (.definedNop k w)
  else .reserved

/-- Slot 5 (Table 03-16 and R64). -/
def decodeM (w : Nat) : Fate :=
  match bits w 31 26 with
  | 0 => okIf (bits w 25 0 = 0) .nop
  | 1 => okIf (bits w 25 0 = 0) .mown
  | 2 => okIf (bits w 25 0 = 0) .mrel
  | 3 => okIf (bits w 17 0 = 0 ∧ bits w 20 18 < 6) (.mwload (bits w 20 18) (bits w 25 24) (bits w 23 21))
  | 4 => okIf (bits w 21 0 = 0 ∧ bits w 25 22 ≠ 0) (.mswap (bits w 25 22))
  | 5 => okIf (bits w 17 0 = 0) (.mres (bits w 25 24) (bits w 23 18))
  | 6 =>
    let live := flag (bits w 14 14)
    if live = false ∧ bits w 13 8 ≠ 0 then .reserved
    else if bits w 16 16 = 1 then
      .instr (.mmulTm (flag (bits w 15 15)) live (bits w 25 23) (bits w 22 20) (bits w 19 17) (bits w 7 0 + 1) (bits w 13 8))
    else okIf (bits w 19 19 = 0)
      (.mmulBank (flag (bits w 15 15)) live (bits w 25 23) (bits w 22 20) (bits w 18 17) (bits w 7 0 + 1) (bits w 13 8))
  | 7 =>
    okIf (bits w 10 8 = 0 ∧ ¬ (bits w 18 18 = 1 ∧ bits w 17 17 = 1) ∧ (bits w 19 17 = 0 → bits w 16 11 = 0))
      (.mdrain (bits w 25 23) (bits w 22 20) (flag (bits w 19 19)) (flag (bits w 18 18)) (flag (bits w 17 17))
        (bits w 16 11) (bits w 7 0 + 1))
  | 8 => okIf (bits w 13 0 = 0) (.mtopk (bits w 25 20 + 1) (bits w 19 14))
  | 9 => okIf (bits w 19 0 = 0) (.mtree (bits w 25 20))
  | 10 => okIf (bits w 9 0 = 0) (.mgrad (bits w 25 24) (bits w 23 21) (bits w 20 18) (bits w 17 10 + 1))
  | 11 => okIf (bits w 16 0 = 0) (.mlive (bits w 25 20) (bits w 19 17))
  | 12 => okIf (bits w 17 0 = 0 ∧ bits w 25 18 ≠ 0) (.mclr (bits w 25 18))
  | _ => decodeTop .m w

/-- The guarded L opcodes 1 to 19 (Table 03-17). -/
def decodeLG (op w : Nat) (g : Lit) : Fate :=
  let d6 := bits w 20 15
  let a6 := bits w 14 9
  let o9 := signed 9 (bits w 8 0)
  let d7 := bits w 20 14
  let b6 := bits w 13 8
  let o8 := signed 8 (bits w 7 0)
  if op < 8 then .instr (.ld g (op - 1) d6 a6 o9)
  else if op < 12 then .instr (.st g (op - 8) d6 a6 o9)
  else if op < 16 then .instr (.stZ g (op - 12) d6 a6 o9)
  else
  match op with
  | 16 => .instr (.vld g d7 b6 o8)
  | 17 => .instr (.vst g d7 b6 o8)
  | 18 => okIf (bits w 2 0 = 0) (.vgather g d7 b6 (bits w 7 3))
  | 19 => okIf (bits w 2 0 = 0) (.vscatter g d7 b6 (bits w 7 3))
  | _ => .reserved

/-- Slot 6 (Table 03-17). -/
def decodeL (w : Nat) : Fate :=
  let op := bits w 31 26
  if op = 0 then okIf (bits w 25 0 = 0) .nop
  else if op < 20 then guarded (bits w 25 21) fun g => decodeLG op w g
  else
  match op with
  | 32 => okIf (bits w 16 0 = 0) (.pset (bits w 25 23) (bits w 22 17))
  | 33 => okIf (bits w 14 0 = 0) (.ptag (bits w 25 23) (bits w 22 15))
  | 34 => okIf (bits w 15 0 = 0) (.seal (bits w 25 22) (bits w 21 16))
  | 35 => okIf (bits w 15 0 = 0) (.bind (bits w 25 22) (bits w 21 16))
  | 36 => okIf (bits w 1 0 = 0) (.copy (bits w 25 20) (bits w 19 14) (bits w 13 8) (bits w 7 2))
  | 37 => okIf (bits w 3 0 = 0 ∧ bits w 25 23 < 7)
      (.atom (bits w 25 23) (flag (bits w 22 22)) (bits w 21 16) (bits w 15 10) (bits w 9 4))
  | 38 => okIf (bits w 25 0 = 0) .fenceO
  | 39 => okIf (bits w 19 0 = 0) (.fenceX (bits w 25 20))
  | 40 => okIf (bits w 13 0 = 0) (.pflush (bits w 25 20) (bits w 19 14))
  | 41 => okIf (bits w 22 0 = 0 ∧ 1 ≤ bits w 25 23 ∧ bits w 25 23 ≤ 4) (.pfence (bits w 25 23))
  | 42 => okIf (bits w 25 0 = 0) .psave
  | _ => decodeTop .l w

/-- Slot 7 (Table 03-19). -/
def decodeQ (w : Nat) : Fate :=
  match bits w 31 26 with
  | 0 => okIf (bits w 25 0 = 0) .nop
  | 1 => okIf (bits w 14 0 = 0) (.rtx (bits w 25 22) (bits w 21 15))
  | 2 => okIf (bits w 7 0 = 0) (.rtap (bits w 25 22) (bits w 21 16) (bits w 15 8))
  | 3 => okIf (bits w 12 0 = 0) (.tqsend (bits w 25 20) (bits w 19 13))
  | 4 => okIf (bits w 12 0 = 0) (.tqrecv (bits w 25 19) (bits w 18 13))
  | 5 => okIf (bits w 13 0 = 0) (.tqpeek (bits w 25 20) (bits w 19 14))
  | 6 => okIf (bits w 12 0 = 0 ∧ bits w 25 23 ≤ 5) (.bar (bits w 25 23) (bits w 22 19) (bits w 18 13))
  | 7 => okIf (bits w 12 0 = 0)
      (if bits w 13 13 = 1 then .xslotRel (bits w 25 20) (bits w 19 14) else .xslot (bits w 25 20) (bits w 19 14))
  | 8 => okIf (bits w 13 0 = 0) (.accept (bits w 25 20) (bits w 19 14))
  | 9 => okIf (bits w 7 0 = 0) (.pkey (bits w 25 20) (bits w 19 14) (bits w 13 8))
  | 10 => okIf (bits w 13 0 = 0) (.plook (bits w 25 20) (bits w 19 14))
  | 11 => okIf (bits w 18 0 = 0) (.combine (flag (bits w 19 19)) (bits w 25 20))
  | 12 => okIf (bits w 19 0 = 0) (.hring (bits w 25 20))
  | 13 => okIf (bits w 14 0 = 0) (.irq (bits w 25 15))
  | _ => decodeTop .q w

/-- The decoder of a 32-bit word in a slot of class `k` (R46, R49): 0 is NOP and all ones is permanently illegal. In class
C the header bits are ignored; `headerOf` reads them. -/
def decodeWord (k : Cls) (w : Nat) : Fate :=
  if w = 0xFFFFFFFF then .permanent
  else match k with
  | .c => decodeC (w % 2 ^ 24)
  | .s => decodeS w
  | .v => decodeV w
  | .m => decodeM w
  | .l => decodeL w
  | .q => decodeQ w

/-- The class of slot `k` (Table 01-5). -/
def slotCls : Nat → Cls
  | 0 => .c
  | 1 | 2 => .s
  | 3 | 4 => .v
  | 5 => .m
  | 6 => .l
  | _ => .q

/-- The eight words of a bundle of 256 bits (R21). -/
def bundleWords (b : Nat) : List Nat := (List.range 8).map fun k => b / 2 ^ (32 * k) % 2 ^ 32

/-! ### The encoder -/

/-- The fields shared by the S-R forms. -/
def encSR (page f : Nat) (g : Lit) (h : Bool) (sd sa sb : Nat) : Nat :=
  page * 2 ^ 29 + g.code * 2 ^ 24 + ofFlag h * 2 ^ 23 + f * 2 ^ 18 + sd * 2 ^ 12 + sa * 2 ^ 6 + sb

/-- The fields of the S-L forms. -/
def encSL (op : Nat) (g : Lit) (sd sa imm : Nat) : Nat :=
  6 * 2 ^ 29 + g.code * 2 ^ 24 + op * 2 ^ 21 + sd * 2 ^ 15 + sa * 2 ^ 9 + imm

/-- The fields of the V-A layout; `opa` holds row and column. -/
def encVA (opa : Nat) (g : Lit) (vd va vb : Nat) : Nat :=
  g.code * 2 ^ 27 + vd * 2 ^ 20 + va * 2 ^ 13 + vb * 2 ^ 7 + opa

/-- The fields of the V-Q layout. -/
def encVQ (opq col : Nat) (g : Lit) (vd oq vb : Nat) : Nat :=
  g.code * 2 ^ 27 + vd * 2 ^ 20 + oq * 2 ^ 17 + vb * 2 ^ 11 + opq * 2 ^ 7 + 31 * 2 ^ 2 + col

/-- The fields of the L-M layout. -/
def encLM (op : Nat) (g : Lit) (d a : Nat) (off : Int) : Nat :=
  op * 2 ^ 26 + g.code * 2 ^ 21 + d * 2 ^ 15 + a * 2 ^ 9 + unsigned 9 off

/-- The fields of the L-V layout. -/
def encLV (op : Nat) (g : Lit) (d a : Nat) (off : Int) : Nat :=
  op * 2 ^ 26 + g.code * 2 ^ 21 + d * 2 ^ 14 + a * 2 ^ 8 + unsigned 8 off


/-- The word of a control instruction (bits [23:0], with a zero header). -/
def encodeC : Instr → Nat
  | .br off => 1 * 2 ^ 18 + unsigned 18 off
  | .brc l off => 2 * 2 ^ 18 + l.code * 2 ^ 13 + unsigned 13 off
  | .brd l off => 3 * 2 ^ 18 + l.code * 2 ^ 13 + unsigned 13 off
  | .jt sa sb => 4 * 2 ^ 18 + sa * 2 ^ 12 + sb * 2 ^ 6
  | .call off => 5 * 2 ^ 18 + unsigned 18 off
  | .callg sa => 6 * 2 ^ 18 + sa * 2 ^ 12
  | .loopReg sa => 8 * 2 ^ 18 + sa
  | .loopImm n => 8 * 2 ^ 18 + 2 ^ 17 + n
  | .trap n => 13 * 2 ^ 18 + n
  | .brk n => 14 * 2 ^ 18 + n
  | .syscall n => 16 * 2 ^ 18 + n
  | .waitc sa => 17 * 2 ^ 18 + sa * 2 ^ 12
  | .slateQ sd => 18 * 2 ^ 18 + sd * 2 ^ 12
  | .slateT sd => 19 * 2 ^ 18 + sd * 2 ^ 12
  | .scene d => 20 * 2 ^ 18 + d
  | .ret => 7 * 2 ^ 18
  | .lend => 9 * 2 ^ 18
  | .halt => 10 * 2 ^ 18
  | .trigger => 11 * 2 ^ 18
  | .yieldC => 12 * 2 ^ 18
  | .eret => 15 * 2 ^ 18
  | .definedNop _ w => w
  | _ => 0

/-- The word of a scalar instruction. -/
def encodeS : Instr → Nat
  | .add g h sd sa sb => encSR 0 1 g h sd sa sb
  | .sub g h sd sa sb => encSR 0 2 g h sd sa sb
  | .andS g h sd sa sb => encSR 0 3 g h sd sa sb
  | .orS g h sd sa sb => encSR 0 4 g h sd sa sb
  | .xorS g h sd sa sb => encSR 0 5 g h sd sa sb
  | .andn g h sd sa sb => encSR 0 6 g h sd sa sb
  | .shl g h sd sa sb => encSR 0 7 g h sd sa sb
  | .shr g h sd sa sb => encSR 0 8 g h sd sa sb
  | .sar g h sd sa sb => encSR 0 9 g h sd sa sb
  | .minS g h sd sa sb => encSR 0 10 g h sd sa sb
  | .maxS g h sd sa sb => encSR 0 11 g h sd sa sb
  | .minN g h sd sa sb => encSR 0 12 g h sd sa sb
  | .maxN g h sd sa sb => encSR 0 13 g h sd sa sb
  | .sel g h sd sa sb => encSR 0 14 g h sd sa sb
  | .clz g h sd sa => encSR 0 15 g h sd sa 0
  | .popc g h sd sa => encSR 0 16 g h sd sa 0
  | .mul g h sd sa sb => encSR 0 17 g h sd sa sb
  | .mulh g h sd sa sb => encSR 0 18 g h sd sa sb
  | .mulhN g h sd sa sb => encSR 0 19 g h sd sa sb
  | .divS g h sd sa sb => encSR 0 20 g h sd sa sb
  | .divN g h sd sa sb => encSR 0 21 g h sd sa sb
  | .rem g h sd sa sb => encSR 0 22 g h sd sa sb
  | .remN g h sd sa sb => encSR 0 23 g h sd sa sb
  | .cmp g cond gd sa sb => encSR 0 (24 + cond) g false (gd * 4) sa sb
  | .gand g gd la lb => encSR 1 0 g false (gd * 4) la.code lb.code
  | .gor g gd la lb => encSR 1 1 g false (gd * 4) la.code lb.code
  | .gnot g gd la => encSR 1 2 g false (gd * 4) la.code 0
  | .gcopy g gd la => encSR 1 3 g false (gd * 4) la.code 0
  | .takeWait g k => encSR 1 4 g false 0 k 0
  | .tkcnt g sd sa => encSR 1 5 g false sd sa 0
  | .csrr g sd n => encSR 1 6 g false sd 0 n
  | .csrw g sa n => encSR 1 7 g false sa 0 n
  | .rol g h sd sa sb => encSR 1 8 g h sd sa sb
  | .ror g h sd sa sb => encSR 1 9 g h sd sa sb
  | .ctz g h sd sa => encSR 1 10 g h sd sa 0
  | .addx1 g h sd sa sb => encSR 1 11 g h sd sa sb
  | .addx2 g h sd sa sb => encSR 1 12 g h sd sa sb
  | .addx3 g h sd sa sb => encSR 1 13 g h sd sa sb
  | .addx8 g h sd sa sb => encSR 1 14 g h sd sa sb
  | .addi g sd sa imm => 2 * 2 ^ 29 + g.code * 2 ^ 24 + sd * 2 ^ 18 + sa * 2 ^ 12 + unsigned 12 imm
  | .lih sd imm => 4 * 2 ^ 29 + sd * 2 ^ 20 + imm
  | .cmpi g cond gd sa imm => 5 * 2 ^ 29 + g.code * 2 ^ 24 + gd * 2 ^ 20 + cond * 2 ^ 16 + sa * 2 ^ 10 + imm
  | .shli g sd sa amt => encSL 0 g sd sa amt
  | .shri g sd sa amt => encSL 1 g sd sa amt
  | .sari g sd sa amt => encSL 2 g sd sa amt
  | .andi g sd sa imm => encSL 3 g sd sa (unsigned 9 imm)
  | .ori g sd sa imm => encSL 4 g sd sa (unsigned 9 imm)
  | .xori g sd sa imm => encSL 5 g sd sa (unsigned 9 imm)
  | .roli g sd sa amt => encSL 6 g sd sa amt
  | .definedNop _ w => w
  | _ => 0

/-- The word of a vector instruction. -/
def encodeV : Instr → Nat
  | .vaddInt g ty vd va vb => encVA (1 * 4 + ty) g vd va vb
  | .vsubInt g ty vd va vb => encVA (2 * 4 + ty) g vd va vb
  | .vmulInt g ty vd va vb => encVA (3 * 4 + ty) g vd va vb
  | .vminInt g ty vd va vb => encVA (4 * 4 + ty) g vd va vb
  | .vmaxInt g ty vd va vb => encVA (5 * 4 + ty) g vd va vb
  | .vminN g ty vd va vb => encVA (6 * 4 + ty) g vd va vb
  | .vmaxN g ty vd va vb => encVA (7 * 4 + ty) g vd va vb
  | .vaddSatI g ty vd va vb => encVA (8 * 4 + ty) g vd va vb
  | .vsubSatI g ty vd va vb => encVA (9 * 4 + ty) g vd va vb
  | .vaddSatN g ty vd va vb => encVA (10 * 4 + ty) g vd va vb
  | .vsubSatN g ty vd va vb => encVA (11 * 4 + ty) g vd va vb
  | .vshl g ty vd va vb => encVA (12 * 4 + ty) g vd va vb
  | .vshr g ty vd va vb => encVA (13 * 4 + ty) g vd va vb
  | .vsar g ty vd va vb => encVA (14 * 4 + ty) g vd va vb
  | .vand g vd va vb => encVA 60 g vd va vb
  | .vor g vd va vb => encVA 61 g vd va vb
  | .vxor g vd va vb => encVA 62 g vd va vb
  | .vandn g vd va vb => encVA 63 g vd va vb
  | .vaddFp g ty vd va vb => encVA (16 * 4 + ty) g vd va vb
  | .vsubFp g ty vd va vb => encVA (17 * 4 + ty) g vd va vb
  | .vmulFp g ty vd va vb => encVA (18 * 4 + ty) g vd va vb
  | .vfma g ty vd va vb => encVA (19 * 4 + ty) g vd va vb
  | .vminFp g ty vd va vb => encVA (20 * 4 + ty) g vd va vb
  | .vmaxFp g ty vd va vb => encVA (21 * 4 + ty) g vd va vb
  | .vcmpInt g ty cond m va vb => encVA (22 * 4 + ty) g (cond * 8 + m) va vb
  | .vcmpFp g ty cond m va vb => encVA (23 * 4 + ty) g (cond * 8 + m) va vb
  | .vsel g ty vd va m => encVA (24 * 4 + ty) g vd va m
  | .vpermb g vd va vb => encVA 100 g vd va vb
  | .vshuf g vd va vb => encVA 101 g vd va vb
  | .vdot4 g uns vd va vb => encVA (102 + ofFlag uns) g vd va vb
  | .vbcast g ty vd va vb => encVA (26 * 4 + ty) g vd va vb
  | .vpack g ty vd va vb => encVA (27 * 4 + ty) g vd va vb
  | .vunpk g ty vd va hi zx => encVA (28 * 4 + ty) g vd va (48 + ofFlag zx * 2 + ofFlag hi)
  | .vcvt g dst rnd src vd va => encVA (29 * 4 + src % 4) g vd va (dst * 8 + rnd * 2 + src / 4)
  | .vmov g vd va => encVA (120 + 0) g vd va 0
  | .vexp g ty vd va => encVA (120 + ty) g vd va 1
  | .vrcp g ty vd va => encVA (120 + ty) g vd va 2
  | .vrsq g ty vd va => encVA (120 + ty) g vd va 3
  | .vlog g ty vd va => encVA (120 + ty) g vd va 4
  | .vredAdd g ty sd va => encVA (120 + ty) g sd va 5
  | .vredMax g ty sd va => encVA (120 + ty) g sd va 6
  | .vredMin g ty sd va => encVA (120 + ty) g sd va 7
  | .vany g ty gd m => encVA (120 + ty) g gd m 8
  | .vall g ty gd m => encVA (120 + ty) g gd m 9
  | .vscanAdd g ty vd va => encVA (120 + ty) g vd va 10
  | .vscanMax g ty vd va => encVA (120 + ty) g vd va 11
  | .vrng g vd va => encVA (120 + 0) g vd va 12
  | .vsat g ty vd va => encVA (120 + ty) g vd va 13
  | .vsatN g ty vd va => encVA (120 + ty) g vd va 14
  | .vcompressG16 g ty vd va => encVA (120 + ty) g vd va 15
  | .vcompressG8 g k ty vd va => encVA (120 + ty) g vd va (16 + k)
  | .vmovOq g vd oq vb => encVQ 0 0 g vd oq vb
  | .vaddOqFp g ty vd oq vb => encVQ 1 ty g vd oq vb
  | .vmulOqFp g ty vd oq vb => encVQ 2 ty g vd oq vb
  | .vfmaOq g ty vd oq vb => encVQ 3 ty g vd oq vb
  | .vmaxOq g ty vd oq vb => encVQ 4 ty g vd oq vb
  | .vaddOqInt g ty vd oq vb => encVQ 5 ty g vd oq vb
  | .vmulOqInt g ty vd oq vb => encVQ 6 ty g vd oq vb
  | .definedNop _ w => w
  | _ => 0

/-- The word of a matrix instruction. -/
def encodeM : Instr → Nat
  | .mwload fmt bank p => 3 * 2 ^ 26 + bank * 2 ^ 24 + p * 2 ^ 21 + fmt * 2 ^ 18
  | .mswap mask => 4 * 2 ^ 26 + mask * 2 ^ 22
  | .mres bank sa => 5 * 2 ^ 26 + bank * 2 ^ 24 + sa * 2 ^ 18
  | .mmulTm init live acc p m n sl => 6 * 2 ^ 26 + acc * 2 ^ 23 + p * 2 ^ 20 + m * 2 ^ 17 + 2 ^ 16 + ofFlag init * 2 ^ 15 + ofFlag live * 2 ^ 14 + sl * 2 ^ 8 + (n - 1)
  | .mmulBank init live acc p bank n sl => 6 * 2 ^ 26 + acc * 2 ^ 23 + p * 2 ^ 20 + bank * 2 ^ 17 + ofFlag init * 2 ^ 15 + ofFlag live * 2 ^ 14 + sl * 2 ^ 8 + (n - 1)
  | .mdrain oq acc scale topk tree sp n => 7 * 2 ^ 26 + oq * 2 ^ 23 + acc * 2 ^ 20 + ofFlag scale * 2 ^ 19 + ofFlag topk * 2 ^ 18 + ofFlag tree * 2 ^ 17 + sp * 2 ^ 11 + (n - 1)
  | .mtopk k sa => 8 * 2 ^ 26 + (k - 1) * 2 ^ 20 + sa * 2 ^ 14
  | .mtree sa => 9 * 2 ^ 26 + sa * 2 ^ 20
  | .mgrad bank acc p n => 10 * 2 ^ 26 + bank * 2 ^ 24 + acc * 2 ^ 21 + p * 2 ^ 18 + (n - 1) * 2 ^ 10
  | .mlive sd acc => 11 * 2 ^ 26 + sd * 2 ^ 20 + acc * 2 ^ 17
  | .mclr mask => 12 * 2 ^ 26 + mask * 2 ^ 18
  | .mown => 1 * 2 ^ 26
  | .mrel => 2 * 2 ^ 26
  | .definedNop _ w => w
  | _ => 0

/-- The word of a local-access instruction. -/
def encodeL : Instr → Nat
  | .ld g ty sd sa off => encLM (1 + ty) g sd sa off
  | .st g ty sv sa off => encLM (8 + ty) g sv sa off
  | .stZ g ty sv sa off => encLM (12 + ty) g sv sa off
  | .vld g vd sa off => encLV 16 g vd sa off
  | .vst g vv sa off => encLV 17 g vv sa off
  | .vgather g vd sa vi => 18 * 2 ^ 26 + g.code * 2 ^ 21 + vd * 2 ^ 14 + sa * 2 ^ 8 + vi * 2 ^ 3
  | .vscatter g vv sa vi => 19 * 2 ^ 26 + g.code * 2 ^ 21 + vv * 2 ^ 14 + sa * 2 ^ 8 + vi * 2 ^ 3
  | .pset p sa => 32 * 2 ^ 26 + p * 2 ^ 23 + sa * 2 ^ 17
  | .ptag p t => 33 * 2 ^ 26 + p * 2 ^ 23 + t * 2 ^ 15
  | .seal hd sa => 34 * 2 ^ 26 + hd * 2 ^ 22 + sa * 2 ^ 16
  | .bind w sa => 35 * 2 ^ 26 + w * 2 ^ 22 + sa * 2 ^ 16
  | .copy rd ra rn rt => 36 * 2 ^ 26 + rd * 2 ^ 20 + ra * 2 ^ 14 + rn * 2 ^ 8 + rt * 2 ^ 2
  | .atom op wide sd sa sb => 37 * 2 ^ 26 + op * 2 ^ 23 + ofFlag wide * 2 ^ 22 + sd * 2 ^ 16 + sa * 2 ^ 10 + sb * 2 ^ 4
  | .fenceX sa => 39 * 2 ^ 26 + sa * 2 ^ 20
  | .pflush sa sn => 40 * 2 ^ 26 + sa * 2 ^ 20 + sn * 2 ^ 14
  | .pfence sc => 41 * 2 ^ 26 + sc * 2 ^ 23
  | .fenceO => 38 * 2 ^ 26
  | .psave => 42 * 2 ^ 26
  | .definedNop _ w => w
  | _ => 0

/-- The word of a queue instruction. -/
def encodeQ : Instr → Nat
  | .rtx lane v => 1 * 2 ^ 26 + lane * 2 ^ 22 + v * 2 ^ 15
  | .rtap lane sa t => 2 * 2 ^ 26 + lane * 2 ^ 22 + sa * 2 ^ 16 + t * 2 ^ 8
  | .tqsend q v => 3 * 2 ^ 26 + q * 2 ^ 20 + v * 2 ^ 13
  | .tqrecv v q => 4 * 2 ^ 26 + v * 2 ^ 19 + q * 2 ^ 13
  | .tqpeek sd q => 5 * 2 ^ 26 + sd * 2 ^ 20 + q * 2 ^ 14
  | .bar sc b sp => 6 * 2 ^ 26 + sc * 2 ^ 23 + b * 2 ^ 19 + sp * 2 ^ 13
  | .xslot sd sa => 7 * 2 ^ 26 + sd * 2 ^ 20 + sa * 2 ^ 14
  | .xslotRel sd sa => 7 * 2 ^ 26 + sd * 2 ^ 20 + sa * 2 ^ 14 + 2 ^ 13
  | .accept sd sa => 8 * 2 ^ 26 + sd * 2 ^ 20 + sa * 2 ^ 14
  | .pkey sd sa sb => 9 * 2 ^ 26 + sd * 2 ^ 20 + sa * 2 ^ 14 + sb * 2 ^ 8
  | .plook sd sa => 10 * 2 ^ 26 + sd * 2 ^ 20 + sa * 2 ^ 14
  | .combine rn sa => 11 * 2 ^ 26 + sa * 2 ^ 20 + ofFlag rn * 2 ^ 19
  | .hring sa => 12 * 2 ^ 26 + sa * 2 ^ 20
  | .irq n => 13 * 2 ^ 26 + n * 2 ^ 15
  | .definedNop _ w => w
  | _ => 0

/-- The word of an instruction (in class C, bits [23:0] with a zero header). NOP is the zero word; an event row has no word
and 0 stands there. -/
def encode (i : Instr) : Nat :=
  match i.cls with
  | none => 0
  | some .c => encodeC i
  | some .s => encodeS i
  | some .v => encodeV i
  | some .m => encodeM i
  | some .l => encodeL i
  | some .q => encodeQ i

/-- The slot-0 word of a header and a control instruction (R46). -/
def encodeSlot0 (h : Header) (i : Instr) : Nat := h.code + encode i

/-- The instruction a word stands for in class `k`, if any. -/
def Fate.instr? : Fate → Option Instr
  | .instr i => some i
  | _ => none

/-- The fixed bits of an instruction's row of the opcode table: their number and their value. A row's word does not name its
slot, and one word can be a row of several classes; `decodeTableWord` prefers the row whose free fields are all zero in it, and
among rows the one that fixes more bits. -/
def rowFixed : Instr → Nat × Nat
  | .br _ => (6, 0x40000)
  | .brc _ _ => (6, 0x80000)
  | .brd _ _ => (6, 0xC0000)
  | .jt _ _ => (12, 0x100000)
  | .call _ => (6, 0x140000)
  | .callg _ => (18, 0x180000)
  | .loopReg _ => (18, 0x200000)
  | .loopImm _ => (7, 0x220000)
  | .trap _ => (16, 0x340000)
  | .brk _ => (17, 0x80380000)
  | .syscall _ => (13, 0x80400000)
  | .waitc _ => (18, 0x440000)
  | .slateQ _ => (18, 0x480000)
  | .slateT _ => (18, 0x4C0000)
  | .scene _ => (8, 0x80500000)
  | .add _ _ _ _ _ => (8, 0x40000)
  | .sub _ _ _ _ _ => (8, 0x80000)
  | .andS _ _ _ _ _ => (8, 0xC0000)
  | .orS _ _ _ _ _ => (8, 0x100000)
  | .xorS _ _ _ _ _ => (8, 0x140000)
  | .andn _ _ _ _ _ => (8, 0x180000)
  | .shl _ _ _ _ _ => (8, 0x1C0000)
  | .shr _ _ _ _ _ => (8, 0x200000)
  | .sar _ _ _ _ _ => (8, 0x240000)
  | .minS _ _ _ _ _ => (8, 0x280000)
  | .maxS _ _ _ _ _ => (8, 0x2C0000)
  | .minN _ _ _ _ _ => (8, 0x300000)
  | .maxN _ _ _ _ _ => (8, 0x340000)
  | .sel _ _ _ _ _ => (8, 0x380000)
  | .clz _ _ _ _ => (14, 0x3C0000)
  | .popc _ _ _ _ => (14, 0x400000)
  | .mul _ _ _ _ _ => (8, 0x440000)
  | .mulh _ _ _ _ _ => (8, 0x480000)
  | .mulhN _ _ _ _ _ => (8, 0x4C0000)
  | .divS _ _ _ _ _ => (8, 0x500000)
  | .divN _ _ _ _ _ => (8, 0x540000)
  | .rem _ _ _ _ _ => (8, 0x580000)
  | .remN _ _ _ _ _ => (8, 0x5C0000)
  | .cmp _ _ _ _ _ => (8, 0x600000)
  | .gand _ _ _ _ => (13, 0x20000000)
  | .gor _ _ _ _ => (13, 0x20040000)
  | .gnot _ _ _ => (18, 0x20080000)
  | .gcopy _ _ _ => (18, 0x200C0000)
  | .takeWait _ _ => (23, 0x20100000)
  | .tkcnt _ _ _ => (15, 0x20140000)
  | .csrr _ _ _ => (9, 0x20180000)
  | .csrw _ _ _ => (9, 0x201C0000)
  | .rol _ _ _ _ _ => (8, 0x20200000)
  | .ror _ _ _ _ _ => (8, 0x20240000)
  | .ctz _ _ _ _ => (14, 0x20280000)
  | .addx1 _ _ _ _ _ => (8, 0x202C0000)
  | .addx2 _ _ _ _ _ => (8, 0x20300000)
  | .addx3 _ _ _ _ _ => (8, 0x20340000)
  | .addx8 _ _ _ _ _ => (8, 0x20380000)
  | .addi _ _ _ _ => (3, 0x40000000)
  | .lih _ _ => (6, 0x80000000)
  | .cmpi _ _ _ _ _ => (4, 0xA0000000)
  | .shli _ _ _ _ => (9, 0xC0000000)
  | .shri _ _ _ _ => (9, 0xC0200000)
  | .sari _ _ _ _ => (9, 0xC0400000)
  | .andi _ _ _ _ => (6, 0xC0600000)
  | .ori _ _ _ _ => (6, 0xC0800000)
  | .xori _ _ _ _ => (6, 0xC0A00000)
  | .roli _ _ _ _ => (9, 0xC0C00000)
  | .vaddInt _ _ _ _ _ => (5, 0x4)
  | .vsubInt _ _ _ _ _ => (5, 0x8)
  | .vmulInt _ _ _ _ _ => (5, 0xC)
  | .vminInt _ _ _ _ _ => (5, 0x10)
  | .vmaxInt _ _ _ _ _ => (5, 0x14)
  | .vminN _ _ _ _ _ => (5, 0x18)
  | .vmaxN _ _ _ _ _ => (5, 0x1C)
  | .vaddSatI _ _ _ _ _ => (5, 0x20)
  | .vsubSatI _ _ _ _ _ => (5, 0x24)
  | .vaddSatN _ _ _ _ _ => (5, 0x28)
  | .vsubSatN _ _ _ _ _ => (5, 0x2C)
  | .vshl _ _ _ _ _ => (5, 0x30)
  | .vshr _ _ _ _ _ => (5, 0x34)
  | .vsar _ _ _ _ _ => (5, 0x38)
  | .vand _ _ _ _ => (7, 0x3C)
  | .vor _ _ _ _ => (7, 0x3D)
  | .vxor _ _ _ _ => (7, 0x3E)
  | .vandn _ _ _ _ => (7, 0x3F)
  | .vaddFp _ _ _ _ _ => (5, 0x40)
  | .vsubFp _ _ _ _ _ => (5, 0x44)
  | .vmulFp _ _ _ _ _ => (5, 0x48)
  | .vfma _ _ _ _ _ => (5, 0x4C)
  | .vminFp _ _ _ _ _ => (5, 0x50)
  | .vmaxFp _ _ _ _ _ => (5, 0x54)
  | .vcmpInt _ _ _ _ _ _ => (5, 0x58)
  | .vcmpFp _ _ _ _ _ _ => (5, 0x5C)
  | .vsel _ _ _ _ _ => (8, 0x60)
  | .vpermb _ _ _ _ => (7, 0x64)
  | .vshuf _ _ _ _ => (7, 0x65)
  | .vdot4 _ _ _ _ _ => (6, 0x66)
  | .vbcast _ _ _ _ _ => (5, 0x68)
  | .vpack _ _ _ _ _ => (5, 0x6C)
  | .vunpk _ _ _ _ _ _ => (9, 0x1870)
  | .vcvt _ _ _ _ _ _ => (5, 0x74)
  | .vmov _ _ _ => (13, 0x78)
  | .vexp _ _ _ _ => (11, 0xF8)
  | .vrcp _ _ _ _ => (11, 0x178)
  | .vrsq _ _ _ _ => (11, 0x1F8)
  | .vlog _ _ _ _ => (11, 0x278)
  | .vredAdd _ _ _ _ => (12, 0x2F8)
  | .vredMax _ _ _ _ => (12, 0x378)
  | .vredMin _ _ _ _ => (12, 0x3F8)
  | .vany _ _ _ _ => (18, 0x478)
  | .vall _ _ _ _ => (18, 0x4F8)
  | .vscanAdd _ _ _ _ => (11, 0x578)
  | .vscanMax _ _ _ _ => (11, 0x5F8)
  | .vrng _ _ _ => (13, 0x678)
  | .vsat _ _ _ _ => (11, 0x6F8)
  | .vsatN _ _ _ _ => (11, 0x778)
  | .vcompressG16 _ _ _ _ => (11, 0x7F8)
  | .vcompressG8 _ _ _ _ _ => (8, 0x878)
  | .vmovOq _ _ _ _ => (11, 0x7C)
  | .vaddOqFp _ _ _ _ _ => (9, 0xFC)
  | .vmulOqFp _ _ _ _ _ => (9, 0x17C)
  | .vfmaOq _ _ _ _ _ => (9, 0x1FC)
  | .vmaxOq _ _ _ _ _ => (9, 0x27C)
  | .vaddOqInt _ _ _ _ _ => (9, 0x2FC)
  | .vmulOqInt _ _ _ _ _ => (9, 0x37C)
  | .mwload _ _ _ => (24, 0xC000000)
  | .mswap _ => (28, 0x10000000)
  | .mres _ _ => (24, 0x14000000)
  | .mmulTm _ _ _ _ _ _ _ => (7, 0x18010000)
  | .mmulBank _ _ _ _ _ _ _ => (8, 0x18000000)
  | .mdrain _ _ _ _ _ _ _ => (9, 0x1C000000)
  | .mtopk _ _ => (20, 0x20000000)
  | .mtree _ => (26, 0x24000000)
  | .mgrad _ _ _ _ => (16, 0x28000000)
  | .mlive _ _ => (23, 0x2C000000)
  | .mclr _ => (24, 0x30000000)
  | .ld _ _ _ _ _ => (3, 0x0)
  | .st _ _ _ _ _ => (4, 0x20000000)
  | .stZ _ _ _ _ _ => (4, 0x30000000)
  | .vld _ _ _ _ => (6, 0x40000000)
  | .vst _ _ _ _ => (6, 0x44000000)
  | .vgather _ _ _ _ => (9, 0x48000000)
  | .vscatter _ _ _ _ => (9, 0x4C000000)
  | .pset _ _ => (23, 0x80000000)
  | .ptag _ _ => (21, 0x84000000)
  | .seal _ _ => (22, 0x88000000)
  | .bind _ _ => (22, 0x8C000000)
  | .copy _ _ _ _ => (8, 0x90000000)
  | .atom _ _ _ _ _ => (10, 0x94000000)
  | .fenceX _ => (26, 0x9C000000)
  | .pflush _ _ => (20, 0xA0000000)
  | .pfence _ => (29, 0xA4000000)
  | .rtx _ _ => (21, 0x4000000)
  | .rtap _ _ _ => (14, 0x8000000)
  | .tqsend _ _ => (19, 0xC000000)
  | .tqrecv _ _ => (19, 0x10000000)
  | .tqpeek _ _ => (20, 0x14000000)
  | .bar _ _ _ => (19, 0x18000000)
  | .xslot _ _ => (20, 0x1C000000)
  | .xslotRel _ _ => (20, 0x1C002000)
  | .accept _ _ => (20, 0x20000000)
  | .pkey _ _ _ => (14, 0x24000000)
  | .plook _ _ => (20, 0x28000000)
  | .combine _ _ => (25, 0x2C000000)
  | .hring _ => (26, 0x30000000)
  | .irq _ => (21, 0x34000000)
  | .nop => (32, 0x0)
  | .ret => (24, 0x1C0000)
  | .lend => (24, 0x240000)
  | .halt => (25, 0x80280000)
  | .trigger => (24, 0x2C0000)
  | .yieldC => (25, 0x80300000)
  | .eret => (24, 0x3C0000)
  | .mown => (32, 0x4000000)
  | .mrel => (32, 0x8000000)
  | .fenceO => (32, 0x98000000)
  | .psave => (32, 0xA8000000)
  | _ => (0, 0)

/-- How well a word suits the row of the instruction a class reads from it. -/
def rowScore (w : Nat) (i : Instr) : Nat := (if (rowFixed i).2 = w then 64 else 0) + (rowFixed i).1

/-- The better of two readings of a word. -/
def betterRow (w : Nat) (a : Option Instr) (f : Fate) : Option Instr :=
  match a, f.instr? with
  | none, b => b
  | a, none => a
  | some x, some y => if rowScore w x < rowScore w y then some y else some x

/-- The instruction the decoder reads from a word numbered as the opcode table numbers it: the six classes' decoders are
tried in slot order, and a word that several read goes to the row that suits it best. Only 32-bit words are instructions. -/
def decodeTableWord (nbits w : Nat) : Option Instr :=
  if nbits ≠ 32 ∨ 2 ^ 32 ≤ w then none
  else [Cls.c, .s, .v, .m, .l, .q].foldl (fun a k => betterRow w a (decodeWord k w)) none

/-- A slot that carries the instruction `decodeTableWord` reads: the first slot of its class. -/
def tableSlot (i : Instr) : Nat :=
  match i.cls with
  | some .c | none => 0
  | some .s => 1
  | some .v => 3
  | some .m => 5
  | some .l => 6
  | some .q => 7

end Sys2Proof
end

