-- ==== Sys2Proof/Machine/Fp.lean ====
section
/-! DEFINITION. Number formats and rounding (05_formats.md): exact values, rounding to a format with its events, and the exact
functions whose rounded results the vector and matrix instructions give. -/

namespace Sys2Proof.Machine

/-! ### Events (Table 05-8), as bit masks -/

def evIV : Nat := 1
def evDZ : Nat := 2
def evOF : Nat := 4
def evUF : Nat := 8
def evSA : Nat := 16
def evZD : Nat := 32

/-- The union of two sets of events. -/
def evOr (a b : Nat) : Nat := a ||| b

/-- An exact value: NaN, an infinity, or (-1)^neg × (m + δ) × 2^e, where 0 < δ < 1 if `st` and δ = 0 otherwise. -/
inductive FVal where
  | nan
  | inf (neg : Bool)
  | fin (neg : Bool) (m : Nat) (e : Int) (st : Bool)
  deriving DecidableEq, Repr

/-- The floating-point formats of Table 05-1. -/
inductive Fmt where
  | f32 | bf16 | f16 | e4m3 | e5m2 | e2m1
  deriving DecidableEq, Repr

/-- Width, exponent bits, mantissa bits and bias (Table 05-1). -/
def Fmt.width : Fmt → Nat
  | .f32 => 32
  | .bf16 | .f16 => 16
  | .e4m3 | .e5m2 => 8
  | .e2m1 => 4
def Fmt.mb : Fmt → Nat
  | .f32 => 23
  | .bf16 => 7
  | .f16 => 10
  | .e4m3 => 3
  | .e5m2 => 2
  | .e2m1 => 1
def Fmt.bias : Fmt → Nat
  | .f32 | .bf16 => 127
  | .f16 | .e5m2 => 15
  | .e4m3 => 7
  | .e2m1 => 1

/-- Largest finite magnitude code and canonical NaN (Table 05-2); E2M1 has no NaN and gives +0 (Table 05-6). -/
def Fmt.maxFin : Fmt → Nat
  | .f32 => 0x7F7FFFFF
  | .bf16 => 0x7F7F
  | .f16 => 0x7BFF
  | .e4m3 => 0x7E
  | .e5m2 => 0x7B
  | .e2m1 => 0x7
def Fmt.nan : Fmt → Nat
  | .f32 => 0x7FC00000
  | .bf16 => 0x7FC0
  | .f16 => 0x7E00
  | .e4m3 => 0x7F
  | .e5m2 => 0x7E
  | .e2m1 => 0
/-- The code of +∞, where the format has one. -/
def Fmt.infCode : Fmt → Option Nat
  | .f32 => some 0x7F800000
  | .bf16 => some 0x7F80
  | .f16 => some 0x7C00
  | .e5m2 => some 0x7C
  | .e4m3 | .e2m1 => none

/-- The sign bit of a format. -/
def Fmt.sgn (f : Fmt) (neg : Bool) : Nat := if neg then 2 ^ (f.width - 1) else 0

/-- Whether a code is a NaN (Table 05-2). -/
def Fmt.isNan (f : Fmt) (x : Nat) : Bool :=
  let a := x % 2 ^ (f.width - 1)
  match f with
  | .e2m1 => false
  | .e4m3 => a == 0x7F
  | _ => match f.infCode with
    | some i => i < a
    | none => false

/-- The value of a code (R113, R114). -/
def Fmt.val (f : Fmt) (x : Nat) : FVal :=
  let neg := x / 2 ^ (f.width - 1) % 2 = 1
  let a := x % 2 ^ (f.width - 1)
  if f.isNan x then .nan
  else if f.infCode = some a then .inf neg
  else
    let e := a / 2 ^ f.mb
    let m := a % 2 ^ f.mb
    if e = 0 then .fin neg m (1 - (f.bias : Int) - f.mb) false
    else .fin neg (m + 2 ^ f.mb) ((e : Int) - f.bias - f.mb) false

/-- Rounding modes (R118). `rsr r` carries the lane's 16-bit random value (R119). -/
inductive RMode where
  | rne
  | rtz
  | rsr (r : Nat)
  deriving DecidableEq, Repr

/-- The position of the highest set bit. -/
def msb (n : Nat) : Nat := Nat.log2 n

/-- Round (m + δ) × 2^e to a multiple of 2^q: the multiple, and whether it is inexact. -/
def roundAt (mode : RMode) (m : Nat) (e : Int) (st : Bool) (q : Int) : Nat × Bool :=
  if q ≤ e then (m * 2 ^ (e - q).toNat, st)
  else
    let sh := (q - e).toNat
    let n := m / 2 ^ sh
    let r := m % 2 ^ sh
    let up := match mode with
      | .rtz => false
      | .rne => 2 ^ sh < 2 * r || (2 * r == 2 ^ sh && (st || n % 2 == 1))
      | .rsr k => 2 ^ 16 ≤ r * 2 ^ 16 / 2 ^ sh + k
    (if up then n + 1 else n, r != 0 || st)

/-- Result code and events of rounding an exact value to a format (R118 to R123). `c4` chooses the C4 column of Table 05-6
and the C4 flush of FP32 subnormal results (Table 05-13). A result beyond range keeps its sign, also that of a VRCP (log 93). -/
def Fmt.round (f : Fmt) (c4 : Bool) (mode : RMode) : FVal → Nat × Nat
  | .nan => (f.nan, if f = .e2m1 then evIV else 0)
  | .inf neg =>
    match f.infCode with
    | some i => (f.sgn neg + i, 0)
    | none => if f = .e4m3 then (0x7F, evIV) else (f.sgn neg + f.maxFin, evSA)
  | .fin neg m e st =>
    if m = 0 ∧ st = false then (f.sgn neg, 0)
    else
      let emin : Int := 1 - (f.bias : Int)
      let q := max ((msb m : Int) + e - f.mb) (emin - f.mb)
      let r := roundAt mode m e st q
      let n := r.1
      let tiny := n < 2 ^ f.mb
      let mag := if tiny then n
        else if n = 2 ^ (f.mb + 1) then (q + 1 + f.mb + f.bias).toNat * 2 ^ f.mb
        else (q + f.mb + f.bias).toNat * 2 ^ f.mb + (n - 2 ^ f.mb)
      if f.maxFin < mag then
        match f with
        | .f32 | .bf16 | .f16 =>
          match mode, f.infCode with
          | .rtz, _ => (f.sgn neg + f.maxFin, evOF)
          | _, some i => (f.sgn neg + i, evOF)
          | _, none => (f.sgn neg + f.maxFin, evOF)
        | .e5m2 => if c4 then (f.sgn neg + 0x7C, evOF) else (f.sgn neg + f.maxFin, evSA)
        | .e4m3 => if c4 then (0x7F, evOF) else (f.sgn neg + f.maxFin, evSA)
        | .e2m1 => (f.sgn neg + f.maxFin, evSA)
      else if c4 ∧ f = .f32 ∧ tiny then (f.sgn neg, evUF)
      else (f.sgn neg + mag, if tiny && r.2 then evUF else 0)

/-- The value of an operand with the events of reading it: at the C4 level an FP32 subnormal reads as zero of its sign, a
flush (Table 05-13, Table 05-8 bit 3). -/
def Fmt.read (f : Fmt) (c4 : Bool) (x : Nat) : FVal × Nat :=
  match f.val x with
  | .fin neg m e st =>
    if c4 ∧ f = .f32 ∧ m ≠ 0 ∧ m < 2 ^ 23 then (.fin neg 0 e st, evUF) else (.fin neg m e st, 0)
  | v => (v, 0)

/-- The exact sum (R121): with the IV event of ∞ - ∞. -/
def FVal.add : FVal → FVal → FVal × Nat
  | .nan, _ | _, .nan => (.nan, 0)
  | .inf a, .inf b => if a = b then (.inf a, 0) else (.nan, evIV)
  | .inf a, _ => (.inf a, 0)
  | _, .inf b => (.inf b, 0)
  | .fin a m e s, .fin b n d t =>
    let q := min e d
    let x : Int := (if a then -1 else 1) * ((m * 2 ^ (e - q).toNat : Nat) : Int)
    let y : Int := (if b then -1 else 1) * ((n * 2 ^ (d - q).toNat : Nat) : Int)
    let z := x + y
    if z = 0 then (.fin (a && b) 0 q false, 0) else (.fin (z < 0) z.natAbs q (s || t), 0)

/-- The opposite value. -/
def FVal.negate : FVal → FVal
  | .nan => .nan
  | .inf a => .inf !a
  | .fin a m e s => .fin (!a) m e s

/-- The exact product (R121): with the IV event of 0 × ∞. -/
def FVal.mul : FVal → FVal → FVal × Nat
  | .nan, _ | _, .nan => (.nan, 0)
  | .inf a, .inf b => (.inf (a != b), 0)
  | .inf a, .fin b n _ _ => if n = 0 then (.nan, evIV) else (.inf (a != b), 0)
  | .fin a m _ _, .inf b => if m = 0 then (.nan, evIV) else (.inf (a != b), 0)
  | .fin a m e _, .fin b n d _ => (.fin (a != b) (m * n) (e + d) false, 0)

/-- Whether an exact value is zero. -/
def FVal.isZero : FVal → Bool
  | .fin _ m _ st => m == 0 && !st
  | _ => false

/-- The order of two exact values that are not NaN: -1, 0 or 1; +0 and -0 are equal. -/
def FVal.cmp : FVal → FVal → Int
  | .inf a, .inf b => if a = b then 0 else if a then -1 else 1
  | .inf a, _ => if a then -1 else 1
  | _, .inf b => if b then 1 else -1
  | .fin a m e _, .fin b n d _ =>
    let q := min e d
    let x : Int := (if a then -1 else 1) * ((m * 2 ^ (e - q).toNat : Nat) : Int)
    let y : Int := (if b then -1 else 1) * ((n * 2 ^ (d - q).toNat : Nat) : Int)
    if x < y then -1 else if x = y then 0 else 1
  | .nan, _ => 0
  | _, .nan => 0

/-- The sign of a value. -/
def FVal.neg : FVal → Bool
  | .nan => false
  | .inf a => a
  | .fin a _ _ _ => a

/-- The NaN result of an operation at the C4 level (Table 05-13): the first NaN operand in source order, with the top
mantissa bit set; the canonical NaN where no operand is one. At the D8 level it is canonical (R121). -/
def Fmt.nanOf (f : Fmt) (c4 : Bool) (ops : List Nat) : Nat :=
  if c4 then
    match ops.find? f.isNan with
    | some x => x ||| 2 ^ (f.mb - 1)
    | none => f.nan
  else f.nan

/-- Round a computed value, with the level's NaN; `ops` are the operand codes in source order. -/
def Fmt.finish (f : Fmt) (c4 : Bool) (ops : List Nat) (r : FVal × Nat) : Nat × Nat :=
  match r.1 with
  | .nan => (f.nanOf c4 ops, r.2)
  | v => let q := f.round c4 .rne v; (q.1, evOr r.2 q.2)

/-- Addition, subtraction, multiplication and fused multiply-add of codes (R121, R148). -/
def Fmt.add (f : Fmt) (c4 : Bool) (x y : Nat) : Nat × Nat :=
  let a := f.read c4 x
  let b := f.read c4 y
  let r := a.1.add b.1
  f.finish c4 [x, y] (r.1, evOr (evOr a.2 b.2) r.2)
def Fmt.sub (f : Fmt) (c4 : Bool) (x y : Nat) : Nat × Nat :=
  let a := f.read c4 x
  let b := f.read c4 y
  let r := a.1.add b.1.negate
  f.finish c4 [x, y] (r.1, evOr (evOr a.2 b.2) r.2)
def Fmt.mul (f : Fmt) (c4 : Bool) (x y : Nat) : Nat × Nat :=
  let a := f.read c4 x
  let b := f.read c4 y
  let r := a.1.mul b.1
  f.finish c4 [x, y] (r.1, evOr (evOr a.2 b.2) r.2)
/-- The sum and the product round once; a NaN operand sets no IV (log 88). -/
def Fmt.fma (f : Fmt) (c4 : Bool) (x y z : Nat) : Nat × Nat :=
  let a := f.read c4 x
  let b := f.read c4 y
  let c := f.read c4 z
  let p := a.1.mul b.1
  let r := p.1.add c.1
  f.finish c4 [x, y, z] (r.1, evOr (evOr (evOr a.2 b.2) c.2) (evOr p.2 r.2))

/-- Whether `x` comes before `y` where -0 is ordered below +0 (R121); NaN excluded. -/
def Fmt.less (f : Fmt) (c4 : Bool) (x y : Nat) : Bool :=
  let a := (f.read c4 x).1
  let b := (f.read c4 y).1
  let c := a.cmp b
  c < 0 || (c == 0 && a.neg && !b.neg)

/-- Minimum and maximum (R121): a NaN operand gives a NaN; no event (R148). At the C4 level a subnormal FP32 operand that is
chosen is flushed. -/
def Fmt.pick (f : Fmt) (c4 wantMax : Bool) (x y : Nat) : Nat × Nat :=
  if f.isNan x || f.isNan y then (f.nanOf c4 [x, y], 0)
  else
    let r := if wantMax then (if f.less c4 x y then y else x) else (if f.less c4 y x then y else x)
    ((f.round c4 .rne (f.read c4 r).1).1, 0)

/-- The conditions of Table 03-9 on floating-point lanes. -/
def Fmt.test (f : Fmt) (c4 : Bool) (cond x y : Nat) : Bool :=
  let un := f.isNan x || f.isNan y
  let c := (f.read c4 x).1.cmp (f.read c4 y).1
  match cond with
  | 0 => !un && c == 0
  | 1 => un || c != 0
  | 2 => !un && c < 0
  | 3 => !un && 0 ≤ c
  | 6 => !un && c ≤ 0
  | 7 => !un && 0 < c
  | 8 => un
  | _ => false

/-! ### Integers -/

/-- The two's complement value of an `n`-bit lane. -/
def sint (n x : Nat) : Int := signed n (x % 2 ^ n)

/-- The `n`-bit lane of an integer, wrapping. -/
def wrapInt (n : Nat) (x : Int) : Nat := unsigned n x

/-- Clamp to a range, with the SA event (R117). -/
def clampInt (lo hi x : Int) : Int × Nat := if x < lo then (lo, evSA) else if hi < x then (hi, evSA) else (x, 0)

/-- Round an exact value to an `n`-bit signed integer (R118, Table 05-6). -/
def roundInt (n : Nat) (mode : RMode) : FVal → Nat × Nat
  | .nan => (0, evIV)
  | .inf neg => (wrapInt n (if neg then -(2 ^ (n - 1)) else 2 ^ (n - 1) - 1), evSA)
  | .fin neg m e st =>
    let r := (roundAt mode m e st 0).1
    let c := clampInt (-(2 ^ (n - 1))) (2 ^ (n - 1) - 1) (if neg then -(r : Int) else r)
    (wrapInt n c.1, c.2)

/-! ### The transcendentals (R157)

Each gives the exact value to far more bits than any format keeps, with `st` for the rest: the true results other than the
special cases are irrational or, for the reciprocal forms, carry an exact remainder (log 9). -/

/-- The largest r with r × r ≤ n, found bit by bit from bit `k - 1` down. -/
def isqrtBits (n : Nat) : Nat → Nat → Nat
  | 0, r => r
  | k + 1, r => if (r + 2 ^ k) * (r + 2 ^ k) ≤ n then isqrtBits n k (r + 2 ^ k) else isqrtBits n k r

def isqrt (n : Nat) : Nat := isqrtBits n (Nat.log2 n / 2 + 1) 0

/-- The reciprocal. -/
def FVal.rcp : FVal → FVal × Nat
  | .nan => (.nan, 0)
  | .inf a => (.fin a 0 0 false, 0)
  | .fin a m e _ =>
    if m = 0 then (.inf a, evDZ)
    else
      let k := msb m + 100
      (.fin a (2 ^ k / m) (-(k : Int) - e) (2 ^ k % m != 0), 0)

/-- The reciprocal square root. -/
def FVal.rsq : FVal → FVal × Nat
  | .nan => (.nan, 0)
  | .inf a => if a then (.nan, evIV) else (.fin false 0 0 false, 0)
  | .fin a m e _ =>
    if m = 0 then (.inf a, evDZ)
    else if a then (.nan, evIV)
    else
      let m := if e % 2 = 0 then m else 2 * m
      let e := if e % 2 = 0 then e else e - 1
      let k := msb m + 100
      let q := isqrt (2 ^ (2 * k) / m)
      (.fin false q (-(k : Int) - e / 2) (q * q * m != 2 ^ (2 * k)), 0)

/-- ln 2 × 2^256, rounded down. -/
def ln2 : Nat := 0xB17217F7D1CF79ABC9E3B39803F2F6AF40F343267298B62D8A0D175B8BAAFA2B

/-- The sum of r^i / i! for i from `i` up to `i + n - 1` in fixed point with 256 fraction bits; `t` is the term of `i`. -/
def expSum (r : Int) : Nat → Nat → Int → Int
  | 0, _, _ => 0
  | n + 1, i, t => t + expSum r n (i + 1) (t * r / 2 ^ 256 / (i + 1))

/-- e^x. -/
def FVal.exp : FVal → FVal × Nat
  | .nan => (.nan, 0)
  | .inf a => if a then (.fin false 0 0 false, 0) else (.inf false, 0)
  | .fin a m e _ =>
    if m = 0 then (.fin false 1 0 false, 0)
    else if 8 ≤ (msb m : Int) + e then
      if a then (.fin false (2 ^ 100) (-2000) true, 0) else (.fin false (2 ^ 100) 2000 true, 0)
    else
      let x : Int := (if a then -1 else 1) * ((m * 2 ^ (e + 256).toNat : Nat) : Int)
      let k := (x + ln2 / 2) / ln2
      let y := expSum (x - k * ln2) 60 0 (2 ^ 256)
      (.fin false (y.toNat / 2 ^ 40) (k - 216) true, 0)

/-- The sum of z^(2i+1)/(2i+1) in fixed point; `t` is z^(2i+1). -/
def atanhSum (z2 : Int) : Nat → Nat → Int → Int
  | 0, _, _ => 0
  | n + 1, i, t => t / (2 * i + 1) + atanhSum z2 n (i + 1) (t * z2 / 2 ^ 256)

/-- ln x. -/
def FVal.ln : FVal → FVal × Nat
  | .nan => (.nan, 0)
  | .inf a => if a then (.nan, evIV) else (.inf false, 0)
  | .fin a m e _ =>
    if m = 0 then (.inf true, evDZ)
    else if a then (.nan, evIV)
    else
      let p := msb m
      let up := 3 * 2 ^ p < 2 * m
      let d : Nat := if up then 2 ^ (p + 1) else 2 ^ p
      let k : Int := (p : Int) + e + (if up then 1 else 0)
      if m = d ∧ k = 0 then (.fin false 0 0 false, 0)
      else
        let z : Int := ((m : Int) - d) * 2 ^ 256 / (m + d)
        let y := 2 * atanhSum (z * z / 2 ^ 256) 70 0 z + k * ln2
        (.fin (y < 0) (y.natAbs / 2 ^ 20) (-236) true, 0)

/-- A unary function of codes: value, events, rounding. -/
def Fmt.unary (f : Fmt) (c4 : Bool) (g : FVal → FVal × Nat) (x : Nat) : Nat × Nat :=
  let a := f.read c4 x
  let r := g a.1
  f.finish c4 [x] (r.1, evOr a.2 r.2)

/-! ### Conversion (R62, R155) -/

/-- The types of VCVT (Table 03-14): a format, or a signed integer of some bits. -/
def cvtFmt : Nat → Option Fmt
  | 0 => some .f32
  | 1 => some .bf16
  | 2 => some .f16
  | 3 => some .e4m3
  | 4 => some .e5m2
  | 5 => some .e2m1
  | _ => none
def cvtWidth (t : Nat) : Nat :=
  match cvtFmt t with
  | some f => f.width
  | none => if t = 6 then 32 else 8

/-- A NaN carried into another format at the C4 level: sign and payload, aligned at the top mantissa bit, which is set
(log 10). -/
def carryNan (src dst : Fmt) (x : Nat) : Nat :=
  let pay := x % 2 ^ src.mb
  let pay := if src.mb ≤ dst.mb then pay * 2 ^ (dst.mb - src.mb) else pay / 2 ^ (src.mb - dst.mb)
  match dst.infCode with
  | some i => dst.sgn (x / 2 ^ (src.width - 1) % 2 = 1) + (i ||| pay ||| 2 ^ (dst.mb - 1))
  | none => dst.sgn (x / 2 ^ (src.width - 1) % 2 = 1) + dst.nan

/-- Convert one element (R155, Table 05-6, Table 05-13). -/
def convert (c4 : Bool) (mode : RMode) (src dst : Nat) (x : Nat) : Nat × Nat :=
  let mode := if c4 then (match mode with | .rsr _ => .rne | m => m) else mode
  let mode := if c4 ∧ src = 0 ∧ dst = 1 then .rtz else mode
  let a : FVal × Nat := match cvtFmt src with
    | some f => f.read c4 x
    | none => let i := sint (cvtWidth src) x; (.fin (i < 0) i.natAbs 0 false, 0)
  match cvtFmt dst with
  | none => let r := roundInt (cvtWidth dst) mode a.1; (r.1, evOr a.2 r.2)
  | some d =>
    match cvtFmt src, a.1 with
    | some f, .nan =>
      if c4 ∧ d ≠ .e2m1 then (carryNan f d x, 0) else let r := d.round c4 mode .nan; (r.1, r.2)
    | _, v => let r := d.round c4 mode v; (r.1, evOr a.2 r.2)

/-! ### The random generator (R160) -/

def genStep (x k : Nat) : Nat :=
  let x := (x + k) % 2 ^ 64
  let x := x ^^^ (x / 2 ^ 31)
  let x := x * 0xE7C35A19B46D0F2B % 2 ^ 64
  x ^^^ (x / 2 ^ 29)

def genRounds : Nat → Nat → Nat → Nat
  | 0, x, _ => x
  | n + 1, x, k => genRounds n (genStep x k) ((k + 0x61C886470B3E95D9) % 2 ^ 64)

/-- Gen(K, X). -/
def gen (k x : Nat) : Nat := genRounds 4 (x % 2 ^ 64) (k % 2 ^ 64) / 2 ^ 32

end Sys2Proof.Machine
end

