-- ==== Sys2Proof/Config.lean ====
section
/-! DEFINITION. What an implementation fixes and what the manual leaves open. An opaque constant has no body: nothing in
Lean can evaluate it, so a statement about it holds for every value (log 6). -/

namespace Sys2Proof.Config

/-- The 32-byte identity private key of the package (17_isolation.md R317, RFC 8032): made at manufacture and never readable, so no
value of it can be stated (log 6). -/
opaque idSeed : BitVec 256

/-- The 64-byte digest of the boot firmware that a quote covers (17_isolation.md R317). -/
opaque firmwareDigest : BitVec 512

/-- Whether the host's root port reports AtomicOp completion (20_package.md R353). -/
opaque hostAtomics : Bool

/-- The order in which the lazy entries of one epoch drain is free (12_memory.md R241): how many cycles before its last
cycle the n-th entry of a run drains, taken modulo the length of what the rule allows (log 7). -/
opaque lazyEarly : Nat → Nat

/-- The 8-byte word at an offset of an area of the context payload (Table 18-8) whose contents the manual gives, but not their places
(log 8): a function of the offset and of those contents, listed in the order of the table. -/
opaque payloadWord : Nat → List Nat → BitVec 64

/-- The CRC-32C of the matrix state (MCRC) and of a queue state payload (18_recovery.md R328, R337), whose bytes the manual does not lay
out: a function of their contents (log 8). -/
opaque recordCrc : List Nat → BitVec 32

/-- What a debugger's write of a word makes of the loop levels, and of the traps, of a context's image, whose places the manual does not
give: a function of the word's offset, of the value written, of the contents before it and of which list is asked for: the open levels
(0) or the levels of one handler entry (from 1 on); the deferred traps (0) or the pending faults (1) (log 98). -/
opaque imageLevels : Nat → Nat → List Nat → Nat → List (List Nat)
opaque imageTraps : Nat → Nat → List Nat → Nat → List (List Nat)

/-- Whether a compute die trains at bring-up (20_package.md R356). -/
opaque dieTrains : Nat → Bool

/-- The offset in the context payload at which a field of the sequencer area stands: the manual gives the fields and their
order, not their places (log 8). -/
opaque imagePlace : Nat → Nat

/-- The cycle, in reduced service, from which the negative is calibrated, and from which LPDDR6 is trained (18_recovery.md R342,
20_package.md Table 20-5: about 0.9 s and 1.1 s; log 21). -/
opaque negReadyAt : Nat
opaque lpReadyAt : Nat

/-- The cores that a partition holds in the other packages of the pod (04_progress.md R97): the package has no register that says so
(log 31). -/
opaque podCores : Nat → Nat

/-- The n-th free value of a run: 64 bits (log 6). -/
opaque freeValue : Nat → Word

end Sys2Proof.Config
end

