-- ==== Sys2Proof/Machine/State.lean ====
section
/-! DEFINITION. The state of the package (INVENTORY.md, State): plain data, everything sparse; a unit that a list does not hold
is in its reset state. `State.reset` is the package right after reset. -/

namespace Sys2Proof.Machine

/-! ### Takes, results in flight, guards (07_takes.md) -/

/-- A condition over the open guard instances (R174): bit i-1 stands for gi. -/
structure Cube where
  care : BitVec 15
  val : BitVec 15
  deriving DecidableEq, Repr

/-- One take of a register (R177). The value stands in the low bits: 64 of a scalar, 2048 of a vector, 512 of a mask. -/
structure Take where
  cube : Cube
  x : Vec
  deriving DecidableEq, Repr

/-- The register classes a result lands in; `csr` and `hnd` take single values (R133). -/
inductive RCls where
  | s | v | m | csr | hnd
  deriving DecidableEq, Repr

/-- The record of a fault (Table 18-1, R189): code, subcode, slots, the faulting bundle's address, INFO0 and INFO1, the issue
cycle of the instruction, whether it was deferred (R190, R323), whether it is a SYSCALL, and the
privilege of the code that raised it (R359). -/
structure Trap where
  code : Nat
  sub : Nat
  slot : Nat
  slot2 : Nat
  fpc : Nat
  info0 : Nat
  info1 : Nat
  iat : Nat
  defer : Bool
  sys : Bool
  sup : Bool
  deriving DecidableEq, Repr

/-- A result pair in flight (R177) with its events (R125) and the trap its landing raises. -/
structure Pair where
  cube : Cube
  x : Vec
  ev : Nat
  trap : Option Trap
  deriving DecidableEq, Repr

/-- A result in flight to a context register: when it lands, where, its pairs and write literal; `dead` once the literal has
landed false (R177). -/
structure Flight where
  id : Nat
  due : Nat
  cls : RCls
  reg : Nat
  pairs : List Pair
  w : Cube
  dead : Bool
  slot : Nat
  fpc : Nat
  iat : Nat
  sup : Bool
  deriving DecidableEq, Repr

/-- An operand of guard logic in flight (R191): a landed value, or a literal of an open guard. -/
structure GArg where
  known : Option Bool
  idx : Nat
  neg : Bool
  deriving DecidableEq, Repr

/-- The four ways a guard's landing value is formed: a comparison's value, and guard logic (R191). -/
inductive GOp where
  | value | and | or | not
  deriving DecidableEq, Repr

/-- An open instance of a guard (R174): the cycles it opened and lands, and how its value is formed. -/
structure GOpen where
  opened : Nat
  due : Nat
  op : GOp
  args : List GArg
  deriving DecidableEq, Repr

/-- A guard g1-g15: the value it landed with last, and its open instance, if any. -/
structure Guard where
  val : Bool
  opn : Option GOpen
  deriving DecidableEq, Repr

/-- An outstanding deferred branch (R39, R192): its literal, issue cycle and target, and once its guard has landed the
verdict and the effect cycle. -/
structure Brd where
  lit : Lit
  issued : Nat
  target : Nat
  fpc : Nat
  taken : Option Bool
  effect : Nat
  deriving DecidableEq, Repr

/-- A deferred-event entry (R189); `due` once its cube is true and its trap waits for ERET (R190), `kept` if R359 keeps it. -/
structure Deferred where
  cube : Cube
  ev : Nat
  trap : Option Trap
  due : Bool
  kept : Bool
  deriving DecidableEq, Repr

/-- One write of a store: physical address, bytes, value (little-endian). -/
structure Wr where
  addr : Nat
  len : Nat
  val : Nat
  deriving DecidableEq, Repr

/-- What a store does when it performs (R164, R165, R240, R305); a tap's write also performs so, with its tag (R234). -/
inductive SKind where
  | plain | row | lazy | control | tap
  deriving DecidableEq, Repr

/-- A store on its way: issued, or in the held-store buffer under a cube (R185), or released (R186); `ep` is the epoch of a
lazy store (R242), or the tag of a tap. It keeps the address, cycle and privilege of its instruction for a late fault (R359). -/
structure Store where
  id : Nat
  ctx : Nat
  slot : Nat
  fpc : Nat
  iat : Nat
  sup : Bool
  ord : Nat
  due : Nat
  kind : SKind
  ws : List Wr
  part : Nat
  task : Nat
  ep : Nat
  cube : Cube
  deriving DecidableEq, Repr

/-! ### Sequencing (04_progress.md) -/

/-- A register ring of a loop (R37). -/
structure Ring where
  cls : RCls
  base : Nat
  len : Nat
  deriving DecidableEq, Repr

/-- An open loop level (R83, R84): first body bundle, count, iteration, whether the count was zero, rings. -/
structure Loop where
  start : Nat
  count : Nat
  iter : Nat
  zero : Bool
  rings : List Ring
  deriving DecidableEq, Repr

/-- A transfer with delay bundles under way (R79): its target, the delay bundles left, and for ERET the privilege it returns to
(R88, R322): true for supervisor. -/
structure Xfer where
  target : Nat
  left : Nat
  eret : Option Bool
  deriving DecidableEq, Repr

/-- The state of a context (Table 04-3). -/
inductive CState where
  | free | holder | holding | waiting | blocked | ready | stopped
  deriving DecidableEq, Repr

/-- What a blocked bundle waits for (R87, R95, R97, R287, R290). -/
inductive BKind where
  | yield
  | send (tq : Nat)
  | recv (tq : Nat)
  | bar (key : Nat)
  | hring (part : Nat)
  | combine (key phase : Nat)
  deriving DecidableEq, Repr

/-- A blocked bundle: what it waits for, since which cycle, whether it can complete, and what its release gave it: a receive's
reserved entry, a barrier's release cycle, the events of a combine. -/
structure Block where
  kind : BKind
  since : Nat
  go : Bool
  entry : Option Nat
  poisoned : Bool
  deriving DecidableEq, Repr

/-- What a handler entry set aside, with the stop point at which it is restored (R84): levels, the bundles of their
bodies, a delayed transfer, a block whose barrier or combine phase has been released. -/
structure Aside where
  pc : Nat
  loops : List Loop
  body : List Nat
  xfer : Option Xfer
  block : Option Block
  deriving DecidableEq, Repr

/-- A wait inside WAITC or SCENE (R89, R90). -/
structure Wait where
  till : Nat
  scene : Bool
  deriving DecidableEq, Repr

/-- A port's parameter set (Table 06-11), with the latched record of its handle. -/
structure PortSet where
  base : Nat
  hv : Bool
  hnd : Nat
  hrec : Option (BitVec 512)
  cnt : List Nat
  str : List Int
  deriving DecidableEq, Repr

/-- A port (R36, R42, R168 to R171): set, PSET issue cycle, next pop, checker tag if on; `refetch` says that a restored port
fetches its first row again (R331). -/
structure Port where
  set : Option PortSet
  at_ : Nat
  pos : Nat
  check : Option Nat
  refetch : Bool
  deriving DecidableEq, Repr

/-- A bound window (Table 12-3, R231, R307). -/
structure Win where
  vbase : Nat
  size : Nat
  attr : Nat
  rq : Nat
  pbase : Nat
  sup : Bool
  deriving DecidableEq, Repr

/-- A BIND in flight (R231): the window, its new binding (none unbinds), and the fault of a failed walk. -/
structure BindFl where
  w : Nat
  due : Nat
  new : Option Win
  trap : Option Trap
  deriving DecidableEq, Repr

/-- An entry of the instruction translation buffer (R310). -/
structure ITEnt where
  page : Nat
  pa : Nat
  sup : Bool
  deriving DecidableEq, Repr

/-- The control part of a context: where it stands in its scene and on its core. `newBase` is the base that a SCENE has set for the
bundle that issues next (R90); `owns` says that a restored context owns the array from its first bundle on (R218). -/
structure Seq where
  st : CState
  part : Nat
  task : Nat
  pc : Nat
  npc : Nat
  base : Nat
  newBase : Option Nat
  lastrel : Nat
  srel : Nat
  slip : Bool
  scn : Nat
  span : Nat
  at_ : Nat
  sup : Bool
  away : Option Nat
  xfer : Option Xfer
  loops : List Loop
  body : List Nat
  aside : List Aside
  wait : Option Wait
  block : Option Block
  preT : Option Nat
  irq : Bool
  dbg : Bool
  parked : Bool
  yielded : Bool
  saving : Option Nat
  owns : Bool
  itlb : List ITEnt
  deriving DecidableEq, Repr

/-- The trap CSRs (R320) and the stop record (R360). -/
structure TrapRegs where
  tcause : Word
  tpc : Word
  tfpc : Word
  tinfo0 : Word
  tinfo1 : Word
  tscr0 : Word
  tscr1 : Word
  tscr2 : Word
  tscr3 : Word
  stopCause : Word
  stopPc : Word
  stopFpc : Word
  stopInfo0 : Word
  stopInfo1 : Word
  deriving DecidableEq, Repr

/-- The arithmetic CSRs of a context (R120, R136, R303). The events of cycle `evAt` are kept in `evNew` beside EV, for a CSRW of ASTAT
that lands in that cycle (R136): the model's own. -/
structure Arith where
  srkey : Word
  srctr : BitVec 48
  ev : BitVec 6
  evAt : Nat
  evNew : BitVec 6
  en : BitVec 6
  drops : BitVec 16
  c4 : Bool
  deriving DecidableEq, Repr

/-- A register that an uncorrectable error has poisoned (R338), under the condition under which no whole write has reached it since. -/
structure RegPoison where
  cls : RCls
  reg : Nat
  cube : Cube
  deriving DecidableEq, Repr

/-- A context of a core (R16). -/
structure Ctx where
  q : Seq
  ar : Arith
  tr : TrapRegs
  s : Assoc (List Take)
  v : Assoc (List Take)
  m : Assoc (List Take)
  g : Assoc Guard
  fl : List Flight
  brd : Option Brd
  ports : Assoc Port
  hnd : Assoc (BitVec 512)
  win : Assoc Win
  bind : Option BindFl
  held : List Store
  relq : List Store
  defer : List Deferred
  fault : Option Trap
  heldF : Option Trap
  pendF : List Trap
  poison : List RegPoison
  deriving DecidableEq, Repr

/-! ### The matrix array (08_matrix.md) -/

/-- One copy of a weight bank (R195, R200). -/
structure Copy where
  fmt : Option Nat
  valid : Bool
  expert : Nat
  cols : Assoc Vec
  scl : Assoc (BitVec 512)
  deriving DecidableEq, Repr

/-- A weight bank: its active and shadow copies, and the issue cycle of the last MSWAP that named it. -/
structure Bank where
  act : Copy
  shd : Copy
  swapAt : Option Nat
  deriving DecidableEq, Repr

/-- An accumulator tile (R206): rows of 256 FP32 elements, sticky events, LIVE, poison (R338). -/
structure Tile where
  rows : Assoc (BitVec 8192)
  ev : Nat
  live : Bool
  poison : Bool
  deriving DecidableEq, Repr

/-- A segment of a result queue with its status word (R209, R210). -/
structure Seg where
  data : Vec
  status : Nat
  deriving DecidableEq, Repr

/-- Rows streaming into the array: an MMUL (or its continuation) or an MGRAD. `x0` is the entry cycle of row `r0`. Like all
work below, it keeps the slot, address, cycle and privilege of its instruction for a late fault (R359). -/
structure Pass where
  id : Nat
  grad : Bool
  ctx : Nat
  slot : Nat
  fpc : Nat
  iat : Nat
  sup : Bool
  c4 : Bool
  port : Nat
  tile : Nat
  init : Bool
  n : Nat
  live : Nat
  bank : Nat
  tags : BitVec 512
  x0 : Nat
  r0 : Nat
  pops : List (Vec × BitVec 512)
  deriving DecidableEq, Repr

/-- A row that has entered and not landed (R203): its elements, scales, formats and bank copy. -/
structure RowFl where
  id : Nat
  row : Nat
  due : Nat
  tile : Nat
  init : Bool
  afmt : Nat
  a : Vec
  sa : BitVec 512
  w : Copy
  c4 : Bool
  deriving DecidableEq, Repr

/-- A weight fill on its way (R198). -/
structure Fill where
  id : Nat
  bank : Nat
  ctx : Nat
  slot : Nat
  fpc : Nat
  iat : Nat
  sup : Bool
  port : Nat
  fmt : Nat
  cols : Assoc Vec
  scl : Assoc (BitVec 512)
  deriving DecidableEq, Repr

/-- A drain on its way (R209, R211): what it reads, the band scales read so far, the segments made. -/
structure Drain where
  id : Nat
  ctx : Nat
  slot : Nat
  fpc : Nat
  iat : Nat
  sup : Bool
  c4 : Bool
  oq : Nat
  tile : Nat
  scale : Bool
  topk : Bool
  tree : Bool
  sbase : Nat
  n : Nat
  read : Nat
  scales : Assoc Vec
  segs : Assoc Seg
  fin : Nat
  deriving DecidableEq, Repr

/-- The tree of the tree mask (Table 08-7). -/
structure Tree where
  parent : List Nat
  n : Nat
  rb : Nat
  cb : Nat
  t : Nat
  deriving DecidableEq, Repr

/-- An entry of a running top-k list (R213). -/
structure Kept where
  v : BitVec 32
  i : Nat
  deriving DecidableEq, Repr

/-- A pending continuation (R204): the rows from `r0` of its pass on, and the stop point at which it begins, once chosen. -/
structure Cont where
  pass : Pass
  stop : Option Nat
  deriving DecidableEq, Repr

/-- The matrix array of a core (R196); `treeNew` holds the trees of MTREEs not yet applied, by number (R214); `conts` are the
pending continuations, in the order of their instructions (R204). -/
structure Arr where
  owner : Option Nat
  banks : Assoc Bank
  tiles : Assoc Tile
  oq : Assoc (List Seg)
  tagrec : BitVec 512
  lrec : Nat
  k : Nat
  ibase : Nat
  lists : Assoc (List Kept)
  tree : Tree
  treeNew : List (Nat × Tree)
  passes : List Pass
  rows : List RowFl
  fill : Option Fill
  drains : List Drain
  conts : List Cont
  deriving DecidableEq, Repr

/-! ### Copies, lazy stores, atomics, persistence (12_memory.md, 18_recovery.md) -/

/-- A copy in the buffer (R235): `left` counts the granules of its outside part that are not over, `back` those that its read has
returned (R238), `logged` says that an error of it is in the error log (R339). -/
structure CopyEnt where
  id : Nat
  seq : Nat
  ctx : Nat
  slot : Nat
  fpc : Nat
  iat : Nat
  sup : Bool
  part : Nat
  task : Nat
  start : Nat
  arrive : Nat
  src : Nat
  dst : Nat
  len : Nat
  tag : Nat
  data : Nat
  poison : List Nat
  left : Nat
  back : Nat
  logged : Bool
  deriving DecidableEq, Repr

/-- An entry of the lazy buffer (R241): a granule, its byte mask and bytes, its epoch, the issue cycle of its first and of its
last store, and the cycle it drains. -/
structure LazyEnt where
  id : Nat
  gran : Nat
  mask : Nat
  data : Nat
  epoch : Nat
  first : Nat
  last : Nat
  due : Nat
  deriving DecidableEq, Repr

/-- An atomic on its way (R244 to R246). -/
structure AtomFl where
  id : Nat
  seq : Nat
  ctx : Nat
  slot : Nat
  fpc : Nat
  iat : Nat
  sup : Bool
  part : Nat
  task : Nat
  op : Nat
  wide : Bool
  sd : Nat
  addr : Nat
  b : Nat
  cmp : Nat
  rq : Nat
  due : Nat
  host : Bool
  deriving DecidableEq, Repr

/-- A request of a queue or serving engine on its way: XSLOT, PKEY, PLOOK, ACCEPT (R202, R276, R278, R280), or the row reads of a COMBINE
that arrives after its phase's release, whose `reg` is 64 (R290). `sub` is the subcode of the poison fault of a row read. -/
structure Job where
  id : Nat
  ctx : Nat
  slot : Nat
  fpc : Nat
  iat : Nat
  sup : Bool
  part : Nat
  reg : Nat
  rel : Bool
  a : Nat
  b : Nat
  rows : List Vec
  poison : Bool
  sub : Nat
  deriving DecidableEq, Repr

/-- A flush on the flush path (R247): its first persist cycle and its captured granules (scratchpad granule number, data, tag,
poison). -/
structure Flush where
  id : Nat
  iat : Nat
  p0 : Nat
  grans : List (Nat × BitVec 512 × Nat × Bool)
  deriving DecidableEq, Repr

/-- What a context record keeps (Table 18-8): the context as it stands at its stop point, all transient work left out. -/
structure Payload where
  ctx : Ctx
  resume : Nat
  taskid : Nat
  deriving DecidableEq, Repr

/-- The matrix area of a core's share (R218, R330): what it holds, the record it was written for (context and SEQ), and whether it
is whole as it stands. -/
structure MatSave where
  arr : Arr
  ctx : Nat
  seq : Nat
  whole : Bool
  deriving DecidableEq, Repr

/-- A record slot of the negative (R328): the header fields of Table 18-7, and the payload as it stands. `torn` says that the
payload bytes as they stand no longer match CRC. -/
structure Rec where
  magic : Bool
  kind : Nat
  ctx : Nat
  seq : Nat
  len : Nat
  crc : BitVec 32
  scn : Nat
  srel : Nat
  taskid : Nat
  mlen : Nat
  mcrc : BitVec 32
  torn : Bool
  pay : Option Payload
  deriving DecidableEq, Repr

/-- A record being written on the shadow path (R249, R330, R346): the cycles in which its matrix state and its payload begin and its
header is written, and the cycle of its PSAVE or stop; its slot and SEQ, once its payload has begun. -/
structure Save where
  id : Nat
  ctx : Nat
  kind : Nat
  iat : Nat
  from_ : Nat
  start : Nat
  header : Nat
  slot : Option (Nat × Nat)
  pay : Payload
  mat : Option Arr
  mlen : Nat
  deriving DecidableEq, Repr

/-- A queue state slot (R337): the header's SEQ and CRC, and its payload: head place and count of the receivable entries and of the
inbound hold, the poison bits of the entry places and of the hold places. Its KIND is 4 and its LEN 64. -/
structure QRec where
  seq : Nat
  crc : BitVec 32
  head : Nat
  count : Nat
  hhead : Nat
  hcount : Nat
  pois : Nat
  hpois : Nat
  torn : Bool
  deriving DecidableEq, Repr

/-- A core's share of the negative (R327, Table 18-6): record slots (2 × context + slot); the queue state slots, entry places and
hold places of queue (n mod 64) of the die; the flush mirror (granule number to data, tag, poison); the matrix area. -/
structure Negative where
  recs : Assoc Rec
  qrecs : Assoc QRec
  qents : Assoc (BitVec 512)
  qholds : Assoc (BitVec 512)
  mat : Option MatSave
  mirror : Assoc (BitVec 512 × Nat × Bool)
  deriving DecidableEq, Repr

/-- A requester of a bank in the present cycle (R22, R167): bank, row, who (Table 18-1's numbering), issue cycle. -/
structure Req where
  bank : Nat
  row : Nat
  who : Nat
  iat : Nat
  deriving DecidableEq, Repr

/-- A core (R16): its contexts, array, copy engine, lazy buffer with the fences that name it (issue cycle and bound, R243), and
persist paths; `fence` is the last persist that its later persists wait for (R264), `fenceAt` the cycle and scope of the PFENCEs
whose cycle is not over (R248); `again` is the last cycle in which its holder could issue again when the core's turn had passed
(R93), the model's own; `gateReq` says that the power controller has asked to gate it, `gateCtx` names the contexts a gate
saved (R333). -/
structure Core where
  holder : Nat
  again : Option Nat
  switchTo : Option Nat
  ctxs : Assoc Ctx
  arr : Arr
  reqAt : Nat
  reqs : List Req
  stores : List Store
  copies : List CopyEnt
  copySeq : Nat
  busyA : Nat
  busyH : Nat
  busyD : Nat
  atomSeq : Nat
  atoms : List AtomFl
  lazy : List LazyEnt
  epoch : Nat
  fx : List (Nat × Nat)
  jobs : List Job
  flushes : List Flush
  flushFree : Nat
  fence : Nat
  fenceAt : List (Nat × Nat)
  saves : List Save
  shadowFree : Nat
  neg : Negative
  up : Bool
  gated : Bool
  gateReq : Bool
  gateCtx : List Nat
  idleAt : Nat
  deriving DecidableEq, Repr

/-! ### Dies: token queues, reel, slot table, page directory, error log -/

/-- A token-queue entry (R95, R239): 64 bytes, poison, the waiting receiver it is reserved for (core × 4 + context). -/
structure TqEnt where
  id : Nat
  data : BitVec 512
  poison : Bool
  resv : Option Nat
  deriving DecidableEq, Repr

/-- An entry on its way into a queue: sent at issue and receivable later, or in the inbound hold, or early from outside; `copy` names
the core and the copy whose read it answers (R238). -/
structure TqIn where
  id : Nat
  data : BitVec 512
  poison : Bool
  since : Nat
  src : Nat
  seq : Nat
  copy : Option (Nat × Nat)
  deriving DecidableEq, Repr

/-- A change of a queue on its way to the shadow (R265, R337), made in cycle `at_`: the queue's entries and inbound hold as it left
them, their head places, and the numbers of the entries that joined in that cycle; `change` says that a state record follows, which an entry that only joins the hold does not cause. -/
structure TqChg where
  id : Nat
  at_ : Nat
  ents : List TqEnt
  hold : List TqIn
  head : Nat
  hhead : Nat
  new : List Nat
  change : Bool
  deriving DecidableEq, Repr

/-- A token queue (R95, R96, R239): receivable entries, sent entries with a place, freed places not yet given, waiting
receivers and senders with the cycle they blocked, the inbound hold, early entries, next number of each outside source,
sources seen, changes not yet in its shadow, and the head places of its entries and of its hold (R337). -/
structure Tq where
  ents : List TqEnt
  sent : List TqIn
  busy : Nat
  recvs : List (Nat × Nat)
  sends : List (Nat × Nat)
  hold : List TqIn
  early : List TqIn
  next : Assoc Nat
  srcs : List Nat
  chg : List TqChg
  head : Nat
  hhead : Nat
  deriving DecidableEq, Repr

/-- A flit on a reel lane (R24, R233). -/
structure Flit where
  id : Nat
  lane : Nat
  stop : Nat
  enter : Nat
  core : Nat
  part : Nat
  data : Vec
  deriving DecidableEq, Repr

/-- An expert slot (Table 08-1). -/
structure Slot where
  expert : BitVec 32
  refs : Nat
  use : Bool
  part : Nat
  deriving DecidableEq, Repr

/-- A page-directory entry (Table 15-4). -/
structure PEnt where
  key : BitVec 128
  page : BitVec 48
  valid : Bool
  part : Nat
  deriving DecidableEq, Repr

/-- A compute die; `dark` until its queues are rebuilt after a loss of its rail (R337). -/
structure Die where
  tqs : Assoc Tq
  flits : List Flit
  slots : Assoc Slot
  hand : Nat
  evicted : List (Nat × Nat × Nat)
  pdir : Assoc PEnt
  elog : Assoc (BitVec 256)
  elogCnt : Nat
  up : Bool
  dark : Bool
  deriving DecidableEq, Repr

/-! ### The scheduler and the engines of the package -/

/-- A scheduler queue (R101 to R108). -/
structure SQ where
  prio : Nat
  en : Bool
  part : Nat
  size : Nat
  base : Nat
  head : Nat
  tail : Nat
  eprio : Nat
  pass : Nat
  err : Bool
  code : Nat
  mask : BitVec 512
  bells : List (Nat × Nat)
  since : Option Nat
  back : List Nat
  deriving DecidableEq, Repr

/-- Where a task stands: running, being stopped by a pre-emption or for a recovery, saved, waiting to be resumed by recovery, or
ended by TKILL. -/
inductive TState where
  | running | saving | saved | recovering | lost | killed
  deriving DecidableEq, Repr

/-- A task that has been launched and has not completed (R99, R105): its gang (`place`: core and context), the cores that have
triggered and halted, its last perform, its outstanding outside work. A stop request: T' and the cycle of its delivery (R109), the
cores saved; the stop key of a recovery and the dies whose rail was lost (R334). `wins` are the windows that its halted contexts had
bound, which stay pinned until it ends (R231). -/
structure Task where
  id : Nat
  q : Nat
  part : Nat
  taskid : Nat
  desc : BitVec 512
  kdesc : BitVec 512
  place : List (Nat × Nat)
  trig : List Nat
  halted : List Nat
  last : Nat
  open_ : Nat
  st : TState
  trigDone : Bool
  pre : Option (Nat × Nat)
  parked : List Nat
  key : Option (Nat × Nat)
  dark : List Nat
  wins : List Win
  deriving DecidableEq, Repr

/-- The state of a completion-table entry (R107). -/
inductive CompSt where
  | launched | triggered | complete
  deriving DecidableEq, Repr

/-- A barrier instance with arrivals in its open phase (R97, R98): N of the first arrival, the arrivals (core × 4 + context),
poisoned arrivals, and the closed phases not yet released: release cycle, participants, poison. -/
structure Barrier where
  n : Nat
  arr : List Nat
  pois : Nat
  rel : List (Nat × List Nat × Bool)
  deriving DecidableEq, Repr

/-- An arrival of a combine phase (R290): who (core × 4 + context; 2048 for POISONARR), index, rows 1 and 2, W, DROP, and its
block's scratchpad offset. -/
structure CArr where
  who : Nat
  index : Nat
  rows : List Vec
  w : BitVec 32
  drop : Bool
  rn : Bool
  off : Nat
  late : Bool
  poison : Bool
  bad : Bool
  deriving DecidableEq, Repr

/-- An open combine phase (R290). -/
structure Combine where
  phase : Nat
  n : Nat
  k : Nat
  sum : Bool
  a0 : Nat
  closed : Option Nat
  rel : Nat
  degraded : Bool
  arrs : List CArr
  deriving DecidableEq, Repr

/-- The command graph of a partition (R284, R285): base, GTID, GSTAT (`node` executes or has executed last), the node that executes
next and its cycle, the task each LAUNCH node launched last, those of them that have completed, and how often each COND node was
taken. -/
structure Graph where
  base : Nat
  gtid : Nat
  st : Nat
  node : Nat
  err : Nat
  next : Nat
  due : Nat
  last : Assoc Nat
  ended : List Nat
  taken : Assoc Nat
  deriving DecidableEq, Repr

/-- A post of a host ring on its way (R287). -/
structure Post where
  id : Nat
  seqid : Nat
  slot : BitVec 256
  due : Nat
  exit : Bool
  deriving DecidableEq, Repr

/-- The host ring of a partition (R286 to R288); `now` says that a slot that departed in this cycle asks for the interrupt. -/
structure HRing where
  base : Nat
  size : Nat
  en : Bool
  vec : Nat
  tail : Nat
  head : Nat
  pos : Assoc Nat
  posts : List Post
  unsig : Nat
  first : Nat
  now : Bool
  deriving DecidableEq, Repr

/-- A message that leaves the package: departure key (R266), target (0 the host, else package + 1), and what it is. -/
inductive Msg where
  | write (addr : Nat) (len : Nat) (data : Nat) (seq : Nat) (gran : Nat) (poison : Bool)
  | read (addr : Nat) (len : Nat) (seq : Nat)
  | atomic (addr : Nat) (op : Nat) (wide : Bool) (b cmp : Nat) (seq : Nat)
  | msix (vec : Nat)
  | queueReset (die q : Nat)
  | unsupported (addr : Nat)
  | answer (data : Nat)
  deriving DecidableEq, Repr

/-- A message with its cycle, departure key, target, and the Ziesh link it was sent on; the link goes from one that a link-down has
lost (R354). -/
structure Out where
  cyc : Nat
  key : List Nat
  target : Nat
  link : Option Nat
  msg : Msg
  deriving DecidableEq, Repr

/-- An access to the control space: who makes it (0 to 15 a supervisor, 16 the host, 17 the package's own measurement, 18 the
loader), and of a supervisor its context (4 × core + context), control offset, value, whether it writes, its length in bytes. -/
structure CtlAcc where
  who : Nat
  src : Nat
  off : Nat
  val : Nat
  wr : Bool
  len : Nat
  deriving DecidableEq, Repr

/-- A calendar entry: cycle, phase and order within the phase, and the event row that falls due; an event of the control
space carries its access. -/
structure Entry where
  at_ : Nat
  ph : Nat
  k1 : Nat
  k2 : Nat
  k3 : Nat
  ev : Instr
  cw : CtlAcc
  deriving DecidableEq, Repr

/-- A zeroing under way (R299): unit (0 core, 1 ring store, 2 token queue), its number, first and last-plus-one cycle. -/
structure Zeroing where
  unit : Nat
  idx : Nat
  from_ : Nat
  till : Nat
  deriving DecidableEq, Repr

/-- The issue cursor of the step: the context whose bundle is being issued, the slot, the bundle's pc and header, how many of
its words are not NOP, and what the instructions of the bundle have raised so far. The model's own. -/
structure Iss where
  core : Nat
  ctx : Nat
  slot : Nat
  pc : Nat
  hdr : Header
  count : Nat
  fault : Option Trap
  hold : Bool
  block : Option BKind
  tw : Bool
  post : Option Trap
  deriving DecidableEq, Repr

/-- Memory with its tags and poison, as it stood when the accesses from outside the package began in this cycle (R227). The model's own. -/
structure Seen where
  mem : List Host.Cell
  tags : Assoc Nat
  pois : List Nat
  rpois : List Nat
  deriving DecidableEq, Repr

/-- The state of the package. `wait` holds the requests that wait for their turn in the order of departure keys (R266), `rpois` the
granules that a restore has poisoned (Table 18-1, 0x0C SUB 2), `rot` the rings of LOOP instructions by partition and address
(R37), `oseq` the number of the next entry to each queue of another package (R239, R355), `ext` the half-written digests of EXT by
partition and writer (R315), `remap` says that traffic to the pod waits to be remapped (R354), `seen` what a bundle reads that an entry
from outside lets issue in this cycle (R93, R227). -/
structure State where
  cyc : Nat
  ph : Nat
  seqNo : Nat
  iss : Iss
  cw : CtlAcc
  cal : List Entry
  inputs : List Entry
  out : List Out
  wait : List Out
  readVal : Nat
  mem : List Host.Cell
  tags : Assoc Nat
  pois : List Nat
  rpois : List Nat
  cores : Assoc Core
  dies : Assoc Die
  ctl : Assoc Word
  meas : Assoc (BitVec 512)
  ext : Assoc (BitVec 512)
  rot : Assoc (List Ring)
  sq : Assoc SQ
  tasks : List Task
  comp : Assoc (Nat × CompSt)
  banks : Assoc Nat
  bars : Assoc Barrier
  combs : Assoc Combine
  graphs : Assoc Graph
  rings : Assoc HRing
  zero : List Zeroing
  revoked : Assoc Nat
  quote : Option (BitVec 512)
  oseq : Assoc Nat
  remap : Bool
  seen : Option Seen
  free : Nat
  deriving DecidableEq, Repr

/-- Why the machine stops with a fault. `unmapped`: raised by the step when the scheduler is to read the head of an enabled queue
at an address that lies in no region of Table 12-2 (R108, R228); no program raises it, since every access of a program is checked
against its windows first. Safe: the model stops where the manual gives no value. -/
inductive Fault where
  | unmapped (addr : Nat)
  deriving DecidableEq, Repr

/-- Why the machine refuses an instruction. `notModelled`: raised by an arm of `exec` whose instruction has no meaning yet, under its
mnemonic; in this model no arm raises it. Safe: nothing is claimed of such an instruction. -/
inductive Refusal where
  | notModelled (mnemonic : String)
  deriving DecidableEq, Repr

/-! ### Reset -/

/-- The condition that is always true. -/
def Cube.tt : Cube := ⟨0, 0⟩

/-- A guard at launch and reset: landed false (R100). -/
def Guard.reset : Guard := ⟨false, none⟩

def Seq.reset : Seq :=
  { st := .free, part := 0, task := 0, pc := 0, npc := 0, base := 0, newBase := none, lastrel := 0, srel := 0, slip := false, scn := 0,
    span := 0, at_ := 0, sup := false, away := none, xfer := none, loops := [], body := [], aside := [], wait := none,
    block := none, preT := none, irq := false, dbg := false, parked := false, yielded := false,
    saving := none, owns := false, itlb := [] }

def TrapRegs.reset : TrapRegs :=
  { tcause := 0, tpc := 0, tfpc := 0, tinfo0 := 0, tinfo1 := 0, tscr0 := 0, tscr1 := 0, tscr2 := 0, tscr3 := 0,
    stopCause := 0, stopPc := 0, stopFpc := 0, stopInfo0 := 0, stopInfo1 := 0 }

def Arith.reset : Arith := { srkey := 0, srctr := 0, ev := 0, evAt := 0, evNew := 0, en := 0, drops := 0, c4 := false }

def Ctx.reset : Ctx :=
  { q := Seq.reset, ar := Arith.reset, tr := TrapRegs.reset, s := [], v := [], m := [], g := [], fl := [], brd := none,
    ports := [], hnd := [], win := [], bind := none, held := [], relq := [], defer := [], fault := none,
    heldF := none, pendF := [], poison := [] }

/-- A port with no parameter set and its checker off (R100). -/
def Port.reset : Port := { set := none, at_ := 0, pos := 0, check := none, refetch := false }

/-- A bank copy after reset: format none, elements 0, scales 0x60 (R195). -/
def Copy.reset : Copy := { fmt := none, valid := false, expert := 0, cols := [], scl := [] }

def Bank.reset : Bank := { act := Copy.reset, shd := Copy.reset, swapAt := none }

def Tile.reset : Tile := { rows := [], ev := 0, live := false, poison := false }

/-- The tree of a zeroed array (Table 17-4). -/
def Tree.reset : Tree := { parent := [0xFF], n := 1, rb := 0, cb := 0, t := 0 }

def Arr.reset : Arr :=
  { owner := none, banks := [], tiles := [], oq := [], tagrec := 0, lrec := 0, k := 1, ibase := 0, lists := [],
    tree := Tree.reset, treeNew := [], passes := [], rows := [], fill := none, drains := [], conts := [] }

def Negative.reset : Negative := { recs := [], qrecs := [], qents := [], qholds := [], mat := none, mirror := [] }

def Core.reset : Core :=
  { holder := 0, again := none, switchTo := none, ctxs := [], arr := Arr.reset, reqAt := 0, reqs := [], stores := [],
    copies := [], copySeq := 0, busyA := 0, busyH := 0, busyD := 0, atomSeq := 0, atoms := [], lazy := [], epoch := 0,
    fx := [], jobs := [], flushes := [], flushFree := 0, fence := 0, fenceAt := [], saves := [], shadowFree := 0, neg := Negative.reset, up := true,
    gated := false, gateReq := false, gateCtx := [], idleAt := 0 }

def Tq.reset : Tq :=
  { ents := [], sent := [], busy := 0, recvs := [], sends := [], hold := [], early := [], next := [], srcs := [],
    chg := [], head := 0, hhead := 0 }

/-- An empty expert slot (Table 08-1). -/
def Slot.reset : Slot := { expert := 0xFFFFFFFF, refs := 0, use := false, part := 0 }

def PEnt.reset : PEnt := { key := 0, page := 0, valid := false, part := 0 }

def Die.reset : Die :=
  { tqs := [], flits := [], slots := [], hand := 0, evicted := [], pdir := [], elog := [], elogCnt := 0, up := true,
    dark := false }

def SQ.reset : SQ :=
  { prio := 0, en := false, part := 0, size := 0, base := 0, head := 0, tail := 0, eprio := 0, pass := 0, err := false,
    code := 0, mask := 0, bells := [], since := none, back := [] }

def Barrier.reset : Barrier := { n := 0, arr := [], pois := 0, rel := [] }

def Graph.reset : Graph := { base := 0, gtid := 0, st := 0, node := 0, err := 0, next := 0, due := 0, last := [], ended := [], taken := [] }

def HRing.reset : HRing :=
  { base := 0, size := 0, en := false, vec := 0, tail := 0, head := 0, pos := [], posts := [], unsig := 0, first := 0, now := false }

def CtlAcc.reset : CtlAcc := { who := 16, src := 0, off := 0, val := 0, wr := false, len := 8 }

def Iss.reset : Iss :=
  { core := 0, ctx := 0, slot := 0, pc := 0, hdr := ⟨false, false, 0, 0⟩, count := 0, fault := none, hold := false, block := none,
    tw := false, post := none }

/-- The package right after reset (R28, R100, R356 and the Reset columns of the register maps): every context Free, every
queue disabled, no task, memory with nothing listed. Values no rule gives are those of logs 1 to 5. -/
def State.reset : State :=
  { cyc := 0, ph := 0, seqNo := 0, iss := Iss.reset, cw := CtlAcc.reset, cal := [], inputs := [], out := [], wait := [], readVal := 0,
    mem := [], tags := [], pois := [], rpois := [], cores := [], dies := [], ctl := [(0xA060, 0x06E0)], meas := [], ext := [], rot := [], sq := [],
    tasks := [], comp := [], banks := [], bars := [], combs := [], graphs := [], rings := [], zero := [], revoked := [],
    quote := none, oseq := [], remap := false, seen := none, free := 0 }

end Sys2Proof.Machine
end

