-- ==== Sys2Proof/Machine/Ops.lean ====
section
/-! DEFINITION. The named operations over the state: units, memory, the calendar, cubes and takes, contexts and switching, and
taking a fault. Meanings are written with these. -/

namespace Sys2Proof.Machine

/-! ### Phases of a cycle -/

/-- Guards land (R176 steps 1 to 3). -/
def phGuard : Nat := 100
/-- Held stores are released (R186). -/
def phRelease : Nat := 200
/-- Results land (R176 step 4), bindings take effect (R231). -/
def phLand : Nat := 300
/-- A full lazy buffer makes room for the stores that enter it in the cycle (R241). -/
def phRoom : Nat := 390
/-- Writes, deliveries and atomics perform (R227). -/
def phWrite : Nat := 400
/-- Queue entries, freed places, barrier and combine releases (R96, R97). -/
def phQueue : Nat := 500
/-- The array's landings and reads, slot-table requests, copy starts, persists (R204, R209, R235). -/
def phArray : Nat := 600
/-- After the bundles of the cycle: a result queue that holds too much is found (R210), flits leave (R24). -/
def phSeg : Nat := 1900
/-- Waits end, contexts switch, stop and enter handlers. -/
def phCtx : Nat := 700
/-- Bundles issue: core k at phIssue + k. -/
def phIssue : Nat := 1000
/-- Accesses from outside the package (R227 rule 1). -/
def phOut : Nat := 2000
/-- The scheduler, the graph engines and the power controller. -/
def phSched : Nat := 3000

/-! ### Units -/

abbrev State.core (s : State) (n : Nat) : Core := agetD s.cores n Core.reset
abbrev State.die (s : State) (d : Nat) : Die := agetD s.dies d Die.reset
abbrev Core.ctx (c : Core) (k : Nat) : Ctx := agetD c.ctxs k Ctx.reset
abbrev State.ctx (s : State) (n k : Nat) : Ctx := (s.core n).ctx k

abbrev State.setCore (s : State) (n : Nat) (c : Core) : State := { s with cores := aset s.cores n c }
abbrev State.setDie (s : State) (d : Nat) (x : Die) : State := { s with dies := aset s.dies d x }
abbrev Core.setCtx (c : Core) (k : Nat) (x : Ctx) : Core := { c with ctxs := aset c.ctxs k x }
abbrev State.setCtx (s : State) (n k : Nat) (x : Ctx) : State := s.setCore n ((s.core n).setCtx k x)

abbrev State.modCore (s : State) (n : Nat) (f : Core → Core) : State := s.setCore n (f (s.core n))
abbrev State.modCtx (s : State) (n k : Nat) (f : Ctx → Ctx) : State := s.setCtx n k (f (s.ctx n k))
abbrev State.modDie (s : State) (d : Nat) (f : Die → Die) : State := s.setDie d (f (s.die d))
abbrev State.modSeq (s : State) (n k : Nat) (f : Seq → Seq) : State := s.modCtx n k fun x => { x with q := f x.q }
abbrev State.modArr (s : State) (n : Nat) (f : Arr → Arr) : State := s.modCore n fun c => { c with arr := f c.arr }

/-- The context whose bundle is being issued. -/
abbrev State.me (s : State) : Ctx := s.ctx s.iss.core s.iss.ctx
abbrev State.setMe (s : State) (x : Ctx) : State := s.setCtx s.iss.core s.iss.ctx x
abbrev State.modMe (s : State) (f : Ctx → Ctx) : State := s.setMe (f s.me)
abbrev State.myCore (s : State) : Core := s.core s.iss.core
abbrev State.modMyCore (s : State) (f : Core → Core) : State := s.modCore s.iss.core f

/-- The die of a core (R14). -/
def dieOf (core : Nat) : Nat := core / 64

/-- A fresh number for pending work; numbers rise in the order work is made. -/
abbrev State.fresh (s : State) : State := { s with seqNo := s.seqNo + 1 }

/-! ### The calendar -/

/-- Whether entry `a` comes no later than `b` in the order of the calendar. -/
def Entry.le (a b : Entry) : Bool :=
  a.at_ < b.at_ || (a.at_ == b.at_ && (a.ph < b.ph || (a.ph == b.ph && (a.k1 < b.k1 || (a.k1 == b.k1 &&
    (a.k2 < b.k2 || (a.k2 == b.k2 && a.k3 ≤ b.k3)))))))

/-- Insert an entry behind every entry that does not come later. -/
def calInsert (e : Entry) : List Entry → List Entry
  | [] => [e]
  | x :: r => if x.le e then x :: calInsert e r else e :: x :: r

/-- Put an event into the calendar: cycle, phase, core order, slot order, issue order. -/
def State.sched (s : State) (at_ ph k1 k2 k3 : Nat) (ev : Instr) : State :=
  { s with cal := calInsert ⟨at_, ph, k1, k2, k3, ev, CtlAcc.reset⟩ s.cal }

/-- Put a control-space access into the calendar. -/
def State.schedCtl (s : State) (at_ ph k1 k2 k3 : Nat) (ev : Instr) (a : CtlAcc) : State :=
  { s with cal := calInsert ⟨at_, ph, k1, k2, k3, ev, a⟩ s.cal }

/-! ### Memory (R5, R226)

A byte that no entry lists reads as 0 (log 2). -/

/-- One byte. -/
def memByte : List Host.Cell → Nat → Byte
  | [], _ => 0
  | (k, b) :: r, a => if a = k then b else if a < k then 0 else memByte r a

/-- The bytes of an `n`-byte value at `a` that are not 0. -/
def cellsOf (a n v : Nat) : List Host.Cell :=
  (List.range n).filterMap fun i =>
    let b : Byte := BitVec.ofNat 8 (v / 2 ^ (8 * i))
    if b = 0 then none else some (a + i, b)

/-- The `n` bytes at `a`, as a little-endian number. -/
def memLoad (m : List Host.Cell) (a n : Nat) : Nat :=
  (m.filter fun c => a ≤ c.1 && c.1 < a + n).foldl (fun acc c => acc + c.2.toNat * 2 ^ (8 * (c.1 - a))) 0

/-- Write the `n`-byte value `v` at `a`. -/
def memStore (m : List Host.Cell) (a n v : Nat) : List Host.Cell :=
  m.filter (fun c => c.1 < a) ++ cellsOf a n v ++ m.filter (fun c => a + n ≤ c.1)

/-- The canonical form of memory: addresses strictly rising, no byte listed that reads as an unlisted one does. -/
abbrev Memory.wf (m : List Host.Cell) : Prop := m.Pairwise (fun a b => a.1 < b.1) ∧ ∀ c ∈ m, c.2 ≠ 0

abbrev State.load (s : State) (a n : Nat) : Nat := memLoad s.mem a n
abbrev State.store (s : State) (a n v : Nat) : State := { s with mem := memStore s.mem a n v }

/-- Physical base of core `n`'s scratchpad (Table 12-2). -/
def spad (n : Nat) : Nat := 0x080000000000 + n * 0x400000

/-- Granule number of a physical address. -/
def granOf (a : Nat) : Nat := a / 64

/-- Whether an `n`-byte access at `a` touches a poisoned granule (R251). -/
def State.poisoned (s : State) (a n : Nat) : Bool :=
  s.pois.any fun g => a / 64 ≤ g && g ≤ (a + n - 1) / 64

/-- The first poisoned granule address an access touches, or the access's own granule. -/
def State.poisonAddr (s : State) (a n : Nat) : Nat :=
  match s.pois.find? fun g => a / 64 ≤ g && g ≤ (a + n - 1) / 64 with
  | some g => g * 64
  | none => a / 64 * 64

/-- Insert into a sorted list of granules. -/
def poisInsert (g : Nat) : List Nat → List Nat
  | [] => [g]
  | x :: r => if g < x then g :: x :: r else if g = x then x :: r else x :: poisInsert g r

/-- Set or clear the poison of a granule; the list of poisoned granules stays sorted. It is then no longer one that a restore has
poisoned. -/
def State.setPoison (s : State) (g : Nat) (b : Bool) : State :=
  { s with pois := if b then poisInsert g s.pois else s.pois.filter (· ≠ g), rpois := s.rpois.filter (· ≠ g) }

/-- A restore poisons a granule (R319, R335). -/
def State.restorePoison (s : State) (g : Nat) : State :=
  let s := s.setPoison g true
  { s with rpois := poisInsert g s.rpois }

/-- The sequence tag of a granule (R23); 0 where none was delivered (R232). -/
abbrev State.tag (s : State) (g : Nat) : Nat := agetD s.tags g 0
def State.setTag (s : State) (g t : Nat) : State := { s with tags := if t = 0 then adel s.tags g else aset s.tags g t }

/-- Whether an address lies in a core's scratchpad. -/
def isSpad (a : Nat) : Bool := 0x080000000000 ≤ a && a < 0x080080000000

/-- A whole-granule delivery of 64 bytes: data, poison, and in scratchpad the tag (R232). -/
def State.deliver (s : State) (a data tag : Nat) (poison : Bool) : State :=
  let s := (s.store a 64 data).setPoison (granOf a) poison
  if isSpad a then s.setTag (granOf a) tag else s

/-- Deliver `n` granules from `a` on, with one tag; `bad` names the granule indexes that are poisoned. -/
def deliverAll (a data tag : Nat) (bad : List Nat) : Nat → State → State
  | 0, s => s
  | n + 1, s =>
    (deliverAll a data tag bad n s).deliver (a + 64 * n) (data / 2 ^ (512 * n) % 2 ^ 512) tag (bad.contains n)

/-! ### Conditions (R174) -/

/-- The conjunction of two cubes, if it is satisfiable. -/
def Cube.conj (a b : Cube) : Option Cube :=
  if a.care &&& b.care &&& (a.val ^^^ b.val) = 0 then some ⟨a.care ||| b.care, a.val ||| b.val⟩ else none

abbrev Cube.isTrue (k : Cube) : Bool := k.care == 0

/-- The bit of guard `i` (1 to 15). -/
def gbit (i : Nat) : BitVec 15 := BitVec.ofNat 15 (2 ^ (i - 1))

/-- The cube of a literal of an open guard. -/
def Cube.lit (i : Nat) (neg : Bool) : Cube := ⟨gbit i, if neg then 0 else gbit i⟩

/-- The landing of guard `i` with value `b` (R176 step 2): none if the cube vanishes. -/
def Cube.land (k : Cube) (i : Nat) (b : Bool) : Option Cube :=
  if k.care &&& gbit i = 0 then some k
  else if (k.val &&& gbit i != 0) = b then some ⟨k.care &&& ~~~ gbit i, k.val &&& ~~~ gbit i⟩
  else none

/-- The disjoint pieces of the complement of `w` (R177), over the guards with bits `i`, `i + 1`, … for `n` guards, where
`pre` collects the literals of the earlier ones. -/
def complementFrom (w pre : Cube) (i : Nat) : Nat → List Cube
  | 0 => []
  | n + 1 =>
    if w.care &&& gbit i = 0 then complementFrom w pre (i + 1) n
    else
      ⟨pre.care ||| gbit i, pre.val ||| (~~~ w.val &&& gbit i)⟩ ::
        complementFrom w ⟨pre.care ||| gbit i, pre.val ||| (w.val &&& gbit i)⟩ (i + 1) n

/-- `Complement(w)` of R177. -/
def Cube.complement (w : Cube) : List Cube := complementFrom w Cube.tt 1 15

/-- The takes of a register after a write lands (R177). -/
def landWrite (old : List Take) (new : List (Cube × Vec)) (w : Cube) : List Take :=
  new.filterMap (fun p => (p.1.conj w).map fun k => ⟨k, p.2⟩) ++
  w.complement.flatMap fun piece => old.filterMap fun t => (t.cube.conj piece).map fun k => ⟨k, t.x⟩

/-- A register that holds one value. -/
abbrev oneTake (x : Vec) : List Take := [⟨Cube.tt, x⟩]

/-! ### Reading registers (R18, R19) -/

/-- All lanes enabled: what a mask register holds at launch (R100). -/
def maskOnes : Vec := BitVec.ofNat 2048 (2 ^ 512 - 1)

/-- The takes of a physical register; s0 reads zero. -/
def Ctx.takes (x : Ctx) : RCls → Nat → List Take
  | .s, 0 => oneTake 0
  | .s, r => agetD x.s r (oneTake 0)
  | .v, r => agetD x.v r (oneTake 0)
  | .m, r => agetD x.m r (oneTake maskOnes)
  | .csr, _ => oneTake 0
  | .hnd, _ => oneTake 0

/-- Replace the takes of a physical register; writes to s0 are discarded (R19). -/
def Ctx.setTakes (x : Ctx) (c : RCls) (r : Nat) (t : List Take) : Ctx :=
  match c with
  | .s => if r = 0 then x else { x with s := aset x.s r t }
  | .v => { x with v := aset x.v r t }
  | .m => { x with m := aset x.m r t }
  | .csr => x
  | .hnd => x

/-- The ring of an open level that holds register `r` of class `c`: where several do, that of the innermost level, and of two of one
level the first declared (R37 does not say; log 20). -/
def findRing (c : RCls) (r : Nat) : List Loop → Option Ring
  | [] => none
  | l :: ls =>
    match l.rings.find? fun g => g.cls = c ∧ g.base ≤ r ∧ r < g.base + g.len with
    | some g => some g
    | none => findRing c r ls

/-- The physical register that a field naming `r` selects (R37): a register of a ring rotates with the iteration of the
innermost open level. The innermost level is the head of the list. -/
def Ctx.phys (x : Ctx) (c : RCls) (r : Nat) : Nat :=
  match findRing c r x.q.loops with
  | none => r
  | some g => g.base + (r - g.base + (x.q.loops.head?.elim 0 (·.iter))) % g.len

/-- The takes of the register a field names. -/
abbrev Ctx.rd (x : Ctx) (c : RCls) (r : Nat) : List Take := x.takes c (x.phys c r)

/-- The single value of a register that holds one take. -/
def oneVal : List Take → Option Vec
  | [t] => some t.x
  | _ => none

/-- The low 64 bits of a register value. -/
abbrev toWord (x : Vec) : Word := x.setWidth 64

/-- A scalar value as a register value. -/
abbrev ofWord (x : Word) : Vec := x.setWidth 2048

/-- The landed scalar value of a register with one take, 0 otherwise (used only after a check that it holds one). -/
def Ctx.sval (x : Ctx) (r : Nat) : Nat := ((oneVal (x.rd .s r)).getD 0).toNat % 2 ^ 64

/-- Whether the scalar register a field names holds several takes. -/
def Ctx.multi (x : Ctx) (c : RCls) (r : Nat) : Bool := (x.rd c r).length != 1

/-! ### Guards and literals (R51, R174) -/

/-- What a literal is in a cycle: a constant, or a cube over an open guard. -/
inductive LitVal where
  | const (b : Bool)
  | opn (k : Cube)
  deriving DecidableEq, Repr

abbrev Ctx.guard (x : Ctx) (i : Nat) : Guard := agetD x.g i Guard.reset

/-- Whether guard `i` is open to a bundle that issues in cycle `c`; an instance opened in that cycle is not yet. -/
def Ctx.gopen (x : Ctx) (c i : Nat) : Bool :=
  match (x.guard i).opn with
  | none => false
  | some o => o.opened < c

/-- A literal in cycle `c`; g0 reads true. -/
def Ctx.lit (x : Ctx) (c : Nat) (l : Lit) : LitVal :=
  if l.idx = 0 then .const !l.neg
  else if x.gopen c l.idx then .opn (Cube.lit l.idx l.neg)
  else .const ((x.guard l.idx).val != l.neg)

/-- The implicit literal of an outstanding BRD on a bundle of cycle `c` (R39, R192). -/
def Ctx.brdLit (x : Ctx) (c : Nat) : LitVal :=
  match x.brd with
  | none => .const true
  | some b =>
    if b.issued < c then
      match b.taken with
      | some t => .const !t
      | none => .opn (Cube.lit b.lit.idx !b.lit.neg)
    else .const true

/-- The write literal of an instruction with literal `l` (R177): none if it holds a literal landed false. -/
def Ctx.wlit (x : Ctx) (c : Nat) (l : Lit) : Option Cube :=
  match x.lit c l, x.brdLit c with
  | .const false, _ => none
  | _, .const false => none
  | .const true, .const true => some Cube.tt
  | .const true, .opn k => some k
  | .opn k, .const true => some k
  | .opn k, .opn j => k.conj j

/-- Whether the context has an open guard. -/
def Ctx.anyOpen (x : Ctx) : Bool := x.g.any fun p => p.2.opn.isSome

/-- Whether a BRD of the context is outstanding for a bundle of cycle `c`. -/
def Ctx.brdOut (x : Ctx) (c : Nat) : Bool := x.brd.any fun b => b.issued < c

/-! ### Raising faults -/

/-- A fault record of the bundle being issued: code, subcode, INFO0, INFO1. -/
def State.mkTrap (s : State) (code sub i0 i1 : Nat) : Trap :=
  { code := code, sub := sub, slot := s.iss.slot, slot2 := 0, fpc := s.iss.pc, info0 := i0, info1 := i1, iat := s.cyc,
    defer := false, sys := false, sup := s.me.q.sup }

/-- Raise a fault at point I in the bundle being issued: the first one raised counts (R358), and the driver of the bundle
takes it (`takeFault`) with nothing of the bundle done. -/
def State.raise (s : State) (t : Trap) : State :=
  { s with iss := { s.iss with fault := match s.iss.fault with | none => some t | some f => some f } }

def State.raiseF (s : State) (code sub i0 i1 : Nat) : State := s.raise (s.mkTrap code sub i0 i1)

/-- Whether a register of a context is poisoned: an error has struck it, and no whole write has replaced every take it held (R338). -/
def Ctx.isPoisoned (x : Ctx) (c : RCls) (r : Nat) : Bool := x.poison.any fun p => p.cls = c && p.reg = r

abbrev State.poisonReg (s : State) (c : RCls) (r : Nat) : Bool := s.me.isPoisoned c r

/-- An uncorrectable error strikes a register: every take of it is poisoned (R338). -/
def Ctx.strike (x : Ctx) (c : RCls) (r : Nat) : Ctx :=
  { x with poison := (x.poison.filter fun p => p.cls ≠ c || p.reg ≠ r) ++ [⟨c, r, Cube.tt⟩] }

/-- A whole write of a register has landed under literal `w` (R177, R338): what `w` does not reach stays poisoned, so that a write under
an open guard clears the poison once the guard has landed with its value (log 125). -/
def Ctx.cure (x : Ctx) (c : RCls) (r : Nat) (w : Cube) : Ctx :=
  { x with poison := x.poison.flatMap fun p =>
    if p.cls = c ∧ p.reg = r then w.complement.filterMap fun k => (p.cube.conj k).map fun k => { p with cube := k } else [p] }

/-! ### Landing times -/

/-- The quiet point of a context from cycle `f` on (R321): no guard open and no register result in flight. -/
def Ctx.quietAt (x : Ctx) (f : Nat) : Nat :=
  let a := x.fl.foldl (fun n p => max n p.due) f
  x.g.foldl (fun n p => match p.2.opn with | some o => max n o.due | none => n) a

/-! ### Messages that leave the package -/

/-- Whether one departure key comes before another (R266). -/
def keyLt : List Nat → List Nat → Bool
  | [], [] => false
  | [], _ :: _ => true
  | _ :: _, [] => false
  | a :: r, b :: t => a < b || (a == b && keyLt r t)


/-! ### Control-space registers (Table 17-1 and the other register maps) -/

abbrev State.reg (s : State) (off : Nat) : Nat := (agetD s.ctl off 0).toNat
abbrev State.setReg (s : State) (off v : Nat) : State := { s with ctl := aset s.ctl off (BitVec.ofNat 64 v) }

def offPart (p : Nat) : Nat := 0x8000 + 0x200 * p
def offMgmt : Nat := 0xA000
def offSvc : Nat := 0xB180
def State.pcfg (s : State) (p : Nat) : Nat := s.reg (offPart p)
def State.vbase (s : State) (p : Nat) : Nat := bits (s.pcfg p) 34 24
def State.vcnt (s : State) (p : Nat) : Nat := bits (s.pcfg p) 46 35
def State.svec (s : State) (p : Nat) : Nat := s.reg (offPart p + 0x150) / 32 * 32
def State.attached (s : State) (p : Nat) : Bool := s.reg (0xB000 + 8 * p) % 2 = 1

/-- Whether partition `p` holds core `n` (R297). -/
def State.holdsCore (s : State) (p n : Nat) : Bool := (s.reg (offPart p + 0x40 + 8 * (n / 64))) / 2 ^ (n % 64) % 2 = 1
/-- Whether partition `p` holds ring store `j` (64 × die + index). -/
def State.holdsStore (s : State) (p j : Nat) : Bool := (s.reg (offPart p + 0x80 + 8 * (j / 64))) / 2 ^ (j % 64) % 2 = 1
/-- Whether partition `p` holds token queue `q` (64 × die + queue). -/
def State.holdsTq (s : State) (p q : Nat) : Bool := (s.reg (offPart p + 0xC0 + 8 * (q / 64))) / 2 ^ (q % 64) % 2 = 1

/-- Set PERR of partition `p` (Table 17-3). -/
def State.perr (s : State) (p code off : Nat) : State := s.setReg (offPart p + 0x1F8) (code + off * 16)

/-- The Ziesh links that are up (Table 20-2). -/
def State.linksUp (s : State) : List Nat := (List.range 12).filter fun k => (s.reg (offMgmt + 0xC8 + 8 * k)).testBit 0

/-- The link that carries the traffic for a package (R354). -/
def State.linkFor (s : State) (target : Nat) : Option Nat := s.linksUp[target % s.linksUp.length]?

/-- A message leaves the package for a target (0 the host, else package + 1) with its departure key (R266): cycle, core, kind,
index. -/
def State.send (s : State) (key : List Nat) (target : Nat) (m : Msg) : State :=
  { s with out := s.out ++ [⟨s.cyc, key, target, if target = 0 then none else s.linkFor (target - 1), m⟩] }

/-- Insert a waiting request behind those with no later key: of two requests of one key the older goes first (log 122). -/
def waitInsert (o : Out) : List Out → List Out
  | [] => [o]
  | x :: r => if keyLt o.key x.key then o :: x :: r else x :: waitInsert o r

/-- A request waits for its turn (R266): it leaves the package, no earlier than cycle `at_`, behind every request to its target
with an earlier key. -/
def State.wants (s : State) (at_ : Nat) (key : List Nat) (target : Nat) (m : Msg) : State :=
  { s with wait := waitInsert ⟨at_, key, target, none, m⟩ s.wait }

/-- Post MSI-X vector `v` to the host. -/
def State.post (s : State) (v : Nat) : State := s.send [s.cyc, 0, 3, 0] 0 (.msix v)

/-- Write an error-log entry of die `d` (R340); kinds 5, 6 and 8 post vector VBASE of their partition. -/
def State.log (s : State) (d kind core part ctx code seq addr : Nat) : State :=
  let e := kind + core * 2 ^ 8 + part * 2 ^ 18 + ctx * 2 ^ 22 + code * 2 ^ 24 + seq % 2 ^ 32 * 2 ^ 32
    + addr % 2 ^ 48 * 2 ^ 64 + s.cyc % 2 ^ 64 * 2 ^ 128
  let s := s.modDie d fun x =>
    { x with elog := aset x.elog (x.elogCnt % 64) (BitVec.ofNat 256 e), elogCnt := (x.elogCnt + 1) % 2 ^ 32 }
  if kind = 5 ∨ kind = 6 ∨ kind = 8 then s.post (s.vbase part) else s

/-! ### Tasks -/

abbrev State.task? (s : State) (id : Nat) : Option Task := s.tasks.find? (·.id = id)

/-- Change a task. -/
def State.modTask (s : State) (id : Nat) (f : Task → Task) : State :=
  { s with tasks := s.tasks.map fun t => if t.id = id then f t else t }

/-- A perform or arrival of a task in cycle `c`, for its completion (R105). -/
def State.touch (s : State) (id c : Nat) : State := s.modTask id fun t => { t with last := max t.last c }

/-- Whether every context of a task's gang has halted. -/
def Task.allHalted (t : Task) : Bool := t.place.all fun p => t.halted.contains p.1

/-- The task completes in the cycle after its last halt, perform and arrival, once nothing of it is outstanding (R105). -/
def State.tryComplete (s : State) (id : Nat) : State :=
  match s.task? id with
  | some t => if t.allHalted && t.open_ = 0 then
      s.sched (max (t.last + 1) (s.cyc + 1)) phSched 0 0 id (.taskComplete id) else s
  | none => s

/-- One outstanding piece of work of a task is over in this cycle. -/
def State.workDone (s : State) (id : Nat) : State :=
  (s.modTask id fun t => { t with open_ := t.open_ - 1, last := max t.last s.cyc }).tryComplete id

/-- One more outstanding piece of work of a task. -/
def State.workOpen (s : State) (id : Nat) : State := s.modTask id fun t => { t with open_ := t.open_ + 1 }

/-- One granule of the outside part of a copy of core `n` is over; the copy's work ends with the last (R238). -/
def State.copyLeft (s : State) (n id : Nat) : State :=
  match (s.core n).copies.find? (·.id = id) with
  | none => s
  | some e =>
    if e.left ≤ 1 then (s.modCore n fun c => { c with copies := c.copies.filter (·.id ≠ id) }).workDone e.task
    else s.modCore n fun c => { c with copies := c.copies.map fun x => if x.id = id then { x with left := x.left - 1 } else x }

/-! ### Switching contexts (R93, R94) -/

/-- Whether context `k` is the holder of core `n` and no switch to another is under way. -/
def State.holds (s : State) (n k : Nat) : Bool := (s.core n).holder = k && (s.core n).switchTo.isNone

/-- The first Ready context after the holder, in the order of R94. -/
def Core.nextReady (c : Core) : Option Nat :=
  [1, 2, 3, 4].findSome? fun d =>
    let j := (c.holder + d) % 4
    if (c.ctx j).q.st = .ready then some j else none

/-- Begin a switch, if a context is Ready and none is under way: it takes 4 cycles (R17, R94). It is begun only where the holder has blocked,
halted or stopped (R75). -/
def State.switch (s : State) (n : Nat) : State :=
  let c := s.core n
  if c.switchTo.isSome then s
  else match c.nextReady with
  | none => s
  | some j => (s.modCore n fun c => { c with switchTo := some j }).sched (s.cyc + 4) phCtx n 0 0 (.contextSwitch n)

/-- Whether the holder of core `n` lets another context take the core: Blocked, Free or Stopped (R94). One that issues, holds or waits keeps
its core (R75). -/
def State.openCore (s : State) (n : Nat) : Bool :=
  let c := s.core n
  c.switchTo.isNone && ((c.ctx c.holder).q.st = .free || (c.ctx c.holder).q.st = .blocked || (c.ctx c.holder).q.st = .stopped
    || (c.ctx c.holder).q.st = .ready)

/-- A context becomes Ready; it takes the core 4 cycles later if the holder lets it (R94). Of two contexts that become Ready in one
cycle on a core whose holder lets it go, the one whose event runs first takes it, whatever its number (log 67). -/
def State.makeReady (s : State) (n k : Nat) : State :=
  let s := s.modSeq n k fun q => { q with st := .ready }
  if s.openCore n then s.switch n else s

/-- A blocked context's operation can complete (Table 04-3): the holder issues in this cycle, another becomes Ready. Where the core's
turn in this cycle has passed, it has another, behind the bundles or behind what comes from outside (log 104). -/
def State.wake (s : State) (n k : Nat) : State :=
  if s.holds n k then
    let s := s.modSeq n k fun q => { q with st := .holder, at_ := max q.at_ s.cyc }
    if phIssue + n < s.ph ∧ s.ph < phSched then s.modCore n fun c => { c with again := some s.cyc } else s
  else s.makeReady n k

/-! ### Token queues (R95, R96, R239) -/

/-- The number of a context of the package: 4 × core + context. -/
abbrev whoOf (n k : Nat) : Nat := 4 * n + k

abbrev State.tq (s : State) (t : Nat) : Tq := agetD (s.die (t / 64)).tqs (t % 64) Tq.reset
abbrev State.setTq (s : State) (t : Nat) (q : Tq) : State :=
  s.modDie (t / 64) fun d => { d with tqs := aset d.tqs (t % 64) q }

/-- The places of a queue that are held or reserved: receivable entries, entries sent, places removed but not yet free and
places given to senders (R95). -/
def Tq.taken (q : Tq) : Nat := q.ents.length + q.sent.length + q.busy

/-- The shadow of the queue follows (R337): the places of the entries `new` that joined are written in the next cycle and, if the queue
has changed (R265), a state record: its payload 31 cycles later and its header in the cycle after that (log 72). The changes of one
cycle give one record. -/
def State.tqShadow (s : State) (t : Nat) (new : List Nat) (change : Bool) : State :=
  let s := s.fresh
  let q := s.tq t
  let same := q.chg.filter fun g => g.at_ = s.cyc
  let c : TqChg :=
    { id := s.seqNo, at_ := s.cyc, ents := q.ents, hold := q.hold, head := q.head, hhead := q.hhead,
      new := same.flatMap (·.new) ++ new, change := change || same.any (·.change) }
  let s := s.setTq t { q with chg := (q.chg.filter fun g => g.at_ ≠ s.cyc) ++ [c] }
  [1, 31, 32].foldl (fun s d => s.sched (s.cyc + d) phArray t 0 c.id (.queueShadowPersist t c.id)) s

/-- A change of the queue: the entries `new` have become receivable, or an entry has been removed (R265). -/
def State.tqChanged (s : State) (t : Nat) (new : List Nat) : State := s.tqShadow t new true

/-- Set the block of a context so that its bundle can complete, and wake it. -/
def State.letGo (s : State) (who : Nat) (entry : Option Nat) (poisoned : Bool) : State :=
  let s := s.modSeq (who / 4) (who % 4) fun q =>
    { q with block := q.block.map fun b => { b with go := true, entry := entry, poisoned := poisoned } }
  s.wake (who / 4) (who % 4)

/-- Reserve unreserved entries for waiting receivers, in the order in which they blocked (R96); at most `n` of them. -/
def State.serve (s : State) (t : Nat) : Nat → State
  | 0 => s
  | n + 1 =>
    let q := s.tq t
    match q.recvs, q.ents.find? fun e => e.resv.isNone with
    | (w, _) :: r, some e =>
      let q := { q with
        recvs := r, ents := q.ents.map fun x => if x.id = e.id then { x with resv := some w } else x }
      ((s.setTq t q).letGo w (some e.id) false).serve t n
    | _, _ => s

/-- An entry becomes receivable: it joins the queue behind the others and goes to the first waiting receiver (R96). The read of a
copy whose last entry it is has arrived (R238). -/
def State.tqJoin (s : State) (t : Nat) (e : TqIn) : State :=
  let q := s.tq t
  let s := (s.setTq t { q with ents := q.ents ++ [⟨e.id, e.data, e.poison, none⟩] }).tqChanged t [e.id]
  (match e.copy with
  | some c => s.copyLeft c.1 c.2
  | none => s).serve t 64

/-- The oldest entry of the inbound hold takes a place and becomes receivable. -/
def State.tqFromHold (s : State) (t : Nat) : State :=
  let q := s.tq t
  match q.hold with
  | [] => s
  | h :: hs => (s.setTq t { q with hold := hs, hhead := (q.hhead + 1) % 64, busy := q.busy - 1 }).tqJoin t h

/-- A place of the queue becomes free (it is counted in `busy` until here): it goes to the party that has waited longest, a
blocked sender before a hold entry of the same cycle (R96). -/
def State.tqFreed (s : State) (t : Nat) : State :=
  let q := s.tq t
  match q.sends, q.hold with
  | (w, c) :: r, h :: _ =>
    if c ≤ h.since then (s.setTq t { q with sends := r }).letGo w none false
    else s.tqFromHold t
  | (w, _) :: r, [] => (s.setTq t { q with sends := r }).letGo w none false
  | [], _ :: _ => s.tqFromHold t
  | [], [] => s.setTq t { q with busy := q.busy - 1 }

/-- Insert a waiting party: earlier cycle first, then lower core number (R96). -/
def insertWaiter (w c : Nat) : List (Nat × Nat) → List (Nat × Nat)
  | [] => [(w, c)]
  | (v, d) :: r => if c < d || (c == d && w < v) then (w, c) :: (v, d) :: r else (v, d) :: insertWaiter w c r

/-- A blocked context leaves its block without completing (R96, R98, R359): a reservation or a given place is withdrawn, an
arrival that has not been released is withdrawn. A block whose barrier or combine phase has been released stays. -/
def State.withdraw (s : State) (n k : Nat) : State :=
  let who := whoOf n k
  match (s.ctx n k).q.block with
  | none => s
  | some b =>
    let s := if b.go && (match b.kind with | .bar _ | .combine _ _ => true | _ => false) then s
             else s.modSeq n k fun q => { q with block := none }
    match b.kind with
    | .yield | .hring _ => s
    | .send t =>
      let q := s.tq t
      let s := s.setTq t { q with sends := q.sends.filter fun p => p.1 ≠ who }
      if b.go then s.tqFreed t else s
    | .recv t =>
      let q := s.tq t
      (s.setTq t { q with
        recvs := q.recvs.filter fun p => p.1 ≠ who,
        ents := q.ents.map fun e => if e.resv = some who then { e with resv := none } else e }).serve t 64
    | .bar key =>
      if b.go then s
      else
        let x := agetD s.bars key Barrier.reset
        let arr := x.arr.filter (· ≠ who)
        { s with bars := aset s.bars key { x with
            arr := arr,
            rel := x.rel.map fun p => (p.1, p.2.1.filter (· ≠ who), p.2.2) } }
    | .combine key _ =>
      if b.go then s
      else
        let x := agetD s.combs key ⟨0, 0, 0, false, 0, none, 0, false, []⟩
        { s with combs := aset s.combs key { x with arrs := x.arrs.filter fun a => a.who ≠ who } }

/-! ### Instruction pages (R53, R310) -/

/-- The physical address that instruction address `a` has at a privilege: supervisor code fetches from every page of the buffer,
user code from its user pages (R301). -/
def Ctx.fetchPa (x : Ctx) (sup : Bool) (a : Nat) : Option Nat :=
  (x.q.itlb.find? fun e => e.page = a / 0x4000000 && (sup || !e.sup)).map fun e => e.pa + a % 0x4000000

/-- The bundle at an instruction address of context `x`, as its eight words in one number. -/
def State.fetch (s : State) (x : Ctx) (a : Nat) : Option Nat :=
  (x.fetchPa x.q.sup a).map fun pa => s.load pa 32

/-! ### Loop levels (R83, R84) -/

/-- What slot 0 of a bundle means for the nesting of loops: opens a level, ends one, or neither. -/
def nestOf (b : Nat) : Int :=
  match b / 2 ^ 18 % 64 with
  | 8 => 1
  | 9 => -1
  | _ => 0

/-- The address of the LEND bundle that ends the body of a level: the next one at the same depth from `a` on (R83). Beyond the
instruction pages there is none. -/
def State.lendFrom (s : State) (x : Ctx) : Nat → Nat → Int → Option Nat
  | 0, _, _ => none
  | n + 1, a, depth =>
    match s.fetch x a with
    | none => none
    | some b =>
      if nestOf b = -1 ∧ depth = 0 then some a else s.lendFrom x n (a + 32) (depth + nestOf b)

/-- Whether an address lies in the body of a level. A buffer holds at most twenty pages of 2^21 bundles. -/
def State.inBody (s : State) (x : Ctx) (l : Loop) (a : Nat) : Bool :=
  l.start ≤ a && (match s.lendFrom x (20 * 2 ^ 21) l.start 0 with
    | some e => a ≤ e
    | none => true)

/-- The levels that stay open when issue goes to `a`: a level whose body does not hold it closes with every level inside it
(R84). Innermost level first. -/
def State.keepLoops (s : State) (x : Ctx) (a : Nat) : List Loop → List Loop
  | [] => []
  | l :: r =>
    let r' := s.keepLoops x a r
    if r'.length = r.length ∧ s.inBody x l a then l :: r' else r'

/-- Issue goes to `a` without delay (R80, R192). -/
def State.jump (s : State) (n k a : Nat) : State :=
  s.modCtx n k fun x =>
    let ls := s.keepLoops x a x.q.loops
    { x with q := { x.q with npc := a, loops := ls, body := if ls = [] then [] else x.q.body } }

/-! ### Taking a fault (R321 to R325, R359) -/

/-- Keep a fault as a deferred entry with a true cube, taken in order at ERET (R359). -/
def Ctx.keep (x : Ctx) (t : Trap) : Ctx := { x with defer := x.defer ++ [⟨Cube.tt, 0, some t, true, true⟩] }

/-- Take fault `t` of context `k` of core `n` in this cycle: from here on the context issues nothing until its quiet point q,
where the handler is entered (R321), or where it becomes Stopped: a fault at supervisor privilege (R324), or a breakpoint
with a debugger attached (R325), as ATTACH stands at q (log 68). A base that a SCENE has set is not used: R359 says so of a wait that is
interrupted, and the model has it of a fault of the first bundle at that base too, whose handler reads the old SCENEBASE (log 108). -/
def State.takeFault (s : State) (n k : Nat) (t : Trap) : State :=
  let x := s.ctx n k
  let q := x.quietAt s.cyc
  let stop := (x.q.sup && !t.sys) || (t.code = 0x0E && s.attached x.q.part)
  let s := (s.withdraw n k).modCtx n k fun x =>
    { x with fault := some t, q := { x.q with st := .holder, wait := none, newBase := none, at_ := s.cyc } }
  s.sched q phCtx n k 0 (if stop then .faultStop n k else .handlerEntry n k)

/-- The value of TCAUSE for a fault (Table 18-3). -/
def Trap.cause (t : Trap) (ppriv : Bool) : Word :=
  BitVec.ofNat 64 (t.code % 256 + t.sub % 256 * 2 ^ 8 + t.slot % 8 * 2 ^ 16 + t.slot2 % 8 * 2 ^ 20
    + (if ppriv then 2 ^ 24 else 0) + (if t.defer then 2 ^ 25 else 0) + (if t.sys then 2 ^ 26 else 0))

/-- A BRD whose guard landed during the wait for the quiet point has its effect there (R323): a taken one moves the stop point to
its target, closes the levels that it leaves (R84), and drops a fault held in its shadow. Where it is not taken, such a fault is
raised again when its bundle, the stop point, issues. -/
def State.settleBrd (s : State) (n k : Nat) : State :=
  let x := s.ctx n k
  match x.brd with
  | none => s.setCtx n k { x with heldF := none }
  | some b =>
    if b.taken = some true then
      let ls := s.keepLoops x b.target x.q.loops
      let ar := if x.heldF.isSome then { x.ar with drops := BitVec.ofNat 16 (min (x.ar.drops.toNat + 1) 0xFFFF) } else x.ar
      s.setCtx n k { x with
        brd := none, heldF := none, ar := ar,
        q := { x.q with pc := b.target, xfer := none, loops := ls, body := if ls = [] then [] else x.q.body } }
    else s.setCtx n k { x with brd := none, heldF := none }

/-- The stop point of a context is chosen: the continuations of its rows begin there (R204). -/
def State.placeCont (s : State) (n k : Nat) : State :=
  s.modArr n fun a => { a with conts := a.conts.map fun c =>
    if c.pass.ctx = k && c.stop.isNone then { c with stop := some (s.ctx n k).q.pc } else c }

/-- Enter the handler at the quiet point (R321): the trap CSRs are written, the context goes to supervisor privilege, its open
loop levels are set aside (R84), and the first handler bundle, at SVEC, issues 4 cycles later. -/
def State.enterHandler (s : State) (n k : Nat) (t : Trap) : State :=
  let s := (s.settleBrd n k).placeCont n k
  let x := s.ctx n k
  let tr := { x.tr with
    tcause := t.cause x.q.sup, tpc := BitVec.ofNat 64 (x.q.pc / 32 * 32), tfpc := BitVec.ofNat 64 (t.fpc / 32 * 32),
    tinfo0 := BitVec.ofNat 64 t.info0, tinfo1 := BitVec.ofNat 64 t.info1 }
  let q := { x.q with
    st := .holder, sup := true, away := some (x.q.away.getD x.q.pc),
    aside := ⟨x.q.pc, x.q.loops, x.q.body, x.q.xfer, x.q.block⟩ :: x.q.aside, loops := [], body := [], xfer := none,
    block := none,
    pc := s.svec x.q.part, at_ := s.cyc + 4 }
  s.setCtx n k { x with tr := tr, q := q, fault := none }

/-- The context becomes Stopped; its trap CSRs keep their values and the stop record is written (R360). What it was blocked on is
withdrawn (R96, R98). -/
def State.stopHere (s : State) (n k : Nat) (cause : Word) (fpc i0 i1 : Nat) : State :=
  let s := ((s.withdraw n k).settleBrd n k).placeCont n k
  let s := s.modCtx n k fun x =>
    { x with
      tr := { x.tr with stopCause := cause, stopPc := BitVec.ofNat 64 (x.q.pc / 32 * 32),
                        stopFpc := BitVec.ofNat 64 (fpc / 32 * 32), stopInfo0 := BitVec.ofNat 64 i0,
                        stopInfo1 := BitVec.ofNat 64 i1 }
      q := { x.q with st := .stopped, away := some (x.q.away.getD x.q.pc) }
      fault := none, heldF := none }
  if s.holds n k then s.switch n else s

end Sys2Proof.Machine
end

