-- ==== Sys2Proof/Machine/Windows.lean ====
section
/-! DEFINITION. Where an access may go: regions, windows, the scratchpad banks, and port pops (12_memory.md R228 to R230,
06_scalar_vector.md R163, R167 to R171). -/

namespace Sys2Proof.Machine

/-- A fault an operation finds: code, subcode, INFO0, INFO1 (Table 18-1). -/
structure Flt where
  code : Nat
  sub : Nat
  info0 : Nat
  info1 : Nat
  deriving DecidableEq, Repr

/-- Raise what an operation found in the bundle being issued. -/
abbrev State.raiseFlt (s : State) (f : Flt) : State := s.raiseF f.code f.sub f.info0 f.info1

/-! ### Regions (Table 12-2) -/

/-- A region of the physical address space, with its unit; `ctl` is the control space (R305). -/
inductive Region where
  | hbm (die : Nat)
  | lpddr
  | spad (core : Nat)
  | ring (store : Nat)
  | tq (q : Nat)
  | ctl
  | host
  | pod
  | unmapped
  deriving DecidableEq, Repr

def regionOf (a : Nat) : Region :=
  if a < 0x010000000000 then .hbm (a / 0x2000000000)
  else if a < 0x050000000000 then .lpddr
  else if a < 0x080000000000 then .unmapped
  else if a < 0x080080000000 then .spad ((a - 0x080000000000) / 0x400000)
  else if a < 0x080100000000 then .unmapped
  else if a < 0x080140000000 then .ring ((a - 0x080100000000) / 0x200000)
  else if a < 0x080200000000 then .unmapped
  else if a < 0x080200200000 then .tq ((a - 0x080200000000) / 0x1000)
  else if a < 0x080300000000 then .unmapped
  else if a < 0x080301000000 then .ctl
  else if a < 0x100000000000 then .unmapped
  else if a < 0x200000000000 then .host
  else if a < 0x300000000000 then .pod
  else .unmapped

/-- First address of the control space (R305). -/
def ctlBase : Nat := 0x080300000000

/-- The kinds of access of Table 12-4. `load` and `store` cover vectors, gathers and scatters, the reads of PSET, SEAL and
JT, and taps. -/
inductive Acc where
  | load | store | lazy | atom | copySrc | copyDst | flush
  deriving DecidableEq, Repr

/-- Whether a kind of access of core `n` may reach a region (Table 12-4); another die only a copy or an atomic reaches (R257,
log 69). -/
def Acc.reach (a : Acc) (n : Nat) : Region → Bool
  | .spad m => m = n || a == .atom || a == .copySrc || a == .copyDst || (a == .lazy && dieOf m = dieOf n)
  | .ring j => a == .atom || a == .copySrc || a == .copyDst || (a == .lazy && j / 64 = dieOf n)
  | .hbm _ | .lpddr => a == .copySrc || a == .copyDst
  | .tq _ => a == .copyDst
  | .host | .pod => a == .atom || a == .copySrc || a == .copyDst
  | .ctl | .unmapped => false

def Acc.writes : Acc → Bool
  | .load | .copySrc | .flush => false
  | .store | .lazy | .atom | .copyDst => true

/-- The lowest-numbered bound window whose range holds an address (R230). -/
def Ctx.window (x : Ctx) (ea : Int) : Option (Nat × Win) :=
  x.win.find? fun p => (p.2.vbase : Int) ≤ ea && ea < (p.2.vbase : Int) + p.2.size

/-- The low 64 bits of an exact address. -/
def addr64 (ea : Int) : Nat := (ea % 2 ^ 64).toNat

/-- Translate an access of context `x` of core `n` (R230, R163, R305, R307): its physical address, or its window fault. `align`
is the size its address must be a multiple of; `word` says that it is LD.i64 or ST.i64. Range, privilege and the regions of the
first and the last byte are judged first, then alignment, then read-only. -/
def translate (x : Ctx) (n : Nat) (a : Acc) (ea : Int) (len align : Nat) (word : Bool) : Except Flt Nat :=
  match x.window ea with
  | none => .error ⟨0x0A, 0, 16, addr64 ea⟩
  | some (w, d) =>
    let bad (sub : Nat) : Except Flt Nat := .error ⟨0x0A, sub, w, addr64 ea⟩
    let pa := d.pbase + (ea - d.vbase).toNat
    if (d.vbase : Int) + d.size < ea + len then bad 0
    else if d.sup && !x.q.sup then bad 7
    else if regionOf pa = .ctl then
      if word && (a == .load || a == .store) && ea % 8 == 0 then
        if a.writes && d.attr == 0 then bad 5 else .ok pa
      else bad 3
    else if !(a.reach n (regionOf pa) && a.reach n (regionOf (pa + len - 1))) then bad 6
    else if ea % align != 0 then bad 1
    else if a.writes && d.attr == 0 then bad 5
    else .ok pa

/-! ### Banks (R22, R167) -/

/-- The bank of a scratchpad offset: 4 × group + bank (R22). -/
def bankOf (off : Nat) : Nat := off / 2 ^ 18 % 16

/-- The requesters of core `n` in this cycle. -/
def State.reqs (s : State) (n : Nat) : List Req :=
  let c := s.core n
  if c.reqAt = s.cyc then c.reqs else []

/-- The rows an instruction touches, as (bank, row) pairs without repeats. -/
def rowsOf (offs : List Nat) : List (Nat × Nat) := (offs.map fun o => (bankOf o, o / 256)).dedup

/-- INFO0 of the bank conflict that a requester `who` of rows `rs` meets (R167), if any: two rows of its own in one bank, or
another requester there in this cycle, which is named first. -/
def State.conflict (s : State) (n who : Nat) (rs : List (Nat × Nat)) : Option Nat :=
  match rs.find? fun r => rs.any fun t => t.1 = r.1 ∧ t.2 ≠ r.2 with
  | some r => some (r.1 + who * 2 ^ 8 + who * 2 ^ 12)
  | none =>
    rs.findSome? fun r =>
      ((s.reqs n).find? fun q => q.bank = r.1).map fun q => r.1 + q.who * 2 ^ 8 + who * 2 ^ 12

/-- Record a requester of core `n` in this cycle. -/
def State.addReqs (s : State) (n who : Nat) (rs : List (Nat × Nat)) : State :=
  let old := s.reqs n
  s.modCore n fun c =>
    { c with reqAt := s.cyc, reqs := old ++ rs.map fun r => ⟨r.1, r.2, who, s.cyc⟩ }

/-- A requester of rows at offsets `offs` of core `n`: the state with it recorded, or the bank-conflict fault. -/
def State.claim (s : State) (n who : Nat) (offs : List Nat) : Except Flt State :=
  let rs := rowsOf offs
  match s.conflict n who rs with
  | some i => .error ⟨0x04, 0, i, 0⟩
  | none => .ok (s.addReqs n who rs)

/-- A read that the array, ACCEPT or COMBINE makes at scratchpad offset `off` on its own, as requester `who` behind its instruction's
issue: only another requester of the array takes its bank, and it meets no store that performs (R205, R255). That a row which COMBINE reads
one or two cycles behind its issue meets none either is the model's choice: no rule names an outcome for the two (log 111). -/
def State.claimArr (s : State) (n who off : Nat) : Except Flt State :=
  match (s.reqs n).find? fun q => q.bank = bankOf off && q.who ≠ 12 && q.who ≠ 13 with
  | some q => .error ⟨0x04, 0, bankOf off + q.who * 2 ^ 8 + who * 2 ^ 12, 0⟩
  | none => .ok (s.addReqs n who (rowsOf [off]))

/-- The poison fault of a read (R163, R251), if it touches a poisoned granule; SUB 2 where a restore has poisoned it (Table
18-1). -/
def State.poisonFlt (s : State) (pa len : Nat) : Option Flt :=
  let a := s.poisonAddr pa len
  if s.poisoned pa len then some ⟨0x0C, if s.rpois.contains (granOf a) then 2 else 0, 0, a⟩ else none

/-- The rule of R188: an instruction without a guard field does not issue while a BRD is outstanding. -/
def State.noBrd (s : State) : Except Flt Unit :=
  if s.me.brdOut s.cyc then .error ⟨0x08, 4, s.me.brd.elim 0 (·.lit.idx), 0⟩ else .ok ()

/-- The scratchpad offset of a physical address (R22). -/
def offOf (pa : Nat) : Nat := pa % 0x400000

/-- Read a record of `len` bytes with the window, bank and poison rules of a vector load (R130, R168), for the context being
issued; an outstanding BRD is found behind the bank conflict, and then an address that is not a multiple of `align`, as seal check `check`
for `info`, and then poison, before any check of what the record holds (R188, R358, log 70, log 112). -/
def State.readRec (s : State) (ea : Int) (len align check info : Nat) : Except Flt (State × Nat) := do
  let n := s.iss.core
  let pa ← translate s.me n .load ea len 1 false
  let s ← s.claim n s.iss.slot [offOf pa, offOf (pa + len - 1)]
  s.noBrd
  if ea % align ≠ 0 then .error ⟨0x0B, check, info, 0⟩
  match s.poisonFlt pa len with
  | some f => .error f
  | none => .ok (s, s.load pa len)

/-! ### Sealed records (Table 05-11) -/

def recEBase (r : BitVec 512) : Nat := bits r.toNat 21 0
def recRows (r : BitVec 512) : Nat := bits r.toNat 47 32
def recEStride (r : BitVec 512) : Nat := bits r.toNat 85 64
def recFmt (r : BitVec 512) : Nat := bits r.toNat 98 96
def recSMode (r : BitVec 512) : Nat := bits r.toNat 101 100
def recSBase (r : BitVec 512) : Nat := bits r.toNat 149 128
def recSStride (r : BitVec 512) : Nat := bits r.toNat 181 160

/-- Elements of a 2048-bit row by MWLOAD format code (Table 05-9): 512, 256 or 128. -/
def fmtK (f : Nat) : Nat := if f = 0 ∨ f = 5 then 512 else if f = 4 then 128 else 256

/-- Blocks of 8 elements in a row. -/
def fmtBlocks (f : Nat) : Nat := fmtK f / 8

/-- Block scales that are all 1.0 (R115). -/
def unitScales : BitVec 512 := BitVec.ofNat 512 (0x60 * ((2 ^ 512 - 1) / 255))

/-! ### Port pops (R36, R42, R168 to R171) -/

/-- The displacement of pop `k` of a parameter set: its indices in mixed radix, level 0 fastest (R169). -/
def walkOf : List Nat → List Int → Nat → Int
  | n :: ns, t :: ts, k => ((k % (max n 1) : Nat) : Int) * t + walkOf ns ts (k / max n 1)
  | _, _, _ => 0

/-- The pops of a parameter set. -/
def PortSet.total (p : PortSet) : Nat := p.cnt.foldl (fun a n => a * max n 1) 1

/-- What a pop delivers: the row, and for a matrix instruction its block scales and its format. -/
structure Popped where
  row : Vec
  scales : BitVec 512
  fmt : Option Nat
  deriving DecidableEq, Repr

/-- Where a pop reads: the offset of its element row, that of its block scales, and the seal check it fails. A row outside the
scratchpad has no offset. -/
structure PopAt where
  row : Option Nat
  scales : Option Nat
  bad : Option Flt
  deriving DecidableEq, Repr

/-- A row offset, if the row lies in the scratchpad. -/
def rowOff (off : Int) : Option Nat := if off < 0 ∨ 0x400000 - 256 < off then none else some off.toNat

/-- The place of pop `pos` of a parameter set (R169, R131), or its window fault. -/
def PortSet.place (p : PortSet) (port pos : Nat) : Except Flt PopAt :=
  let w := walkOf p.cnt p.str pos
  if p.hv then
    match p.hrec with
    | none => .ok ⟨none, none, some ⟨0x0B, 0, port, 0⟩⟩
    | some r =>
      let row := rowOff ((recEBase r : Int) + w * recEStride r)
      if w < 0 ∨ (recRows r : Int) ≤ w then .ok ⟨row, none, some ⟨0x0B, 9, port, 0⟩⟩
      else .ok ⟨row, if recSMode r = 1 then some (recSBase r + w.toNat * recSStride r) else none, none⟩
  else
    let off := (p.base : Int) + w
    match rowOff off with
    | none => .error ⟨0x0A, 0, 16, addr64 off⟩
    | some o => .ok ⟨some o, none, none⟩

/-- The early-read checker (R42): the fault of the first granule of the `n` bytes at `pa` whose tag is not the expected one. -/
def State.checkTags (s : State) (port t pa n : Nat) : Option Flt :=
  ((List.range (granOf (pa + n - 1) + 1 - granOf pa)).find? fun i => s.tag (granOf pa + i) ≠ t).map fun i =>
    ⟨0x03, 1, port + t * 2 ^ 8 + s.tag (granOf pa + i) * 2 ^ 16, pa / 64 * 64 + 64 * i⟩

/-- A pop claims the banks of its row and of its block scales, which must lie in different bank groups (R22, R205). Where a
store performs in such a bank in the cycle, the pop loses (log 111). -/
def State.claimPop (s : State) (n who : Nat) (row scales : Option Nat) : Except Flt State := do
  match row, scales with
  | some r, some o => if o / 2 ^ 20 = r / 2 ^ 20 then .error ⟨0x04, 0, bankOf o + who * 2 ^ 8 + who * 2 ^ 12, 0⟩
  | _, _ => .ok ()
  let s ← match row with
    | some r => s.claim n who [r]
    | none => .ok s
  match scales with
  | some o => s.claim n who [o]
  | none => .ok s

/-- Pop port `port` of context `k` of core `n` in this cycle, as requester `who`; a matrix instruction also takes the block
scales. Timing and window checks come first, then banks, seal checks, poison and tags (R36, R42, R131, R163, R167, R169, R358). A port
that holds no parameter set has no row to give: 0x05 SUB 1, as before PSET + 8 and past the last row (log 89). -/
def State.pop (s : State) (n k port who : Nat) (scales : Bool) : Except Flt (State × Popped) := do
  let x := s.ctx n k
  let p := agetD x.ports port Port.reset
  match p.set with
  | none => .error ⟨0x05, 1, port, 0⟩
  | some ps =>
    if s.cyc < p.at_ + 8 ∨ ps.total ≤ p.pos then .error ⟨0x05, 1, port, 0⟩
    else
      let pl ← ps.place port p.pos
      let so := if scales then pl.scales else none
      let s ← s.claimPop n who pl.row so
      let pa := spad n + pl.row.getD 0
      let fmt := ps.hrec.map recFmt
      let nb := fmtBlocks (fmt.getD 0)
      let poison := (s.poisonFlt pa 256).or (so.bind fun o => s.poisonFlt (spad n + o) nb)
      let early := p.check.bind fun t =>
        (s.checkTags port t pa 256).or (so.bind fun o => s.checkTags port t (spad n + o) nb)
      match pl.bad.or (poison.or early) with
      | some f => .error f
      | none =>
        let sc : BitVec 512 := match so with
          | some o => BitVec.ofNat 512 (s.load (spad n + o) nb)
          | none => unitScales
        .ok (s.modCtx n k fun x => { x with ports := aset x.ports port { p with pos := p.pos + 1 } },
          ⟨BitVec.ofNat 2048 (s.load pa 256), sc, if ps.hv then fmt else none⟩)

end Sys2Proof.Machine
end

