-- ==== Sys2Proof/Machine/Flags.lean ====
section
/-! DEFINITION. Flags and status: conditions of comparisons (Table 03-9), ASTAT and its events (R125, R136), the deferred-event
table (R189, R190), faults that fall due at a landing (R137, R359), and the landing of results and guards (R176, R177). -/

namespace Sys2Proof.Machine

/-! ### Conditions of Table 03-9 -/

/-- A condition code on two `w`-bit integers: eq, ne, lt, ge signed, lt, ge unsigned, le, gt signed. -/
def testInt (w cond x y : Nat) : Bool :=
  let a := sint w x
  let b := sint w y
  match cond with
  | 0 => x == y
  | 1 => x != y
  | 2 => a < b
  | 3 => b ≤ a
  | 4 => x < y
  | 5 => y ≤ x
  | 6 => a ≤ b
  | 7 => b < a
  | _ => false

/-! ### ASTAT (Table 06-1) -/

/-- The value of ASTAT. -/
def Arith.astat (a : Arith) : Word :=
  BitVec.ofNat 64 (a.ev.toNat + a.en.toNat * 2 ^ 8 + a.drops.toNat * 2 ^ 16)

/-- A write of ASTAT; reserved bits stay 0. -/
def Arith.setAstat (a : Arith) (v : Word) : Arith :=
  { a with ev := BitVec.ofNat 6 v.toNat, en := BitVec.ofNat 6 (v.toNat / 2 ^ 8), drops := BitVec.ofNat 16 (v.toNat / 2 ^ 16) }

/-- The events recorded in cycle `c`, the present one. -/
def Arith.evOf (a : Arith) (c : Nat) : BitVec 6 := if a.evAt = c then a.evNew else 0

/-- Record events in cycle `c` (R125). -/
def Arith.record (a : Arith) (c ev : Nat) : Arith :=
  { a with ev := a.ev ||| BitVec.ofNat 6 ev, evAt := c, evNew := a.evOf c ||| BitVec.ofNat 6 ev }

/-- The landing of a CSRW of ASTAT in cycle `c`: the events of that cycle are ORed into the written value (R136). -/
def Arith.writeAstat (a : Arith) (c : Nat) (v : Word) : Arith := { a.setAstat v with ev := BitVec.ofNat 6 v.toNat ||| a.evOf c }

/-- Count discarded traps; the count stops at 0xFFFF (R136, R190). -/
def Arith.drop (a : Arith) (n : Nat) : Arith := { a with drops := BitVec.ofNat 16 (min (a.drops.toNat + n) 0xFFFF) }

/-- The lowest-numbered event of a set (R137). -/
def firstEv (ev : Nat) : Option Nat := (List.range 6).find? fun i => ev / 2 ^ i % 2 = 1

/-- The trap that a result pair raises when it lands: the one it carries, or the arithmetic fault of its lowest-numbered
enabled event (R125, R137). A CSRW of ASTAT that lands in the same cycle comes behind it: its EN does not count yet (log 96). -/
def Flight.trapOf (f : Flight) (a : Arith) (p : Pair) : Option Trap :=
  match p.trap with
  | some t => some t
  | none => (firstEv (p.ev &&& a.en.toNat)).map fun e =>
    { code := 0x0D, sub := e, slot := f.slot, slot2 := 0, fpc := f.fpc, info0 := f.reg, info1 := 0, iat := f.iat,
      defer := false, sys := false, sup := f.sup }

/-! ### Faults that fall due at a landing or an arrival (point L, R359) -/

/-- Whether trap `a` comes before trap `b`: issued first, then the lower slot (R190). -/
def Trap.before (a b : Trap) : Bool := a.iat < b.iat || (a.iat == b.iat && a.slot < b.slot)

/-- A context that is being saved keeps a fault in its record too (R359, Table 18-8). -/
def State.keepSaved (s : State) (n : Nat) (id : Option Nat) (t : Trap) : State :=
  match id with
  | none => s
  | some id => s.modCore n fun c => { c with saves := c.saves.map fun v =>
      if v.id = id then { v with pay := { v.pay with ctx := v.pay.ctx.keep t } } else v }

/-- A fault of context `k` of core `n` that falls due in this cycle, by the context's state (R359): a fault of the user code is kept
while its handler runs, whether it issues or is Blocked or Ready. -/
def State.lateFault (s : State) (n k : Nat) (t : Trap) : State :=
  let x := s.ctx n k
  if x.q.st = .free then s
  else if x.q.st = .stopped then (s.setCtx n k (x.keep t)).keepSaved n x.q.saving t
  else if x.q.sup && !t.sup then s.setCtx n k (x.keep t)
  else match x.q.st with
  | .free | .stopped => s
  | .ready => s.setCtx n k { x with pendF := x.pendF ++ [t] }
  | .blocked =>
    let s := (s.withdraw n k).modCtx n k fun x => { x with pendF := x.pendF ++ [t] }
    s.makeReady n k
  | .holder | .holding | .waiting =>
    match x.fault with
    | some f =>
      if x.q.at_ = s.cyc ∧ t.before f ∧ f.iat < s.cyc then ((s.setCtx n k (x.keep f)).takeFault n k t)
      else s.setCtx n k (x.keep t)
    | none => s.takeFault n k t

/-! ### The deferred-event table (R189) -/

/-- The entries that count towards the sixteen: those that R359 keeps do not. -/
def Ctx.deferCount (x : Ctx) : Nat := (x.defer.filter fun e => !e.kept).length

/-- Enter events and at most one trap under a cube that is not true; none if a seventeenth entry would be needed. A trap for
a cube whose entry already holds one makes an entry of its own. -/
def Ctx.deferAdd (x : Ctx) (k : Cube) (ev : Nat) (t : Option Trap) : Option Ctx :=
  let fits (e : Deferred) : Bool := e.cube == k && !e.due && !e.kept && (t.isNone || e.trap.isNone)
  if x.defer.any fits then
    let rec go : List Deferred → List Deferred
      | [] => []
      | e :: r => if fits e then { e with ev := evOr e.ev ev, trap := e.trap.or t } :: r else e :: go r
    some { x with defer := go x.defer }
  else if x.deferCount < 16 then some { x with defer := x.defer ++ [⟨k, ev, t, false, false⟩] }
  else none

/-- Enter a list of (cube, events, trap); none if the table would overflow. -/
def Ctx.deferAll (x : Ctx) : List (Cube × Nat × Option Trap) → Option Ctx
  | [] => some x
  | (k, ev, t) :: r => (x.deferAdd k ev t).bind fun x => x.deferAll r

/-! ### CSRs that instructions write (Table 06-3, Tables 17-5, 18-2) -/

/-- Landing of a CSRW in cycle `c`. -/
def Ctx.writeCsr (x : Ctx) (c n : Nat) (v : Word) : Ctx :=
  match n with
  | 0x010 => { x with ar := { x.ar with srkey := v } }
  | 0x011 => { x with ar := { x.ar with srctr := v.setWidth 48 } }
  | 0x012 => { x with ar := x.ar.writeAstat c v }
  | 0x101 => { x with ar := { x.ar with c4 := v.toNat % 2 = 1 } }
  | 0x180 => { x with tr := { x.tr with tcause := v &&& 0x0777FFFF } }
  | 0x181 => { x with tr := { x.tr with tpc := v &&& ~~~ 0x1F } }
  | 0x185 => { x with tr := { x.tr with tscr0 := v } }
  | 0x186 => { x with tr := { x.tr with tscr1 := v } }
  | 0x187 => { x with tr := { x.tr with tscr2 := v } }
  | 0x188 => { x with tr := { x.tr with tscr3 := v } }
  | _ => x

/-! ### Landing of a result (R176 step 4, R177, R181, R189) -/

/-- The fault record of a landing result: code 0x08 of subcode `sub`. -/
def Flight.takeTrap (f : Flight) (sub : Nat) : Trap :=
  { code := 0x08, sub := sub, slot := f.slot, slot2 := 0, fpc := f.fpc, info0 := f.reg, info1 := 0, iat := f.iat,
    defer := false, sys := false, sup := f.sup }

/-- Land a result of context `k` of core `n`; it has left the results in flight. A whole write clears the poison of its register, one whose
landing faults writes nothing (R137, R338). Where a landing exceeds four takes and needs a seventeenth entry too, its fault is SUB 1, and
the events of a result that either fault keeps from landing go nowhere (log 117). -/
def State.landFlight (s : State) (n k : Nat) (f : Flight) : State :=
  let x := s.ctx n k
  if f.dead then s
  else match f.cls with
  | .csr => s.setCtx n k (match f.pairs with | p :: _ => x.writeCsr s.cyc f.reg (toWord p.x) | [] => x)
  | .hnd => s.setCtx n k { x with hnd := match f.pairs with
      | p :: _ => aset x.hnd f.reg (p.x.setWidth 512)
      | [] => x.hnd }
  | c =>
    let live := f.pairs.filterMap fun p => (p.cube.conj f.w).map fun kk => (kk, p, f.trapOf x.ar p)
    let sole := live.find? fun q => q.1.isTrue
    let fire := sole.bind fun q => q.2.2
    let ev := sole.elim 0 fun q => q.2.1.ev
    let dfr := live.filterMap fun q =>
      if q.1.isTrue || (q.2.1.ev == 0 && q.2.2.isNone) then none
      else some (q.1, q.2.1.ev, q.2.2.map fun t => { t with defer := true })
    let new := landWrite (x.takes c f.reg)
      (live.map fun q => (q.1, if !q.1.isTrue && q.2.2.isSome then 0 else q.2.1.x)) f.w
    let discard := c = .s ∧ f.reg = 0
    if 4 < new.length ∧ ¬ discard then s.lateFault n k (f.takeTrap 1)
    else match x.deferAll dfr with
    | none => s.lateFault n k (f.takeTrap 6)
    | some x =>
      let x := { x with ar := x.ar.record s.cyc ev }
      match fire with
      | some t => (s.setCtx n k x).lateFault n k t
      | none => s.setCtx n k ((if discard then x else x.setTakes c f.reg new).cure c f.reg f.w)

/-! ### Landing of a guard (R176 steps 1 to 3) -/

/-- The value a guard instance lands with (R191); its operands have landed. -/
def GOpen.value (o : GOpen) : Bool :=
  let vs := o.args.map fun a => (a.known.getD false) != a.neg
  match o.op with
  | .value => vs.headD false
  | .and => vs.all id
  | .or => vs.any id
  | .not => !(vs.headD false)

/-- Takes after guard `i` has landed with `b`. -/
def landTakes (a : Assoc (List Take)) (i : Nat) (b : Bool) : Assoc (List Take) :=
  a.map fun p => (p.1, p.2.filterMap fun t => (t.cube.land i b).map fun k => { t with cube := k })

/-- A result in flight after guard `i` has landed with `b`: what is left of it, and how many traps vanished with it (R190). -/
def Flight.landGuard (f : Flight) (a : Arith) (i : Nat) (b : Bool) : Flight × Nat :=
  if f.dead then (f, 0)
  else match f.w.land i b with
  | none => ({ f with dead := true, pairs := [] }, (f.pairs.filter fun p => (f.trapOf a p).isSome).length)
  | some w =>
    ({ f with w := w, pairs := f.pairs.filterMap fun p => (p.cube.land i b).map fun k => { p with cube := k } },
      (f.pairs.filter fun p => (p.cube.land i b).isNone && (f.trapOf a p).isSome).length)

/-- Steps 1 and 2 of R176 for guard `i` of a context, in cycle `c`: it lands with its value; everything under a contrary
cube vanishes; guard logic and a BRD that wait for it learn the value (R191, R192). -/
def Ctx.landGuard (x : Ctx) (c i : Nat) : Ctx :=
  match (x.guard i).opn with
  | none => x
  | some o =>
    let b := o.value
    let fl := x.fl.map fun f => f.landGuard x.ar i b
    let gone := (x.defer.filter fun e => (e.cube.land i b).isNone && e.trap.isSome).length
    { x with
      g := (aset x.g i ⟨b, none⟩).map fun p => (p.1, { p.2 with opn := p.2.opn.map fun o =>
        { o with args := o.args.map fun a =>
          if a.known.isNone ∧ a.idx = i then { a with known := some b } else a } })
      s := landTakes x.s i b, v := landTakes x.v i b, m := landTakes x.m i b
      fl := fl.map (·.1)
      held := x.held.filterMap fun h => (h.cube.land i b).map fun k => { h with cube := k }
      defer := x.defer.filterMap fun e => (e.cube.land i b).map fun k => { e with cube := k }
      ar := x.ar.drop (gone + fl.foldl (fun n p => n + p.2) 0)
      poison := x.poison.filterMap fun p => (p.cube.land i b).map fun k => { p with cube := k }
      brd := x.brd.map fun d =>
        if d.lit.idx = i ∧ d.taken.isNone then { d with taken := some (b != d.lit.neg), effect := c + 1 } else d }

/-- Insert a held store into the release order: the cycle in which its cube became true (its `due`), then issue cycle, slot, order of
the pairs (R186). -/
def insertHeld (h : Store) : List Store → List Store
  | [] => [h]
  | g :: r =>
    if h.due < g.due || (h.due == g.due && (h.iat < g.iat || (h.iat == g.iat && (h.slot < g.slot ||
        (h.slot == g.slot && h.ord < g.ord))))) then h :: g :: r
    else g :: insertHeld h r

/-- The first trap of a list in the order of R190. -/
def firstTrap : List Trap → Option Trap
  | [] => none
  | t :: r => match firstTrap r with
    | none => some t
    | some u => if u.before t then some u else some t

/-- Step 3 of R176, once every guard due in the cycle has landed: held stores whose cubes are true go to the release order;
deferred entries whose cubes are true record their events, and the first of their traps is taken (R190). The others stay in
the table and are taken at ERET. -/
def State.resolve (s : State) (n k : Nat) : State :=
  let x := s.ctx n k
  let free := (x.held.filter fun h => h.cube.isTrue).map fun h => { h with due := s.cyc }
  let idle := x.relq.isEmpty
  let x := { x with
    held := x.held.filter fun h => !h.cube.isTrue
    relq := free.foldl (fun q h => insertHeld h q) x.relq }
  let now := x.defer.filter fun e => e.cube.isTrue && !e.due
  let x := { x with
    ar := x.ar.record s.cyc (now.foldl (fun a e => evOr a e.ev) 0)
    defer := (x.defer.filter fun e => !(e.cube.isTrue && !e.due && e.trap.isNone)).map fun e =>
      if e.cube.isTrue then { e with due := true, ev := 0 } else e }
  let issuing := x.fault.isNone && x.q.st != .stopped && x.q.st != .free
  let t := firstTrap ((now.filterMap (·.trap)).filter fun t => !x.q.sup || t.sup)
  let s := s.setCtx n k (match t with
    | some t => if issuing then { x with defer := x.defer.filter fun e => e.trap ≠ some t } else x
    | none => x)
  let s := match t with
    | some t => if issuing then s.lateFault n k t else s
    | none => s
  if free.isEmpty || !idle then s
  else s.sched (s.cyc + 1) phRelease n k 0 (.heldStoreRelease n k)

end Sys2Proof.Machine
end

