-- ==== Sys2Proof/Machine/Operands.lean ====
section
/-! DEFINITION. Operand forms: register sources and their takes (R133, R178), immediates and source-b codes (R59, Table 03-11),
port and result-queue pops (R135, R187), and the destinations: take-capable and cold registers (R20, R180), guards (R175) and
single-valued operands (R79, R188). -/

namespace Sys2Proof.Machine

/-- The outcome of an instruction whose checks are a computation: its effects, or the fault it raises in its bundle. -/
def State.finish (s : State) (r : Except Flt State) : Host.Outcome State Fault Refusal :=
  .next (match r with
    | .ok t => t
    | .error f => s.raiseFlt f)

/-! ### Sources -/

/-- A source operand: its takes, whether it is a cold register (R20), and whether it is poisoned (R338). -/
structure Src where
  ts : List Take
  cold : Bool
  poison : Bool
  reg : Nat
  deriving DecidableEq, Repr

/-- A source that is one value for all takes: an immediate or a pop (R178). -/
def Src.const (v : Vec) : Src := ⟨oneTake v, false, false, 0⟩

/-- The source a register field names. -/
def State.src (s : State) (c : RCls) (r : Nat) : Src :=
  let p := s.me.phys c r
  ⟨s.me.takes c p, c = .v ∧ 32 ≤ p, s.poisonReg c p, p⟩

/-- The poison fault of the first poisoned source (R338). -/
def checkPoison : List Src → Except Flt Unit
  | [] => .ok ()
  | x :: r => if x.poison then .error ⟨0x0C, 0, 0, x.reg⟩ else checkPoison r

/-- The cycles that cold sources add to every offset of an instruction (R20). -/
def coldAdd (l : List Src) : Nat := if l.any (·.cold) then 2 else 0

/-- One element for each jointly satisfiable combination of one take from each source, the first source slowest (R178). -/
def product : List (List Take) → List (Cube × List Vec)
  | [] => [(Cube.tt, [])]
  | ts :: r => ts.flatMap fun t => (product r).filterMap fun p => (t.cube.conj p.1).map fun k => (k, t.x :: p.2)

/-- An operand that must hold one take (R79, R133, R188): its value. -/
def State.single (s : State) (c : RCls) (r : Nat) : Except Flt Vec :=
  let x := s.src c r
  match x.ts with
  | [t] => if x.poison then .error ⟨0x0C, 0, 0, x.reg⟩ else .ok t.x
  | _ => .error ⟨0x08, 3, x.reg, 0⟩

/-- A single-take scalar operand as a number. -/
def State.singleS (s : State) (r : Nat) : Except Flt Nat := (s.single .s r).map fun v => (toWord v).toNat

/-- A register of several takes has no one value: the take fault of the first such operand (R188), which comes before that of an
outstanding BRD (R358 step 4). -/
def State.unguarded (s : State) (ops : List (RCls × Nat)) : Except Flt Unit :=
  match ops.find? fun p => (s.src p.1 p.2).ts.length ≠ 1 with
  | some p => .error ⟨0x08, 3, (s.src p.1 p.2).reg, 0⟩
  | none => s.noBrd

/-- The value of a scalar operand for the checks that an instruction lists before its takes: none if it holds several takes or is
poisoned, which `singleS` then raises (log 70). -/
def State.valS (s : State) (r : Nat) : Option Nat := (s.singleS r).toOption

/-- A check of an operand that has a value. -/
def checkVal (o : Option Nat) (f : Nat → Except Flt Unit) : Except Flt Unit := o.elim (.ok ()) f

/-- The write literal of an instruction with guard literal `g` (R177). -/
abbrev State.wlit (s : State) (g : Lit) : Option Cube := s.me.wlit s.cyc g

/-- The write literal as a destination that holds one value sees it (R20, R133, R191): an own literal that is open stays open where it
contradicts that of an outstanding BRD, so that what the rules forbid under an open literal is found. -/
def State.openLit (s : State) (g : Lit) : Option Cube :=
  match s.wlit g, s.me.lit s.cyc g, s.me.brdLit s.cyc with
  | some w, _, _ => some w
  | none, .opn k, .opn _ => some k
  | none, _, _ => none

/-- What an instruction comes to that can never write register `r`: nothing, but a cold register is not written under an open
literal (R20). -/
def State.noWrite (s : State) (g : Lit) (c : RCls) (r : Nat) : Except Flt State :=
  if c = .v ∧ 32 ≤ s.me.phys c r ∧ (s.openLit g).isSome then .error ⟨0x08, 8, s.me.phys c r, 0⟩ else .ok s

/-! ### Lanes (R5) -/

/-- The `n` lanes of width `w` of a register value. -/
def lanesOf (w n : Nat) (v : Vec) : List Nat :=
  let x := v.toNat
  (List.range n).map fun i => x / 2 ^ (w * i) % 2 ^ w

/-- The number of a list of lanes of width `w`, lane 0 lowest. -/
def packNat (w : Nat) (l : List Nat) : Nat := l.foldr (fun d a => d % 2 ^ w + 2 ^ w * a) 0

/-- The register value of a list of lanes. -/
def pack (w : Nat) (l : List Nat) : Vec := BitVec.ofNat 2048 (packNat w l)

/-- The lane width of a type column of the integer rows: .i32, .i16, .i8, .i4. -/
def intWidth (ty : Nat) : Nat := 32 / 2 ^ ty

/-- The format of a type column of the floating-point rows: .f32, .bf16, .f16. -/
def fpFmt (ty : Nat) : Fmt :=
  match ty with
  | 0 => .f32
  | 1 => .bf16
  | _ => .f16

/-- An immediate in every lane of width `w` (R59). -/
def immInt (w : Nat) (i : Int) : Vec := pack w (List.replicate (2048 / w) (wrapInt w i))

/-- An immediate converted exactly into every lane of a format (R59). -/
def immFp (f : Fmt) (i : Int) : Vec :=
  pack f.width (List.replicate (2048 / f.width) (f.round false .rne (.fin (i < 0) i.natAbs 0 false)).1)

/-! ### Pops -/

/-- Whether an instruction with guard literal `g` pops at issue: its own literal has not landed false. An open literal, or the
shadow of a BRD, leaves the pop (R135, R187); where the literal has landed false the instruction does nothing, and pops nothing
(R172, log 11). -/
def State.pops (s : State) (g : Lit) : Bool := s.me.lit s.cyc g != .const false

/-- Pop one segment of a result queue (R135, R197, R210). -/
def State.popOq (s : State) (g : Lit) (q : Nat) : Except Flt (State × Seg) :=
  let a := s.myCore.arr
  if !s.pops g then .ok (s, ⟨0, 0⟩)
  else if a.owner ≠ some s.iss.ctx then .error ⟨0x0F, 0, a.owner.getD 4, 0⟩
  else match agetD a.oq q [] with
  | [] => .error ⟨0x06, 1, q, 0⟩
  | e :: r => .ok (s.modArr s.iss.core (fun x => { x with oq := aset x.oq q r }), e)

/-- The source of a source-b code (Table 03-11) of an instruction with guard literal `g`: a fast register, a port, which is popped
once for all takes (R135, R187), or an immediate, for which `imm` gives the lanes. -/
def State.srcB (s : State) (g : Lit) (vb : Nat) (imm : Int → Vec) : Except Flt (State × Src) :=
  if vb < 32 then .ok (s, s.src .v vb)
  else if vb < 40 then
    if !s.pops g then .ok (s, Src.const 0)
    else (s.pop s.iss.core s.iss.ctx (vb - 32) s.iss.slot false).map fun p => (p.1, Src.const p.2.row)
  else .ok (s, Src.const (imm ((vb : Int) - 48)))

/-! ### Destinations -/

/-- Put a result in flight (R133): the pairs under the write literal, landing at cycle `due`. -/
def State.flight (s : State) (w : Cube) (due : Nat) (c : RCls) (reg : Nat) (pairs : List Pair) : State :=
  let s := s.fresh
  let live := pairs.filter fun p => (p.cube.conj w).isSome
  let f : Flight :=
    { id := s.seqNo, due := due, cls := c, reg := reg, pairs := live, w := w, dead := false,
      slot := s.iss.slot, fpc := s.iss.pc, iat := s.cyc, sup := s.me.q.sup }
  (s.modMe fun x => { x with fl := x.fl ++ [f] }).sched due phLand s.iss.core
    s.iss.ctx s.seqNo (.resultLanding s.iss.core s.iss.ctx s.seqNo)

/-- Write result pairs to a take-capable or cold register named by field `r`, at latency `lat` (R133). A cold destination takes
one pair under no open guard (R20). `project` applies the projection of R180: above four takes the context holds with `.hold` or
beside a waiting TAKE.WAIT, and otherwise faults. -/
def State.writeBack (s : State) (w : Cube) (h project : Bool) (lat : Nat) (c : RCls) (r : Nat) (pairs : List Pair) :
    Except Flt State :=
  let reg := s.me.phys c r
  if c = .v ∧ 32 ≤ reg then
    if 1 < pairs.length ∨ !w.isTrue then .error ⟨0x08, 8, reg, 0⟩
    else .ok (s.flight w (s.cyc + lat) c reg pairs)
  else if project ∧ ¬ (c = .s ∧ reg = 0) ∧
      4 < (landWrite (s.me.takes c reg) (pairs.map fun p => (p.cube, p.x)) w).length then
    if h || s.iss.tw then .ok { s with iss := { s.iss with hold := true } }
    else .error ⟨0x08, 1, reg, 0⟩
  else .ok (s.flight w (s.cyc + lat) c reg pairs)

/-- Guard `gd` with a new instance, which lands in cycle `due` (R174). -/
def State.openAt (s : State) (gd due : Nat) (op : GOp) (args : List GArg) : State :=
  let s := s.fresh
  (s.modMe fun x => { x with g := aset x.g gd { x.guard gd with opn := some ⟨s.cyc, due, op, args⟩ } }).sched
    due phGuard s.iss.core s.iss.ctx s.seqNo (.guardLanding s.iss.core s.iss.ctx gd)

/-- Open guard `gd` until cycle `due` (R174): the instruction's literal must not be open, nor the guard (R133, R175). A write
of g0 is discarded (R19). -/
def State.openGuard (s : State) (w : Cube) (gd due : Nat) (op : GOp) (args : List GArg) : Except Flt State :=
  if !w.isTrue then .error ⟨0x08, 3, gd, 0⟩
  else if gd ≠ 0 ∧ (s.me.guard gd).opn.isSome then .error ⟨0x08, 2, gd, 0⟩
  else if gd = 0 then .ok s
  else .ok (s.openAt gd due op args)

/-- A value that a guard will land with. -/
def GArg.ofBool (b : Bool) : GArg := ⟨some b, 0, false⟩

/-! ### The shapes of scalar and vector instructions -/

/-- A scalar operation of latency `lat`: one result for each combination of takes (R133, R178). -/
def State.opS (s : State) (g : Lit) (h : Bool) (lat sd : Nat) (srcs : List Src) (f : List Nat → Nat) : Except Flt State :=
  match s.wlit g with
  | none => .ok s
  | some w => do
    checkPoison srcs
    let pairs := (product (srcs.map (·.ts))).map fun p =>
      (⟨p.1, ofWord (BitVec.ofNat 64 (f (p.2.map fun v => (toWord v).toNat))), 0, none⟩ : Pair)
    s.writeBack w h true lat .s sd pairs

/-- A vector operation on whole registers, unmasked: the value with its events for each combination of takes. -/
def State.opWhole (s : State) (g : Lit) (lat : Nat) (c : RCls) (d : Nat) (srcs : List Src) (f : List Vec → Vec × Nat) :
    Except Flt State :=
  match s.wlit g with
  | none => s.noWrite g c d
  | some w => do
    checkPoison srcs
    let pairs := (product (srcs.map (·.ts))).map fun p =>
      let r := f p.2
      (⟨p.1, r.1, r.2, none⟩ : Pair)
    s.writeBack w false true (lat + coldAdd srcs) c d pairs

/-- The lanes of a masked operation (R134): the operation where the mask bit is 1, the old lane elsewhere; the events of the
active lanes. `ins` holds the source lanes, one list per lane. -/
def maskedLanes (op : List Nat → Nat × Nat) (q : Nat) : Nat → List (List Nat) → List Nat → List Nat × Nat
  | i, a :: as, o :: os =>
    let r := maskedLanes op q (i + 1) as os
    if q / 2 ^ i % 2 = 1 then
      let v := op (a ++ [o])
      (v.1 :: r.1, evOr v.2 r.2)
    else (o :: r.1, r.2)
  | _, _, _ => ([], 0)

/-- The lanes of several sources, lane by lane. -/
def zipLanes (w n : Nat) (vs : List Vec) : List (List Nat) :=
  let ls := vs.map (lanesOf w n)
  (List.range n).map fun i => ls.map fun l => l.getD i 0

/-- A lane-wise vector operation masked by m0 (R134), in lanes of width `lw`. The operation is given the lanes of the sources
and last the lane of vd, which is a source where `useVd` says so or where some lane is inactive. `ev` is recorded with the
operation's own events (R135). -/
def State.opLanes (s : State) (g : Lit) (lat lw vd : Nat) (srcs : List Src) (useVd : Bool) (ev : Nat)
    (op : List Nat → Nat × Nat) : Except Flt State :=
  match s.wlit g with
  | none => s.noWrite g .v vd
  | some w => do
    let n := 2048 / lw
    let m := s.src .m 0
    let d := s.src .v vd
    let part (q : Vec) : Bool := q.toNat % 2 ^ n != 2 ^ n - 1
    let rdVd := useVd || m.ts.any fun t => part t.x
    checkPoison (srcs ++ [m] ++ (if rdVd then [d] else []))
    let pairs := (product ((srcs.map (·.ts)) ++ [m.ts])).flatMap fun p =>
      let q := p.2.getLastD 0
      let ins := zipLanes lw n p.2.dropLast
      let run (k : Cube) (o : Vec) : Pair :=
        let r := maskedLanes op q.toNat 0 ins (lanesOf lw n o)
        ⟨k, pack lw r.1, evOr ev r.2, none⟩
      if useVd || part q then d.ts.filterMap fun t => (p.1.conj t.cube).map fun k => run k t.x
      else [run p.1 0]
    s.writeBack w false true (lat + coldAdd (srcs ++ (if rdVd then [d] else []))) .v vd pairs

end Sys2Proof.Machine
end

