-- ==== Sys2Proof/Machine/Tasks.lean ====
section
/-! DEFINITION. What binds a bundle and its task: targets (R311), the rules of the bundle as a whole (R358 step 3), and the halts,
triggers and banks of a task (R85, R86, R105). -/

namespace Sys2Proof.Machine

/-! ### Targets (R53, R311) -/

/-- The fetch fault of an instruction address (R311). -/
def fetchFlt (a : Nat) : Flt := ⟨0x0A, 4, 16, a⟩

/-- Check a transfer's target against the instruction pages. -/
def State.target (s : State) (sup : Bool) (a : Nat) : Except Flt Nat :=
  if (s.me.fetchPa sup a).isSome then .ok a else .error (fetchFlt a)

/-- The instruction address `off` bundles from the one being issued (R53). -/
def State.rel (s : State) (off : Int) : Nat := wrapInt 64 ((s.iss.pc : Int) + 32 * off)

/-! ### Rules of the bundle as a whole (R358 step 3) -/

/-- Instructions that must stand in a slate bundle (R45, R78, R287, R290). -/
def slateOnly : Instr → Bool
  | .halt | .yieldC | .brk _ | .syscall _ | .scene _ | .tqsend _ _ | .tqrecv _ _ | .bar _ _ _ | .hring _ | .combine _ _ => true
  | _ => false

/-- Instructions whose bundle holds nothing else (R78, R249). -/
def aloneOnly : Instr → Bool
  | .brk _ | .syscall _ | .psave => true
  | _ => false

/-- The C instructions, NOP apart. -/
def control : Instr → Bool
  | .br _ | .brc _ _ | .brd _ _ | .jt _ _ | .call _ | .callg _ | .ret | .loopReg _ | .loopImm _ | .lend | .halt | .trigger
  | .yieldC | .trap _ | .brk _ | .eret | .syscall _ | .waitc _ | .slateQ _ | .slateT _ | .scene _ => true
  | _ => false

/-- C instructions that may issue while a BRD is outstanding (R79). -/
def underBrd : Instr → Bool
  | .trap _ | .slateQ _ | .slateT _ => true
  | _ => false

/-- C instructions that fault while a loop level is open (R84). -/
def noLoop : Instr → Bool
  | .jt _ _ | .call _ | .callg _ | .ret | .syscall _ | .eret => true
  | _ => false

/-- The word of an instruction of the bundle being issued, the header of slot 0 included (Table 18-1). -/
def State.wordOf (s : State) (i : Instr) : Nat := encode i + (if s.iss.slot = 0 then s.iss.hdr.code else 0)

/-- The illegal-bundle fault of a rule about placement (fate 4). -/
def State.placeFlt (s : State) (i : Instr) : Flt := ⟨0x01, 4, s.wordOf i, 0⟩

/-- The placement rules of an instruction: slate, alone, persist slate. -/
def State.rulePlace (s : State) (i : Instr) : Except Flt Unit :=
  if (slateOnly i && !s.iss.hdr.sl) || (aloneOnly i && decide (1 < s.iss.count)) || (i = .psave && !s.iss.hdr.ps) then
    .error (s.placeFlt i)
  else .ok ()

/-- The delay-bundle rule and an outstanding BRD (R79). -/
def State.ruleSeq (s : State) (i : Instr) : Except Flt Unit :=
  if control i && s.me.q.xfer.isSome then .error (s.placeFlt i)
  else if control i && !underBrd i && s.me.brdOut s.cyc then .error ⟨0x08, 4, s.me.brd.elim 0 (·.lit.idx), 0⟩
  else .ok ()

/-- Whether the count that a LOOP takes from a register is too large. One that cannot be read is for the instruction's own checks. -/
def State.longCount (s : State) (i : Instr) : Option Flt :=
  match i with
  | .loopReg sa =>
    match s.singleS sa with
    | .ok n => if 2 ^ 48 ≤ n then some ⟨0x05, 2, s.me.phys .s sa, 0⟩ else none
    | .error _ => none
  | _ => none

/-- The loop limits, in the order in which R83 gives them: a count too large comes before a seventh level (R83, R84). -/
def State.ruleLoop (s : State) (i : Instr) : Except Flt Unit :=
  let ls := s.me.q.loops
  let bad : Bool := match i with
    | .loopReg _ | .loopImm _ => decide (6 ≤ ls.length)
    | .lend => ls == []
    | i => noLoop i && ls != []
  match s.longCount i with
  | some f => .error f
  | none => if bad then .error (s.placeFlt i) else .ok ()

/-- The rules of an instruction that its bundle must keep. -/
def State.rules (s : State) (i : Instr) : Except Flt Unit := do
  s.rulePlace i
  s.ruleSeq i
  s.ruleLoop i

/-- R193: no guard of the context may be open. -/
def State.noOpen (s : State) : Except Flt Unit :=
  match (List.range 16).find? fun i => s.me.gopen s.cyc i with
  | some i => .error ⟨0x08, 3, i, 0⟩
  | none => .ok ()

/-! ### Tasks -/

/-- The scratchpad banks in a mask that task `id` holds on core `n` become free (R85, R105, R326). -/
def State.freeBanks (s : State) (id n mask : Nat) : State :=
  { s with banks := s.banks.filter fun b =>
      !(b.1 / 16 = n && b.2 = id && mask / 2 ^ (b.1 % 16) % 2 = 1) }

/-- The fields ACQ and REL of a task descriptor (Table 04-6). -/
def descAcq (d : BitVec 512) : Nat := bits d.toNat 111 96
def descRel (d : BitVec 512) : Nat := bits d.toNat 127 112

/-- Key of a task in the completion table: partition and TASKID[11:0] (R107). -/
def compKey (part taskid : Nat) : Nat := part * 4096 + taskid % 4096

/-- Set the completion-table entry of a task. -/
def State.setComp (s : State) (t : Task) (c : CompSt) : State :=
  { s with comp := aset s.comp (compKey t.part t.taskid) (t.taskid, c) }

/-- Whether every core of a task's gang has issued TRIGGER or HALT (R106). -/
def Task.allTriggered (t : Task) : Bool := t.place.all fun p => t.halted.contains p.1 || t.trig.contains p.1

/-- The task is triggered in the next cycle, once every core has reached its trigger point (R106). -/
def State.tryTrigger (s : State) (id : Nat) : State :=
  match s.task? id with
  | some t => if t.allTriggered && !t.trigDone then
      (s.modTask id fun t => { t with trigDone := true }).sched (s.cyc + 1) phSched 0 1 id (.taskTrigger id) else s
  | none => s

/-- Context `k` of core `n` has nothing more to do with the core's array: it is free if the context owned it (R196), and the
continuations of its rows are gone (R204). -/
def State.leaveArr (s : State) (n k : Nat) : State :=
  s.modArr n fun a => { a with
    owner := if a.owner = some k then none else a.owner
    conts := a.conts.filter fun c => c.pass.ctx ≠ k }

/-- The windows of a context, with one whose BIND is in flight (R316), unless that takes effect in cycle `c`. -/
def Ctx.windows (x : Ctx) (c : Nat) : List Win := x.win.map (·.2) ++ ((x.bind.filter (·.due ≠ c)).bind (·.new)).toList

/-- The issuing context's part in its task ends (R85): it is free, its array is free (R196), its REL banks are released. The pages of its
windows stay pinned until the task ends (R231). -/
def State.haltMe (s : State) : State :=
  let n := s.iss.core
  let k := s.iss.ctx
  let id := s.me.q.task
  let s := s.leaveArr n k
  let s := s.modSeq n k fun q => { q with st := .free, task := 0, owns := false }
  let s := match s.task? id with
    | some t => s.freeBanks id n (descRel t.desc)
    | none => s
  let ws := s.me.windows 0
  let s := s.modTask id fun t => { t with halted := t.halted ++ [n], last := max t.last s.cyc, wins := t.wins ++ ws }
  ((s.tryTrigger id).tryComplete id).switch n

end Sys2Proof.Machine
end

