-- ==== Sys2Proof/Machine/Control.lean ====
section
/-! DEFINITION. The control instructions (04_progress.md R78 to R91, 07_takes.md R192). The driver of the bundle
(Sequencer.lean) has set `npc` to the next bundle in sequence; a transfer sets it, or the transfer under way. -/

namespace Sys2Proof.Machine

/-- Begin a transfer with three delay bundles (R79). -/
def State.transfer (s : State) (t : Nat) (eret : Option Bool) : State :=
  s.modSeq s.iss.core s.iss.ctx fun q => { q with xfer := some ⟨t, 3, eret⟩ }

/-- A computed target ignores bits [4:0] (R79). -/
def align32 (a : Nat) : Nat := a / 32 * 32

/-- Raise a fault at point A: the bundle issues, and the fault is taken then (R88). -/
def State.postTrap (s : State) (t : Trap) : State := { s with iss := { s.iss with post := some t } }

/-- NOP (R48). -/
def execNop (s : State) : Host.Outcome State Fault Refusal := .next s

/-- A word of a defined no-operation range issues as NOP (R49). -/
def execDefinedNop (_c : Cls) (_w : Nat) (s : State) : Host.Outcome State Fault Refusal := .next s

/-- BR (R80). -/
def execBr (off : Int) (s : State) : Host.Outcome State Fault Refusal :=
  s.finish (do
    s.rules (.br off)
    let t ← s.target s.me.q.sup (s.rel off)
    .ok (s.jump s.iss.core s.iss.ctx t))

/-- BRC (R80): its guard must not be open. -/
def execBrc (l : Lit) (off : Int) (s : State) : Host.Outcome State Fault Refusal :=
  s.finish (do
    s.rules (.brc l off)
    match s.me.lit s.cyc l with
    | .opn _ => .error ⟨0x08, 3, l.idx, 0⟩
    | .const false => .ok s
    | .const true =>
      let t ← s.target s.me.q.sup (s.rel off)
      .ok (s.jump s.iss.core s.iss.ctx t))

/-- BRD (R39, R192): outstanding from the next bundle on; its effect is the event BRD_EFFECT. -/
def execBrd (l : Lit) (off : Int) (s : State) : Host.Outcome State Fault Refusal :=
  s.finish (do
    s.rules (.brd l off)
    let n := s.iss.core
    let k := s.iss.ctx
    let b : Brd := { lit := l, issued := s.cyc, target := s.rel off, fpc := s.iss.pc, taken := none, effect := 0 }
    match s.me.lit s.cyc l with
    | .opn _ => .ok (s.modMe fun x => { x with brd := some b })
    | .const t => .ok ((s.modMe fun x => { x with brd := some { b with taken := some t, effect := s.cyc + 1 } }).sched
        (s.cyc + 1) phCtx n k 0 (.brdEffect n k)))

/-- JT (R81): the storyboard word at sb + 8 × sa, read under the rules of a scalar load. -/
def execJt (sa sb : Nat) (s : State) : Host.Outcome State Fault Refusal :=
  s.finish (do
    s.rules (.jt sa sb)
    s.noOpen
    let a ← s.singleS sa
    let b ← s.singleS sb
    let pa ← translate s.me s.iss.core .load ((b : Int) + 8 * a) 8 8 false
    let s ← s.claim s.iss.core s.iss.slot [offOf pa]
    match s.poisonFlt pa 8 with
    | some f => .error f
    | none =>
      let t ← s.target s.me.q.sup (align32 (s.load pa 8))
      .ok (s.transfer t none))

/-- A call: s55 lands at issue + 1 with the return address (R82). -/
def State.callTo (s : State) (a : Nat) : Except Flt State := do
  let t ← s.target s.me.q.sup a
  .ok ((s.flight Cube.tt (s.cyc + 1) .s 55 [⟨Cube.tt, ofWord (BitVec.ofNat 64 (s.iss.pc + 128)), 0, none⟩]).transfer t none)

/-- CALL (R82). -/
def execCall (off : Int) (s : State) : Host.Outcome State Fault Refusal :=
  s.finish (do
    s.rules (.call off)
    s.noOpen
    s.callTo (s.rel off))

/-- CALLG (R82). -/
def execCallg (sa : Nat) (s : State) : Host.Outcome State Fault Refusal :=
  s.finish (do
    s.rules (.callg sa)
    s.noOpen
    let t ← s.singleS sa
    s.callTo (align32 t))

/-- RET (R82): to the address in s55. -/
def execRet (s : State) : Host.Outcome State Fault Refusal :=
  s.finish (do
    s.rules .ret
    s.noOpen
    let a ← s.singleS 55
    let t ← s.target s.me.q.sup (align32 a)
    .ok (s.transfer t none))

/-- ERET (R88, R322): to TPC, at the privilege that TCAUSE.PPRIV holds at issue. -/
def execEret (s : State) : Host.Outcome State Fault Refusal :=
  s.finish (do
    s.rules .eret
    if s.me.q.sup = false then .error ⟨0x02, 1, 0, 0⟩
    s.noOpen
    let p := s.me.tr.tcause.toNat / 2 ^ 24 % 2 == 1
    let t ← s.target p (align32 s.me.tr.tpc.toNat)
    .ok (s.transfer t (some p)))

/-- Where the rings of the LOOP at instruction address `pc` of partition `p` stand (R37, log 20). -/
def rotKey (p pc : Nat) : Nat := p * 2 ^ 64 + pc

/-- Open a loop level of `n` iterations (R83) with the rings that stand before it (R37). -/
def State.openLoop (s : State) (n : Nat) : State :=
  let rings := agetD s.rot (rotKey s.me.q.part s.iss.pc) []
  s.modSeq s.iss.core s.iss.ctx fun q => { q with loops := ⟨s.iss.pc + 32, n, 0, n == 0, rings⟩ :: q.loops }

/-- LOOP s (R83). -/
def execLoopReg (sa : Nat) (s : State) : Host.Outcome State Fault Refusal :=
  s.finish (do
    s.rules (.loopReg sa)
    let n ← s.singleS sa
    .ok (s.openLoop n))

/-- LOOP #n (R83). -/
def execLoopImm (n : Nat) (s : State) : Host.Outcome State Fault Refusal :=
  s.finish (do
    s.rules (.loopImm n)
    .ok (s.openLoop n))

/-- LEND (R83): the level's next iteration, or its end. -/
def execLend (s : State) : Host.Outcome State Fault Refusal :=
  s.finish (do
    s.rules .lend
    .ok (s.modSeq s.iss.core s.iss.ctx fun q =>
      match q.loops with
      | [] => q
      | l :: r =>
        if l.iter + 1 < l.count then { q with loops := { l with iter := l.iter + 1 } :: r, npc := l.start }
        else { q with loops := r, body := if r = [] then [] else q.body }))

/-- HALT (R85). -/
def execHalt (s : State) : Host.Outcome State Fault Refusal :=
  s.finish (do
    s.rules .halt
    .ok s.haltMe)

/-- TRIGGER (R86). -/
def execTrigger (s : State) : Host.Outcome State Fault Refusal :=
  s.finish (do
    s.rules .trigger
    let n := s.iss.core
    let id := s.me.q.task
    .ok ((s.modTask id fun t => { t with trig := if t.trig.contains n then t.trig else t.trig ++ [n] }).tryTrigger id))

/-- YIELD (R87): blocks once if another context of the core is ready. -/
def execYieldC (s : State) : Host.Outcome State Fault Refusal :=
  s.finish (do
    s.rules .yieldC
    if !s.me.q.yielded && s.myCore.nextReady.isSome then .ok { s with iss := { s.iss with block := some .yield } }
    else .ok s)

/-- TRAP (R88): a breakpoint fault after the bundle; in the shadow of a BRD it acts under its literal (R79, R189) and enters
its trap in the table at issue (log 109). -/
def execTrap (n : Nat) (s : State) : Host.Outcome State Fault Refusal :=
  s.finish (do
    s.rules (.trap n)
    let t := s.mkTrap 0x0E 0 n 0
    match s.wlit Lit.always with
    | none => .ok s
    | some w =>
      if w.isTrue then .ok (s.postTrap t)
      else match s.me.deferAdd w 0 (some { t with defer := true }) with
      | none => .error ⟨0x08, 6, 0, 0⟩
      | some x => .ok (s.setMe x))

/-- BRK (R88): its bundle counts as issued and has no effect. -/
def execBrk (n : Nat) (s : State) : Host.Outcome State Fault Refusal :=
  s.finish (do
    s.rules (.brk n)
    .ok (s.postTrap (s.mkTrap 0x0E 1 n 0)))

/-- SYSCALL (R88): enters the supervisor with its service number; at supervisor privilege a privilege fault (R324). -/
def execSyscall (n : Nat) (s : State) : Host.Outcome State Fault Refusal :=
  s.finish (do
    s.rules (.syscall n)
    if s.me.q.sup then .error ⟨0x02, 3, n, 0⟩
    s.noOpen
    .ok (s.postTrap { s.mkTrap 0 (n % 256) n 0 with sys := true }))

/-- Wait until cycle `b`, if it lies beyond the next one (R89, R90). -/
def State.waitTill (s : State) (b : Nat) (scene : Bool) : State :=
  let n := s.iss.core
  let k := s.iss.ctx
  if s.cyc + 1 < b then
    (s.modSeq n k fun q => { q with st := .waiting, wait := some ⟨b, scene⟩ }).sched b phCtx n k 0 (.waitEnd n k)
  else s

/-- WAITC (R89). -/
def execWaitc (sa : Nat) (s : State) : Host.Outcome State Fault Refusal :=
  s.finish (do
    s.rules (.waitc sa)
    let t ← s.singleS sa
    if s.cyc + 2 ^ 24 < t then .error ⟨0x05, 3, s.me.phys .s sa, 0⟩
    .ok (s.waitTill t false))

/-- The scene of a context begins anew with base `b` (R90): SCENEBASE becomes `b` when the next bundle issues, which stands at
scene-relative cycle 0. In a handler its SCENEBASE and scene-relative cycle stay (R76). User code that a handler has returned to
elsewhere than at the stop point begins a scene of its own: the stop point is left behind. -/
def Seq.newScene (q : Seq) (b : Nat) : Seq :=
  let q := { q with scn := q.scn + 1, span := 0 }
  if q.away.isSome && q.sup then q else { q with newBase := some b, srel := 0, away := none }

/-- SCENE (R90): the new scene base LASTREL + d, and a wait without slip until it. -/
def execScene (d : Nat) (s : State) : Host.Outcome State Fault Refusal :=
  s.finish (do
    s.rules (.scene d)
    let b := s.me.q.lastrel + d
    if b < s.cyc + 1 then .error ⟨0x05, 3, 0x14, 0⟩
    .ok ((s.modSeq s.iss.core s.iss.ctx fun q => q.newScene b).waitTill b true))

/-- Write a value of the sequencer to a scalar register as an ALU result (R91), under the literal of an outstanding BRD. -/
def State.seqResult (s : State) (sd v : Nat) : State :=
  match s.wlit Lit.always with
  | none => s
  | some w => s.flight w (s.cyc + 1) .s (s.me.phys .s sd) [⟨Cube.tt, ofWord (BitVec.ofNat 64 v), 0, none⟩]

/-- The slate status (Table 04-2). Bit 1, IRQ, reads the pending interrupt of the context; the spec names nothing that raises one, and
the model raises none (log 73). -/
def State.slateStatus (s : State) : Nat :=
  let q := s.me.q
  let rdy := (List.range 4).foldl (fun a k => a + (if (s.myCore.ctx k).q.st = .ready then 2 ^ (4 + k) else 0)) 0
  q.preT.isSome.toNat + q.irq.toNat * 2 + q.dbg.toNat * 4 + s.myCore.gateReq.toNat * 8 + rdy + min q.span 16384 * 2 ^ 32

/-- SLATE.q (R91). -/
def execSlateQ (sd : Nat) (s : State) : Host.Outcome State Fault Refusal :=
  s.finish (do
    s.rules (.slateQ sd)
    .ok (s.seqResult sd s.slateStatus))

/-- SLATE.t (R91): T', or all ones. -/
def execSlateT (sd : Nat) (s : State) : Host.Outcome State Fault Refusal :=
  s.finish (do
    s.rules (.slateT sd)
    .ok (s.seqResult sd (s.me.q.preT.getD (2 ^ 64 - 1))))

end Sys2Proof.Machine
end

