-- ==== Sys2Proof/Machine/ArrayFp.lean ====
section
/-! DEFINITION. The arithmetic of the matrix array and its drain (05_formats.md R115, R126 to R128, 08_matrix.md R213, R215, R216). -/

namespace Sys2Proof.Machine

/-! ### Elements and block scales -/

/-- The format of a matrix format code (Table 03-16); none for the integers. -/
def matFmt : Nat → Option Fmt
  | 0 => some .e2m1
  | 1 => some .e4m3
  | 2 => some .e5m2
  | 4 => some .bf16
  | _ => none

/-- Width of an element by format code. -/
def matWidth (f : Nat) : Nat := 2048 / fmtK f

/-- The exact value of an integer. -/
def FVal.ofInt (i : Int) : FVal := .fin (i < 0) i.natAbs 0 false

/-- The exact value of an element code. -/
def elemVal (f x : Nat) : FVal :=
  match matFmt f with
  | some g => g.val x
  | none => FVal.ofInt (sint (matWidth f) x)

/-- The exact value of an E3M5 block scale (R115). -/
def scaleVal (x : Nat) : FVal :=
  if x = 0xFF then .nan
  else if x / 32 = 0 then .fin false (x % 32) (-7) false
  else .fin false (x % 32 + 32) ((x / 32 : Nat) - 8) false

/-- The class of formats that pair with one another (Table 05-9). -/
def fmtClass (f : Nat) : Nat :=
  match f with
  | 0 | 5 => 0
  | 4 => 2
  | _ => 1

/-- Whether a stream format pairs with a bank format. -/
def pairs? (f : Nat) (bank : Option Nat) : Bool := bank.any fun g => fmtClass f = fmtClass g

def FVal.isNaN : FVal → Bool
  | .nan => true
  | _ => false

/-! ### Accumulation (R127) -/

/-- The events of an accumulation that a tile keeps: IV, OF, ZD, and UF at the C4 level (R206). -/
def tileEv (c4 : Bool) (ev : Nat) : Nat := ev &&& (evIV ||| evOF ||| evZD ||| (if c4 then evUF else 0))

/-- Add an exact contribution to an FP32 accumulator: the only rounding. -/
def accAdd (c4 : Bool) (acc : Nat) (c : FVal) : Nat × Nat :=
  let a := Fmt.f32.read c4 acc
  let r := a.1.add c
  match r.1 with
  | .nan => (Fmt.f32.nan, tileEv c4 (evOr a.2 r.2))
  | v =>
    let q := Fmt.f32.round c4 .rne v
    (q.1, tileEv c4 (evOr (evOr a.2 r.2) q.2))

/-- The exact sum of the products of a block, added in ascending order, with its events. -/
def dot (ps : List (FVal × FVal)) : FVal × Nat :=
  ps.foldl (fun d p =>
    let m := p.1.mul p.2
    let t := d.1.add m.1
    (t.1, evOr (evOr d.2 m.2) t.2)) (.fin false 0 0 false, 0)

/-- The contribution of a block whose products sum to `d`, with scales `x` and `y`. -/
def contribution (d x y : FVal) : FVal × Nat :=
  if d.isZero then (.fin false 0 0 false, if x.isNaN || y.isNaN then evZD else 0)
  else if x.isNaN || y.isNaN then (.nan, 0)
  else
    let p := d.mul x
    let q := p.1.mul y
    (if q.1.isZero then .fin false 0 0 false else q.1, evOr p.2 q.2)

/-- One block after another, in ascending K: the pairs of block scales, the pairs of elements, the accumulator with the events. -/
def rowColumn (c4 : Bool) : List (FVal × FVal) → List (FVal × FVal) → Nat × Nat → Nat × Nat
  | (x, y) :: sc, ps, acc =>
    let d := dot (ps.take 8)
    let c := contribution d.1 x y
    let r := accAdd c4 acc.1 c.1
    rowColumn c4 sc (ps.drop 8) (r.1, evOr acc.2 (evOr (tileEv c4 (evOr d.2 c.2)) r.2))
  | [], _, acc => acc

/-- The elements of a row by format code. -/
def elemsOf (f : Nat) (v : Vec) : List FVal := (lanesOf (matWidth f) (fmtK f) v).map (elemVal f)

/-- The block scales of a row. -/
def scalesOf (f : Nat) (v : BitVec 512) : List FVal :=
  (List.range (fmtBlocks f)).map fun i => scaleVal (v.toNat / 2 ^ (8 * i) % 256)

/-- Column `j` of a tile row. -/
def tileLane (r : BitVec 8192) (j : Nat) : Nat := r.toNat / 2 ^ (32 * j) % 2 ^ 32

def packRow (l : List Nat) : BitVec 8192 := BitVec.ofNat 8192 (packNat 32 l)

/-- A tile row after an activation row has passed through a bank copy, with its events (R203, R127). -/
def passRow (old : BitVec 8192) (r : RowFl) : BitVec 8192 × Nat :=
  let as := elemsOf r.afmt r.a
  let sa := scalesOf r.afmt r.sa
  let wf := r.w.fmt.getD 0
  let cols := (List.range 256).map fun j =>
    let ws := elemsOf wf (agetD r.w.cols j 0)
    let sw := scalesOf wf (agetD r.w.scl j unitScales)
    rowColumn r.c4 (sa.zip sw) (as.zip ws) (if r.init then 0 else tileLane old j, 0)
  (packRow (cols.map (·.1)), cols.foldl (fun a c => evOr a c.2) 0)

/-! ### Gradients (R216) -/

/-- Row `k` of a tile after the pairs of a gradient pass: each pair is the value of x_k with its scale, and the row of g with its
block scales. -/
def gradRow (c4 : Bool) (old : BitVec 8192) (k : Nat) (pairs : List ((List FVal × List FVal) × (List FVal × List FVal))) :
    BitVec 8192 × Nat :=
  let cols := (List.range 256).map fun j =>
    pairs.foldl (fun acc p =>
      let d := (p.1.1.getD k .nan).mul (p.2.1.getD j .nan)
      let c := contribution d.1 (p.1.2.getD (k / 8) .nan) (p.2.2.getD (j / 8) .nan)
      let r := accAdd c4 acc.1 c.1
      (r.1, evOr acc.2 (evOr (tileEv c4 (evOr d.2 c.2)) r.2))) (tileLane old j, 0)
  (packRow (cols.map (·.1)), cols.foldl (fun a c => evOr a c.2) 0)

/-! ### The drain (R128, R213, R215) -/

/-- The scale stage on one element: the exact product with the row's and the column's BF16 band scale, rounded once. At C4
a NaN carries the payload of the first of element, row scale and column scale (log 10). -/
def bandScale (c4 : Bool) (x rs cs : Nat) : Nat × Nat :=
  let a := Fmt.f32.read c4 x
  let r := Fmt.bf16.val rs
  let c := Fmt.bf16.val cs
  let odd (v : FVal) : Bool := match v with
    | .nan | .inf _ => true
    | .fin .. => false
  if a.1.isZero then (0, evOr a.2 (if odd r || odd c then evZD else 0))
  else
    let p := a.1.mul r
    let q := p.1.mul c
    Fmt.f32.finish c4 [x, rs * 2 ^ 16, cs * 2 ^ 16] (q.1, evOr (evOr a.2 p.2) q.2)

/-- Whether node `b` lies on the path from node `q` up to node 0, `q` included (R215). -/
def onPath (parent : List Nat) (b : Nat) : Nat → Nat → Bool
  | 0, _ => false
  | f + 1, q => q = b || (q != 0 && onPath parent b f (parent.getD q 0))

/-- Whether the tree mask leaves row `r`, column `c` unchanged (R215). -/
def Tree.keeps (t : Tree) (r c : Nat) : Bool :=
  let q := (t.rb + r) % 2 ^ 32
  let p := (t.cb + c) % 2 ^ 32
  t.n ≤ q || p < t.t || (p - t.t < t.n && onPath t.parent (p - t.t) 64 q)

/-- Rank of a list entry (R213): NaN, +∞, finite by value, -∞; equal ranks by lower index. -/
def rankBefore (a b : Nat × Nat) : Bool :=
  let na := Fmt.f32.isNan a.1
  let nb := Fmt.f32.isNan b.1
  if na != nb then na
  else
    let c := if na then 0 else (Fmt.f32.val a.1).cmp (Fmt.f32.val b.1)
    0 < c || (c == 0 && a.2 < b.2)

/-- Insert an entry into a list in descending rank, behind an older one of its value and index (log 119). -/
def rankInsert (e : Nat × Nat) : List (Nat × Nat) → List (Nat × Nat)
  | [] => [e]
  | x :: r => if rankBefore e x then e :: x :: r else x :: rankInsert e r

/-- The `k` of highest rank of a list and more entries. -/
def rankTop (k : Nat) (l new : List (Nat × Nat)) : List (Nat × Nat) :=
  new.foldl (fun l e => (rankInsert e l).take k) l

end Sys2Proof.Machine
end

