-- ==== Sys2Proof/Machine/Hash.lean ====
section
/-! DEFINITION. The hashes of the manual, CRC-32C (05_formats.md Table 05-11, 18_recovery.md Table 18-7) and SHA-512 (FIPS 180-4;
15_generation.md R278, 17_isolation.md R315), and the Ed25519 signature (RFC 8032; 17_isolation.md R317). -/

namespace Sys2Proof.Machine

/-- The `n` bytes of a little-endian number, in address order. -/
def bytesOf (n v : Nat) : List Nat := (List.range n).map fun i => v / 2 ^ (8 * i) % 256

/-- The little-endian number of a list of bytes. -/
def ofBytes (l : List Nat) : Nat := l.foldr (fun b a => b + 256 * a) 0

/-! ### CRC-32C -/

/-- One bit of CRC-32C with the reflected Castagnoli polynomial. -/
def crcBit (c : Nat) : Nat := if c % 2 = 1 then (c / 2) ^^^ 0x82F63B78 else c / 2

/-- One byte. -/
def crcByte (c b : Nat) : Nat := crcBit (crcBit (crcBit (crcBit (crcBit (crcBit (crcBit (crcBit (c ^^^ b))))))))

/-- CRC-32C of a list of bytes. -/
def crc32c (l : List Nat) : Nat := l.foldl crcByte 0xFFFFFFFF ^^^ 0xFFFFFFFF

/-! ### SHA-512 -/

/-- The round constants. -/
def shaK : List Word :=
  [0x428a2f98d728ae22, 0x7137449123ef65cd, 0xb5c0fbcfec4d3b2f, 0xe9b5dba58189dbbc] ++
  [0x3956c25bf348b538, 0x59f111f1b605d019, 0x923f82a4af194f9b, 0xab1c5ed5da6d8118] ++
  [0xd807aa98a3030242, 0x12835b0145706fbe, 0x243185be4ee4b28c, 0x550c7dc3d5ffb4e2] ++
  [0x72be5d74f27b896f, 0x80deb1fe3b1696b1, 0x9bdc06a725c71235, 0xc19bf174cf692694] ++
  [0xe49b69c19ef14ad2, 0xefbe4786384f25e3, 0x0fc19dc68b8cd5b5, 0x240ca1cc77ac9c65] ++
  [0x2de92c6f592b0275, 0x4a7484aa6ea6e483, 0x5cb0a9dcbd41fbd4, 0x76f988da831153b5] ++
  [0x983e5152ee66dfab, 0xa831c66d2db43210, 0xb00327c898fb213f, 0xbf597fc7beef0ee4] ++
  [0xc6e00bf33da88fc2, 0xd5a79147930aa725, 0x06ca6351e003826f, 0x142929670a0e6e70] ++
  [0x27b70a8546d22ffc, 0x2e1b21385c26c926, 0x4d2c6dfc5ac42aed, 0x53380d139d95b3df] ++
  [0x650a73548baf63de, 0x766a0abb3c77b2a8, 0x81c2c92e47edaee6, 0x92722c851482353b] ++
  [0xa2bfe8a14cf10364, 0xa81a664bbc423001, 0xc24b8b70d0f89791, 0xc76c51a30654be30] ++
  [0xd192e819d6ef5218, 0xd69906245565a910, 0xf40e35855771202a, 0x106aa07032bbd1b8] ++
  [0x19a4c116b8d2d0c8, 0x1e376c085141ab53, 0x2748774cdf8eeb99, 0x34b0bcb5e19b48a8] ++
  [0x391c0cb3c5c95a63, 0x4ed8aa4ae3418acb, 0x5b9cca4f7763e373, 0x682e6ff3d6b2b8a3] ++
  [0x748f82ee5defb2fc, 0x78a5636f43172f60, 0x84c87814a1f0ab72, 0x8cc702081a6439ec] ++
  [0x90befffa23631e28, 0xa4506cebde82bde9, 0xbef9a3f7b2c67915, 0xc67178f2e372532b] ++
  [0xca273eceea26619c, 0xd186b8c721c0c207, 0xeada7dd6cde0eb1e, 0xf57d4f7fee6ed178] ++
  [0x06f067aa72176fba, 0x0a637dc5a2c898a6, 0x113f9804bef90dae, 0x1b710b35131c471b] ++
  [0x28db77f523047d84, 0x32caab7b40c72493, 0x3c9ebe0a15c9bebc, 0x431d67c49c100d4c] ++
  [0x4cc5d4becb3e42b6, 0x597f299cfc657e2a, 0x5fcb6fab3ad6faec, 0x6c44198c4a475817]

/-- The initial hash value. -/
def shaH0 : List Word :=
  [0x6a09e667f3bcc908, 0xbb67ae8584caa73b, 0x3c6ef372fe94f82b, 0xa54ff53a5f1d36f1] ++
  [0x510e527fade682d1, 0x9b05688c2b3e6c1f, 0x1f83d9abfb41bd6b, 0x5be0cd19137e2179]

def shaS0 (x : Word) : Word := x.rotateRight 28 ^^^ x.rotateRight 34 ^^^ x.rotateRight 39
def shaS1 (x : Word) : Word := x.rotateRight 14 ^^^ x.rotateRight 18 ^^^ x.rotateRight 41
def shaR0 (x : Word) : Word := x.rotateRight 1 ^^^ x.rotateRight 8 ^^^ x >>> 7
def shaR1 (x : Word) : Word := x.rotateRight 19 ^^^ x.rotateRight 61 ^^^ x >>> 6
def shaCh (e f g : Word) : Word := (e &&& f) ^^^ (~~~ e &&& g)
def shaMaj (a b c : Word) : Word := (a &&& b) ^^^ (a &&& c) ^^^ (b &&& c)

/-- The rounds over the constants still to come; `w` holds the next sixteen words of the schedule. -/
def shaRounds : List Word → List Word → List Word → List Word
  | k :: ks, w, [a, b, c, d, e, f, g, h] =>
    let t1 := h + shaS1 e + shaCh e f g + k + w.headD 0
    let t2 := shaS0 a + shaMaj a b c
    let n := shaR1 (w.getD 14 0) + w.getD 9 0 + shaR0 (w.getD 1 0) + w.headD 0
    shaRounds ks (w.drop 1 ++ [n]) [t1 + t2, a, b, c, d + t1, e, f, g]
  | _, _, v => v

/-- The big-endian 64-bit words of a list of bytes. -/
def shaWords : List Nat → List Word
  | a :: b :: c :: d :: e :: f :: g :: h :: r =>
    BitVec.ofNat 64 (ofBytes [h, g, f, e, d, c, b, a]) :: shaWords r
  | _ => []

/-- Blocks of sixteen words, `n` of them. -/
def shaBlocks : Nat → List Word → List Word → List Word
  | 0, _, h => h
  | n + 1, w, h => shaBlocks n (w.drop 16) (h.zipWith (· + ·) (shaRounds shaK (w.take 16) h))

/-- The padded message. -/
def shaPad (l : List Nat) : List Nat :=
  l ++ [0x80] ++ List.replicate ((240 - (l.length + 1) % 128) % 128) 0 ++ List.replicate 8 0 ++
    (bytesOf 8 (8 * l.length)).reverse

/-- The 64 bytes of the digest. -/
def sha512 (l : List Nat) : List Nat :=
  let p := shaPad l
  (shaBlocks (p.length / 128) (shaWords p) shaH0).flatMap fun x => (bytesOf 8 x.toNat).reverse

/-! ### Ed25519 (RFC 8032, sections 5.1.1 to 5.1.6) -/

/-- The prime of the field, and the order of the base point. -/
def edP : Nat := 2 ^ 255 - 19
def edL : Nat := 2 ^ 252 + 27742317777372353535851937790883648493

/-- `b` to the power `e` modulo `edP`, over the lowest `n` bits of `e`. -/
def edPow (b e : Nat) : Nat → Nat
  | 0 => 1
  | n + 1 =>
    let h := edPow (b * b % edP) (e / 2) n
    if e % 2 = 1 then b * h % edP else h

/-- The inverse in the field. -/
def edInv (x : Nat) : Nat := edPow x (edP - 2) 255

/-- The curve constant d = -121665/121666. -/
def edD : Nat := (edP - 121665) * edInv 121666 % edP

/-- A point in extended homogeneous coordinates. -/
structure EdPoint where
  x : Nat
  y : Nat
  z : Nat
  t : Nat
  deriving DecidableEq, Repr

/-- The base point. -/
def edBase : EdPoint :=
  let x := 15112221349535400772501151409588531511454012693041857206046113283949847762202
  let y := 46316835694926478169428394003475163141307993866256225615783033603165251855960
  ⟨x, y, 1, x * y % edP⟩

/-- The sum of two points. -/
def EdPoint.add (p q : EdPoint) : EdPoint :=
  let a := (p.y + edP - p.x) * (q.y + edP - q.x) % edP
  let b := (p.y + p.x) * (q.y + q.x) % edP
  let c := 2 * p.t * q.t * edD % edP
  let d := 2 * p.z * q.z % edP
  let e := b + edP - a
  let f := d + edP - c
  let g := d + c
  let h := b + a
  ⟨e * f % edP, g * h % edP, f * g % edP, e * h % edP⟩

/-- A multiple of a point, over the lowest `n` bits of the factor. -/
def EdPoint.mul (p : EdPoint) (k : Nat) : Nat → EdPoint
  | 0 => ⟨0, 1, 1, 0⟩
  | n + 1 =>
    let h := (p.add p).mul (k / 2) n
    if k % 2 = 1 then p.add h else h

/-- The 32 bytes of a point, as a number. -/
def EdPoint.code (p : EdPoint) : Nat :=
  let i := edInv p.z
  p.y * i % edP + p.x * i % edP % 2 * 2 ^ 255

/-- The secret scalar of a private key, and the prefix of its hash. -/
def edSecret (seed : Nat) : Nat × List Nat :=
  let h := sha512 (bytesOf 32 seed)
  let a := ofBytes (h.take 32)
  (a / 8 % 2 ^ 251 * 8 + 2 ^ 254, h.drop 32)

/-- The public key of a private key. -/
def edPublic (seed : Nat) : Nat := (edBase.mul (edSecret seed).1 256).code

/-- The 64-byte signature over a message. -/
def edSign (seed : Nat) (msg : List Nat) : Nat :=
  let k := edSecret seed
  let r := ofBytes (sha512 (k.2 ++ msg)) % edL
  let rc := (edBase.mul r 256).code
  let c := ofBytes (sha512 (bytesOf 32 rc ++ bytesOf 32 (edPublic seed) ++ msg)) % edL
  rc + (r + c * k.1) % edL * 2 ^ 256

/-- The identity public key (Table 17-18), and the signature of the identity key over a quote message. -/
def idPub : Nat := edPublic Config.idSeed.toNat
def quoteSignature (msg : BitVec 2048) : BitVec 512 := BitVec.ofNat 512 (edSign Config.idSeed.toNat (bytesOf 256 msg.toNat))

end Sys2Proof.Machine
end

