-- ==== Sys2Proof/Machine/Sched.lean ====
section
/-! DEFINITION. What the scheduler sees (04_progress.md R99 to R107, 17_isolation.md R310, R313): service state, descriptors,
dependencies, and whether the head of a queue is launchable. -/

namespace Sys2Proof.Machine

/-! ### Service (R342) -/

def State.svcMode (s : State) : Nat := s.reg offSvc % 4
def State.svcDies (s : State) : Nat := bits (s.reg offSvc) 9 2
/-- NEGRDY: set by the change to full service, or before it once the negative is calibrated (log 21). -/
def State.negReady (s : State) : Bool :=
  (s.reg offSvc).testBit 10 || (s.svcMode == 1 && decide (Config.negReadyAt ≤ s.cyc))
/-- LPRDY, as NEGRDY (log 21). -/
def State.lpReady (s : State) : Bool :=
  (s.reg offSvc).testBit 12 || (s.svcMode == 1 && decide (Config.lpReadyAt ≤ s.cyc))
/-- SVC as it reads (Table 18-13). -/
def State.svc (s : State) : Nat :=
  s.svcMode + s.svcDies * 4 + s.negReady.toNat * 2 ^ 10 + (bits (s.reg offSvc) 11 11) * 2 ^ 11 + s.lpReady.toNat * 2 ^ 12

/-! ### Units being zeroed (R299) -/

/-- Whether a unit (0 core, 1 ring store, 2 token queue) is being zeroed; it counts as such from its grant on (log 22). -/
def State.zeroing (s : State) (unit idx : Nat) : Bool := s.zero.any fun z => z.unit = unit && z.idx = idx

/-- Whether a partition holds a unit. -/
def State.holdsUnit (s : State) (p unit idx : Nat) : Bool :=
  match unit with
  | 0 => s.holdsCore p idx
  | 1 => s.holdsStore p idx
  | _ => s.holdsTq p idx

/-! ### Instruction pages of a task (R309, R310) -/

/-- The buffer entry for instruction page `i` of a partition, if that page is valid and its S bit matches the use. -/
def State.ipage (s : State) (p i : Nat) (sup : Bool) : Option ITEnt :=
  let r := s.reg (offPart p + 0x148)
  let e := s.reg (r % 2 ^ 24 + 8 * i)
  if i < bits r 40 32 ∧ 0x400000 ≤ r % 2 ^ 24 + 8 * i ∧ r % 2 ^ 24 + 8 * i < 0x500000 ∧ e.testBit 48 ∧ e.testBit 49 = sup then
    some ⟨i, bits e 47 26 * 2 ^ 26, sup⟩
  else none

/-- The pages `i`, …, `i + n - 1`; none if one of them fails. -/
def State.ipages (s : State) (p : Nat) (sup : Bool) : Nat → Nat → Option (List ITEnt)
  | _, 0 => some []
  | i, n + 1 => do
    let e ← s.ipage p i sup
    let r ← s.ipages p sup (i + 1) n
    some (e :: r)

/-- The translation buffer of a task: its user pages, and the partition's supervisor pages (SIPVA). -/
def State.itb (s : State) (p ipva npg : Nat) : Option (List ITEnt) := do
  let v := s.reg (offPart p + 0x158)
  let u ← s.ipages p false (ipva / 0x4000000) npg
  let w ← s.ipages p true (bits v 47 26) (min (v % 8) 4)
  some (u ++ w)

/-! ### Descriptors (Tables 04-6 and 17-12) -/

def descKdesc (d : Nat) : Nat := bits d 63 0
def descId (d : Nat) : Nat := bits d 87 64
def descNdep (d : Nat) : Nat := bits d 90 88
def descDep (d j : Nat) : Nat := bits d (151 + 32 * j) (128 + 32 * j)
def descArg (d j : Nat) : Nat := bits d (319 + 64 * j) (256 + 64 * j)

/-- A reserved value in a task descriptor (R101). -/
def descBad (d : Nat) : Bool :=
  4 < descNdep d || bits d 95 95 != 0 || (List.range 4).any fun j => bits d (159 + 32 * j) (152 + 32 * j) != 0

def kdEntry (k : Nat) : Nat := bits k 63 0
def kdGang (k : Nat) : Nat := bits k 73 64
def kdCompat (k : Nat) : Bool := bits k 74 74 = 1
def kdNipg (k : Nat) : Nat := bits k 83 80
def kdIpva (k : Nat) : Nat := bits k 175 128

/-- A kernel descriptor that does not stop its queue (R313): reserved fields zero, ENTRY in its pages; and its pages (R310). -/
def State.kernel (s : State) (p addr : Nat) : Option (Nat × List ITEnt) :=
  let k := s.load addr 64
  let ipva := kdIpva k
  if 2 ^ 40 ≤ addr ∨ addr % 64 ≠ 0 then none
  else if bits k 79 75 ≠ 0 ∨ bits k 127 84 ≠ 0 ∨ bits k 511 256 ≠ 0 ∨ ipva % 0x4000000 ≠ 0 ∨ kdEntry k % 32 ≠ 0 then none
  else if kdEntry k < ipva ∨ ipva + (kdNipg k + 1) * 0x4000000 ≤ kdEntry k then none
  else (s.itb p ipva (kdNipg k + 1)).map fun l => (k, l)

/-- Whether dependency `j` of a descriptor is satisfied (R107). -/
def State.depOk (s : State) (p d j : Nat) : Bool :=
  let dep := descDep d j
  match aget s.comp (compKey p dep) with
  | none => false
  | some (id, st) =>
    if id = dep then st == .complete || (st == .triggered && (bits d 94 91).testBit j)
    else
      let n := (id + 2 ^ 24 - dep) % 2 ^ 24
      1 ≤ n && n ≤ 2 ^ 23 - 1

/-! ### Launchability (R101) -/

/-- The cores of a queue mask. -/
def maskCores (m : BitVec 512) : List Nat := (List.range 512).filter fun n => m.toNat.testBit n

/-- The lowest-numbered Free context of a core. -/
def Core.freeCtx (c : Core) : Option Nat := (List.range 4).find? fun k => (c.ctx k).q.st = .free

/-- Whether the banks in `acq` of core `n` are free, or held by task `id` itself. -/
def State.banksFree (s : State) (n acq id : Nat) : Bool :=
  s.banks.all fun b => b.1 / 16 ≠ n || !acq.testBit (b.1 % 16) || b.2 = id

/-- Whether a core can take a launch: powered, its die in service (R356), not gated, not being zeroed. -/
def State.coreReady (s : State) (n : Nat) : Bool :=
  (s.core n).up && (s.die (dieOf n)).up && s.svcDies.testBit (dieOf n) && !(s.core n).gated && !s.zeroing 0 n

/-- Whether a slot of the negative is valid (R328): as MCRC says, its matrix state is that of the matrix area. -/
def Core.valid (c : Core) (r : Rec) : Bool :=
  r.magic && !r.torn && (r.mlen = 0 || (match c.neg.mat with
    | some m => m.ctx = r.ctx && m.seq = r.seq && m.whole
    | none => false))

/-- The records of context `k` of a core, with their slots. -/
def Core.records (c : Core) (k : Nat) : List (Nat × Rec) :=
  (List.range 2).filterMap fun j => (aget c.neg.recs (2 * k + j)).map fun r => (j, r)

/-- The valid record of a task with the highest SEQ that meets `f`. -/
def Core.newest (c : Core) (k taskid : Nat) (f : Rec → Bool) : Option Rec :=
  ((c.records k).filter fun p => c.valid p.2 && p.2.taskid = taskid && f p.2).foldl (fun b p =>
    match b with
    | none => some p.2
    | some r => if r.seq < p.2.seq then some p.2 else some r) none

/-- Whether a task can resume from a record: by recovery from one with its stop key (R334), otherwise from one that a pre-emption
or a gate wrote. -/
def Task.fits (t : Task) (r : Rec) : Bool :=
  match t.key with
  | some k => r.scn = k.1 && r.srel = k.2
  | none => r.kind = 2 || r.kind = 3

/-- Whether the array of a core is free: nobody owns it, and no restored context is to own it (R218). -/
def Core.arrFree (c : Core) : Bool := c.arr.owner.isNone && c.ctxs.all fun x => !x.2.q.owns

/-- Whether a returned task can resume on its cores (R101, R218): each named context is Free, an array it owned is free, its
banks are its own. -/
def State.canResume (s : State) (t : Task) : Bool :=
  t.place.all fun p => t.halted.contains p.1 ||
    (s.coreReady p.1 && (((s.core p.1).ctx p.2).q.st = .free) && s.banksFree p.1 (descAcq t.desc) t.id &&
      ((((s.core p.1).newest p.2 t.taskid t.fits).elim true fun r => r.mlen = 0) || (s.core p.1).arrFree))

/-- What the scheduler finds at the head of a queue. -/
inductive Head where
  | none
  | err (code : Nat)
  | waits
  | ready (ok : Bool)
  deriving DecidableEq, Repr

/-- The address of task `k` of a queue. -/
def SQ.place (q : SQ) (k : Nat) : Nat := q.base + 64 * (k % 2 ^ q.size)

/-- Whether the power cap lets a head be launched (R350). -/
def State.powerOk (s : State) : Bool :=
  let cap := s.reg (offMgmt + 0x10) % 2 ^ 16
  cap = 0 || s.reg (offMgmt + 8) % 2 ^ 16 < cap

/-- Whether the mask of a queue names a core that its partition does not hold (R298), or one on a die that is out of service (R342, R356). -/
def State.maskBad (s : State) (q : SQ) : Bool :=
  (maskCores q.mask).any fun n => !s.holdsCore q.part n || !(s.svcDies.testBit (dieOf n))

/-- The head of queue `q` in this cycle (R101): whether there is one, whether its dependencies are satisfied, whether it is
launchable, or the error that stops the queue. -/
def State.head (s : State) (q : SQ) : Head :=
  if !q.en then .none
  else
    let pok := (s.pcfg q.part).testBit 0 && s.powerOk
    match q.back with
    | id :: _ =>
      match s.task? id with
      | some t => if s.maskBad q then .err 2 else match s.itb q.part (kdIpva t.kdesc.toNat) (kdNipg t.kdesc.toNat + 1) with
        | some _ => .ready (pok && s.canResume t)
        | Option.none => .err 3
      | Option.none => .none
    | [] =>
      match q.bells.find? fun b => 1 ≤ (b.1 + 2 ^ 32 - q.head) % 2 ^ 32 && (b.1 + 2 ^ 32 - q.head) % 2 ^ 32 ≤ 2 ^ 16 with
      | Option.none => .none
      | some b =>
        if s.cyc < b.2 + 641 then .none
        else
          let d := s.load (q.place q.head) 64
          if descBad d then .err 6
          else if !(List.range (descNdep d)).all fun j => s.depOk q.part d j then .waits
          else
            let cores := maskCores q.mask
            if s.maskBad q then .err 2
            else match s.kernel q.part (descKdesc d) with
            | Option.none => .err 3
            | some (k, _) =>
              if kdGang k ≠ cores.length then .err 1
              else .ready (pok && cores.all fun n =>
                s.coreReady n && ((s.core n).freeCtx).isSome && s.banksFree n (bits d 111 96) 0)

/-- QCFG, QSTAT as they read (Tables 04-8, 04-9). -/
def SQ.cfg (q : SQ) : Nat := q.prio + q.en.toNat * 8 + q.part * 16 + q.size * 256
def State.qstat (s : State) (q : SQ) : Nat :=
  q.eprio + q.pass * 8 + (if s.head q = .ready true then 2 ^ 11 else 0) + q.err.toNat * 2 ^ 12 + q.code * 2 ^ 13

/-- The earliest queue error stops the queue: EN is cleared by hardware (Table 04-8). -/
def SQ.stop (q : SQ) (code : Nat) : SQ := { q with err := true, code := code, en := false, since := none }

end Sys2Proof.Machine
end

