-- ==== Sys2Proof/Machine/CtlSpace.lean ====
section
/-! DEFINITION. The package control space (17_isolation.md R305): what its registers read as, who may read and write them
(Table 17-8), and which event row a write is (04, 08, 15, 17, 18, 20). -/

namespace Sys2Proof.Machine

/-! ### Offsets -/

def offSlot : Nat := 0x20000
def offHand : Nat := 0x24000
def offAtt : Nat := 0x28000
def offDbg : Nat := 0x30000
def offPdir : Nat := 0x100000
def offMirror : Nat := 0x400000

/-- Whether an offset lies in the `n` bytes from `a` on. -/
def inRange (off a n : Nat) : Bool := a ≤ off && off < a + n

/-- Replace bits hi to lo of a number. -/
def setBits (v hi lo x : Nat) : Nat := v - bits v hi lo * 2 ^ lo + x % 2 ^ (hi + 1 - lo) * 2 ^ lo

/-- 64-bit word `j` of a number. -/
def word64 (v j : Nat) : Nat := v / 2 ^ (64 * j) % 2 ^ 64

/-- An expert slot as it reads (Table 08-1). -/
def Slot.code (e : Slot) : Nat := e.expert.toNat + e.refs * 2 ^ 32 + e.use.toNat * 2 ^ 40 + e.part * 2 ^ 41
def Slot.ofBits (v : Nat) : Slot :=
  { expert := BitVec.ofNat 32 v, refs := bits v 39 32, use := v.testBit 40, part := bits v 44 41 }

/-- A page-directory entry as it reads (Table 15-4). -/
def PEnt.code (e : PEnt) : Nat := e.key.toNat + e.page.toNat * 2 ^ 128 + e.valid.toNat * 2 ^ 176 + e.part * 2 ^ 177
def PEnt.ofBits (v : Nat) : PEnt :=
  { key := BitVec.ofNat 128 v, page := BitVec.ofNat 48 (v / 2 ^ 128), valid := v.testBit 176, part := bits v 180 177 }

/-- GSTAT and HRCFG as they read (Tables 15-7, 15-9). -/
def Graph.stat (g : Graph) : Nat := g.st + g.node * 4 + g.err * 2 ^ 14
def HRing.cfg (r : HRing) : Nat := r.size + r.en.toNat * 16 + r.vec * 32

abbrev State.queue (s : State) (i : Nat) : SQ := agetD s.sq i SQ.reset
abbrev State.setQueue (s : State) (i : Nat) (q : SQ) : State := { s with sq := aset s.sq i q }
abbrev State.graph (s : State) (p : Nat) : Graph := agetD s.graphs p Graph.reset
abbrev State.setGraph (s : State) (p : Nat) (g : Graph) : State := { s with graphs := aset s.graphs p g }
abbrev State.hring (s : State) (p : Nat) : HRing := agetD s.rings p HRing.reset
abbrev State.setHring (s : State) (p : Nat) (r : HRing) : State := { s with rings := aset s.rings p r }

/-! ### The debugger window (R360, Tables 20-7 and 18-8) -/

/-- The context that DBGSEL names. -/
def State.dbgCore (s : State) : Nat := s.reg offDbg % 2 ^ 9
def State.dbgCtx (s : State) : Nat := bits (s.reg offDbg) 11 10
def State.dbgX (s : State) : Ctx := s.ctx s.dbgCore s.dbgCtx

/-- Whether the context image may be read and written: a Stopped context of a partition with ATTACH = 1. -/
def State.imageOk (s : State) : Bool := s.dbgX.q.st == .stopped && s.attached s.dbgX.q.part

/-- The partition that holds a core, if any. -/
def State.partOf (s : State) (n : Nat) : Option Nat := (List.range 16).find? fun p => s.holdsCore p n

/-- Whether the scratchpad aperture reaches the selected core. -/
def State.apertureOk (s : State) : Bool := (s.partOf s.dbgCore).any fun p => s.attached p

/-- Physical address of byte `o` of the aperture. -/
def State.apertureAddr (s : State) (o : Nat) : Nat := spad s.dbgCore + bits (s.reg (offDbg + 0x18)) 21 16 * 0x10000 + o

/-- The sequencer fields of the image, by number: landed guards, resume address, privilege, COMPAT, SRKEY, SRCTR, ASTAT,
SCENEBASE − LASTREL as 64 bits in two's complement, SCN, slate-spacing count. -/
def Ctx.imageField (x : Ctx) (i : Nat) : Nat :=
  match i with
  | 0 => (List.range 16).foldl (fun a g => a + (if (x.guard g).val then 2 ^ g else 0)) 0
  | 1 => x.q.pc
  | 2 => x.q.sup.toNat
  | 3 => x.ar.c4.toNat
  | 4 => x.ar.srkey.toNat
  | 5 => x.ar.srctr.toNat
  | 6 => x.ar.astat.toNat
  | 7 => addr64 ((x.q.base : Int) - x.q.lastrel)
  | 8 => x.q.scn
  | _ => x.q.span

/-- The field that stands at offset `o` of the 1024-byte area of the sequencer: its place is not given (log 8). -/
def fieldAt (o : Nat) : Option Nat := (List.range 10).find? fun i => Config.imagePlace i = o

/-- The value of a register that holds one take. -/
def Ctx.regVal (x : Ctx) (c : RCls) (r : Nat) : Nat := ((oneVal (x.takes c r)).getD 0).toNat

/-- The trap CSRs and the stop record in the image (Table 18-8). -/
def TrapRegs.word (t : TrapRegs) (i : Nat) : Nat :=
  match i with
  | 0 => t.tcause.toNat
  | 1 => t.tpc.toNat
  | 2 => t.tfpc.toNat
  | 3 => t.tinfo0.toNat
  | 4 => t.tinfo1.toNat
  | 5 => t.tscr0.toNat
  | 6 => t.tscr1.toNat
  | 7 => t.tscr2.toNat
  | 8 => t.tscr3.toNat
  | 9 => t.stopCause.toNat
  | 10 => t.stopPc.toNat
  | 11 => t.stopFpc.toNat
  | 12 => t.stopInfo0.toNat
  | _ => t.stopInfo1.toNat

/-- The trap CSRs of a context that is not Stopped: no stop record (R360, Table 18-8). -/
def TrapRegs.noStop (t : TrapRegs) : TrapRegs :=
  { t with stopCause := 0, stopPc := 0, stopFpc := 0, stopInfo0 := 0, stopInfo1 := 0 }

/-- The contents of a port, of a window, of the open levels and the levels set aside, and of the traps of a context, as Table 18-8
lists them. -/
def Port.contents (p : Port) : List Nat :=
  (match p.set with
   | none => [0]
   | some u => [1, u.base, u.hv.toNat, u.hnd] ++ u.cnt ++ u.str.map (fun z => (z % 2 ^ 64).toNat) ++
       (u.hrec.elim [0] fun r => [1, r.toNat])) ++ [p.pos] ++ p.check.elim [0] (fun t => [1, t]) ++ [p.refetch.toNat]
def Win.contents (w : Win) : List Nat := [w.vbase, w.size, w.attr, w.rq, w.pbase, w.sup.toNat]
def Ring.contents (g : Ring) : List Nat :=
  [match g.cls with | .s => 0 | .v => 1 | .m => 2 | .csr => 3 | .hnd => 4, g.base, g.len]
def Loop.contents (l : Loop) : List Nat := [l.start, l.count, l.iter, l.zero.toNat] ++ l.rings.flatMap Ring.contents
def Ring.ofContents (c b n : Nat) : Ring :=
  { cls := match c with | 0 => .s | 1 => .v | 2 => .m | 3 => .csr | _ => .hnd, base := b, len := n }
def ringsOf : List Nat → List Ring
  | c :: b :: n :: r => Ring.ofContents c b n :: ringsOf r
  | _ => []
def Loop.ofContents (l : List Nat) : Loop :=
  { start := l.getD 0 0, count := l.getD 1 0, iter := l.getD 2 0, zero := l.getD 3 0 ≠ 0, rings := ringsOf (l.drop 4) }
def Ctx.levels (x : Ctx) : List Nat :=
  x.q.loops.flatMap Loop.contents ++ x.q.aside.flatMap fun a => a.pc :: a.loops.flatMap Loop.contents
def Trap.contents (t : Trap) : List Nat :=
  [t.code, t.sub, t.slot, t.slot2, t.fpc, t.info0, t.info1, t.iat, t.defer.toNat, t.sys.toNat, t.sup.toNat]
def Trap.ofContents (l : List Nat) : Trap :=
  { code := l.getD 0 0, sub := l.getD 1 0, slot := l.getD 2 0, slot2 := l.getD 3 0, fpc := l.getD 4 0, info0 := l.getD 5 0,
    info1 := l.getD 6 0, iat := l.getD 7 0, defer := l.getD 8 0 ≠ 0, sys := l.getD 9 0 ≠ 0, sup := l.getD 10 0 ≠ 0 }
def Ctx.traps (x : Ctx) : List Nat := (x.defer.filterMap (·.trap) ++ x.pendF).flatMap Trap.contents

/-- The 8-byte word at offset `o` of a context payload (Table 18-8). What has no given place in its area is a function of the
contents of the area (log 8). -/
def Ctx.imageWord (x : Ctx) (o : Nat) : Nat :=
  if o < 0x200 then x.regVal .s (o / 8)
  else if o < 0x400 then word64 (x.regVal .m ((o - 0x200) / 64)) (o % 64 / 8)
  else if o < 0x800 then match fieldAt o with
    | some i => x.imageField i
    | none => (Config.payloadWord o x.levels).toNat
  else if o < 0x1000 then (Config.payloadWord o (agetD x.ports ((o - 0x800) / 256) Port.reset).contents).toNat
  else if o < 0x1400 then match aget x.hnd ((o - 0x1000) / 64) with
    | some r => word64 r.toNat (o % 64 / 8)
    | none => (Config.payloadWord o []).toNat
  else if o < 0x1800 then (Config.payloadWord o ((aget x.win ((o - 0x1400) / 64)).elim [] Win.contents)).toNat
  else if o < 0x1870 then x.tr.word ((o - 0x1800) / 8)
  else if o < 0x2000 then (if x.traps = [] then 0 else (Config.payloadWord o x.traps).toNat)
  else word64 (x.regVal .v ((o - 0x2000) / 256)) (o % 256 / 8)

/-- What the debugger window reads at offset `o` from its base. -/
def State.dbgRead (s : State) (o : Nat) : Option Nat :=
  let x := s.dbgX
  if o = 0 then some (s.reg offDbg % 2 ^ 12)
  else if o = 8 then
    let st : Nat := match x.q.st with
      | .free => 0 | .holder => 1 | .holding => 2 | .waiting => 3 | .blocked => 4 | .ready => 5 | .stopped => 6
    some (st + x.q.part * 8 + (s.attached x.q.part).toNat * 2 ^ 7 + x.q.dbg.toNat * 2 ^ 8)
  else if o = 0x18 then some (bits (s.reg (offDbg + 0x18)) 21 16 * 2 ^ 16)
  else if inRange o 0x100 0x28 then some (x.tr.word (9 + (o - 0x100) / 8))
  else if inRange o 0x2000 0xA000 then some (if s.imageOk then x.imageWord (o - 0x2000) else 0)
  else if inRange o 0x10000 0x10000 then some (if s.apertureOk then s.load (s.apertureAddr (o - 0x10000)) 8 else 0)
  else none

/-- A host-link write or access is discarded and counted (R352, R360). -/
def State.hlerr (s : State) : State := s.setReg (offMgmt + 0xC0) ((s.reg (offMgmt + 0xC0) + 1) % 2 ^ 32)

/-- An access to the debugger window that is not an aligned one of 8 bytes is discarded and counted; a read returns zero (R360). -/
def State.dbgDiscard (s : State) : State := if s.cw.wr then s.hlerr else { s.hlerr with readVal := 0 }

/-- Whether an access to the debugger window is of no kind that the window takes. -/
def CtlAcc.dbgBad (a : CtlAcc) : Bool := inRange a.off offDbg 0x20000 && (a.off % 8 ≠ 0 || a.len ≠ 8)

/-! ### Reading -/

/-- The bits that are not reserved of the page-table entries that have a word at offset `off` (R6, Tables 17-9 and 17-10): all of them
where no partition's table reaches it; where tables of both kinds do, those that either uses. -/
def State.tableBits (s : State) (off : Nat) : Nat :=
  let ms := (List.range 16).flatMap fun p =>
    let a := s.reg (offPart p + 0x140)
    let b := s.reg (offPart p + 0x148)
    (if inRange off (a % 2 ^ 24) (16 * bits a 41 32) then [if off % 16 = 8 then 2 ^ 53 - 1 else 2 ^ 64 - 1] else []) ++
      (if inRange off (b % 2 ^ 24) (8 * bits b 40 32) then [2 ^ 50 - 1] else [])
  if ms = [] then 2 ^ 64 - 1 else ms.foldl (· ||| ·) 0

/-- What the control register at offset `off` reads as for `who`; none where the manual states no value (a write-only register,
an offset that no table lists). -/
def State.ctlRead (s : State) (who off : Nat) : Option Nat :=
  if inRange off 0x180 0x80 then some (s.reg off)
  else if inRange off 0x200 0x100 then
    if off % 16 = 8 then some ((s.graph ((off - 0x200) / 16)).gtid) else none
  else if inRange off 0x300 0x100 ∧ off % 16 = 0 then some (s.graph ((off - 0x300) / 16)).stat
  else if inRange off 0x400 0x400 then
    let r := s.hring ((off - 0x400) / 64)
    match off % 64 with
    | 0 => some r.base
    | 8 => some r.cfg
    | 0x10 => some r.tail
    | 0x18 => some r.head
    | _ => none
  else if inRange off 0x8000 0x2000 then some (s.reg off)
  else if inRange off 0xA000 0x128 then some (s.reg off)
  else if inRange off 0xB000 0x80 then some (s.reg off)
  else if off = offSvc then some s.svc
  else if inRange off 0xB200 0x40 then some (s.die ((off - 0xB200) / 8)).elogCnt
  else if inRange off 0xC000 0x4000 then
    some (word64 (agetD (s.die ((off - 0xC000) / 0x800)).elog (off % 0x800 / 32) 0).toNat (off % 32 / 8))
  else if inRange off 0x10000 0x10000 then
    let q := s.queue ((off - 0x10000) / 256)
    let r := off % 256
    if r = 0 then some q.cfg
    else if r = 8 then some q.base
    else if r = 0x10 then some q.head
    else if r = 0x18 then some q.tail
    else if r = 0x20 then some (s.qstat q)
    else if inRange r 0x40 0x40 then some (word64 q.mask.toNat ((r - 0x40) / 8))
    else none
  else if inRange off offSlot 0x4000 then
    let e := agetD (s.die ((off - offSlot) / 0x800)).slots (off % 0x800 / 8) Slot.reset
    some (if who < 16 ∧ e.part ≠ who then Slot.reset.code else e.code)
  else if inRange off offHand 0x40 then some (s.die ((off - offHand) / 8)).hand
  else if inRange off offAtt 0x20 then some (word64 idPub ((off - offAtt) / 8))
  else if inRange off (offAtt + 0x100) 0x400 then
    some (word64 (agetD s.meas ((off - offAtt - 0x100) / 64) 0).toNat (off % 64 / 8))
  else if inRange off offAtt 0x100 then some (s.reg off)
  else if inRange off offDbg 0x20000 then s.dbgRead (off - offDbg)
  else if inRange off offPdir 0x100000 then
    let e := agetD (s.die ((off - offPdir) / 0x20000)).pdir (off % 0x20000 / 32) PEnt.reset
    some (word64 (if who < 16 ∧ e.part ≠ who then 0 else e.code) (off % 32 / 8))
  else if inRange off offMirror 0x100000 then some (s.reg off &&& s.tableBits off)
  else if inRange off 0xF00000 0x100000 then some (s.reg off)
  else none

/-! ### Rights (Table 17-8) -/

/-- Whether an offset lies in the page tables of partition `p` (PTROOT, ITROOT). -/
def State.ownTable (s : State) (p off : Nat) : Bool :=
  let a := s.reg (offPart p + 0x140)
  let b := s.reg (offPart p + 0x148)
  inRange off (a % 2 ^ 24) (16 * bits a 41 32) || inRange off (b % 2 ^ 24) (8 * bits b 40 32)

/-- Whether a table gives a register at a control offset (Tables 04-7, 08-1, 08-2, 15-7, 15-9, 17-1, 17-18, 18-5, 20-2): the offsets
inside a block that none lists are none of its registers. -/
def ctlListed (off : Nat) : Bool :=
  if inRange off 0x300 0x100 then off % 16 = 0
  else if inRange off 0x400 0x400 then off % 64 < 0x20
  else if inRange off 0x8000 0x2000 then
    let r := off % 0x200
    r = 0 || inRange r 0x40 0x130 || r = 0x1F8
  else if inRange off 0x10000 0x10000 then
    let r := off % 256
    r < 0x28 || inRange r 0x40 0x40
  else if inRange off offAtt 0x900 then
    let r := off - offAtt
    r < 0x20 || inRange r 0x40 0x28 || inRange r 0x80 0x48 || 0x100 ≤ r
  else if inRange off offMgmt 0x1000 then off < offMgmt + 0x128
  else true

/-- Whether a supervisor of partition `p` has the right to an access of the register at `off`. A write that is then discarded
with PERR code 5 is no breach. The management registers, the error log, HAND and POISONARR follow their own rules (R349, R340,
R201, R341; log 23). -/
def State.ctlRight (s : State) (p off : Nat) (wr : Bool) : Bool :=
  if !ctlListed off then false
  else if off = 0x100 ∨ inRange off 0x180 0x80 then true
  else if inRange off 0x200 0x100 then (off - 0x200) / 16 = p
  else if inRange off 0x300 0x100 then (off - 0x300) / 16 = p
  else if inRange off 0x400 0x400 then (off - 0x400) / 64 = p
  else if inRange off 0x8000 0x2000 then !wr && (off - 0x8000) / 0x200 = p
  else if inRange off 0xA000 0x128 then !wr
  else if off = 0xB080 + 8 * p then wr
  else if inRange off 0xC000 0x4000 then
    !wr && bits (agetD (s.die ((off - 0xC000) / 0x800)).elog (off % 0x800 / 32) 0).toNat 21 18 = p
  else if inRange off 0x10000 0x10000 then (s.queue ((off - 0x10000) / 256)).part = p
  else if inRange off offSlot 0x4000 then true
  else if inRange off offHand 0x40 then !wr
  else if inRange off (offAtt + 0x500) 0x400 then !wr || (off - offAtt - 0x500) / 64 = p
  else if inRange off offAtt 0x500 then !wr
  else if inRange off offPdir 0x100000 then true
  else if inRange off offMirror 0x100000 then s.ownTable p off
  else false

/-! ### Writing -/

/-- The event rows that a write of `v` at `off` is (one for most registers; a write of DBGCTL or of a holdings register may be
two). -/
def State.ctlRows (s : State) (off v : Nat) : List Instr :=
  if off = 0x100 then [.preemptWrite]
  else if inRange off 0x200 0x100 ∧ off % 16 = 0 then [.gnodeWrite]
  else if inRange off 0x400 0x400 ∧ off % 64 = 8 then [.hrcfgWrite]
  else if inRange off 0x400 0x400 ∧ off % 64 = 0x18 then [.hrheadWrite]
  else if inRange off 0x8000 0x2000 then
    let r := off % 0x200
    if r = 0 then (if bits v 23 8 = bits (s.reg off) 23 8 then [.controlRegisterWrite] else [.ownerChange])
    else if inRange r 0x40 0xC0 then
      (if v &&& (2 ^ 64 - 1 - s.reg off) = 0 then [] else [.partitionGrant]) ++
      (if s.reg off &&& (2 ^ 64 - 1 - v) = 0 then [] else [.partitionRevoke])
    else [.controlRegisterWrite]
  else if off = offMgmt then [.pkgnumWrite]
  else if off = offMgmt + 0x70 then
    (if v.testBit 48 then [.suptestArm] else []) ++ (if v.testBit 50 then [.suptestRestore] else []) ++
      (if v.testBit 48 || v.testBit 50 then [] else [.controlRegisterWrite])
  else if inRange off (offMgmt + 0x80) 0x40 then [.qrstClear]
  else if inRange off 0xB000 0x80 then .debugAttach :: (if v.testBit 1 then [.debugResume] else [])
  else if inRange off 0xB080 0x80 then (if v.testBit 3 then [.poisonarrCombine] else [.poisonarrBar])
  else if inRange off 0xB100 0x80 then [.tkill]
  else if inRange off 0x10000 0x10000 ∧ off % 256 = 0 then [.qcfgWrite]
  else if inRange off 0x10000 0x10000 ∧ off % 256 = 0x18 then [.qtailDoorbell]
  else if inRange off offSlot 0x4000 then [.expertSlotWrite]
  else if off = offAtt + 0x60 then [.qreqWrite]
  else if inRange off (offAtt + 0x500) 0x400 then [.extWrite]
  else if off = offDbg + 0x10 then [.dbgstopWrite]
  else if inRange off (offDbg + 0x2000) 0xA000 then [.debugImageWrite]
  else if inRange off (offDbg + 0x10000) 0x10000 then [.debugApertureAccess]
  else if inRange off offMirror 0x100000 then [.mirrorWrite]
  else [.controlRegisterWrite]

/-- A control-space store of the supervisor of partition `p`, in context `src`, performs: its right is checked again (R305), then
its rows follow in this cycle at the place of the store in the order of R227; POISONARR comes behind the arrivals of this cycle
(Table 18-14). -/
def State.ctlStore (s : State) (p src off v k1 k2 k3 : Nat) : State :=
  let ph := if inRange off 0xB080 0x80 then phOut else phWrite
  if !s.ctlRight p off true then s.perr p 5 off
  else (s.ctlRows off v).foldl (fun s r => s.schedCtl s.cyc ph k1 k2 k3 r ⟨p, src, off, v, true, 8⟩) s

end Sys2Proof.Machine
end

