-- ==== Sys2Proof/Machine/Walk.lean ====
section
/-! DEFINITION. The walk of BIND over the partition's page table (12_memory.md R231, 17_isolation.md R306, R307). -/

namespace Sys2Proof.Machine

/-- Entry `i` of the data page table of partition `p` (Table 17-9). -/
def State.pte (s : State) (p i : Nat) : Nat :=
  let a := s.reg (offPart p + 0x140) % 2 ^ 24 + 16 * i
  s.reg a + s.reg (a + 8) * 2 ^ 64

def pteVa (e : Nat) : Nat := bits e 47 0
def pteEnd (e : Nat) : Nat := pteVa e + (bits e 63 48 + 1) * 0x10000
def ptePa (e : Nat) : Nat := bits e 111 64

/-! ### Pins (R308) -/

/-- The contexts of a task's gang that have not halted. -/
def Task.live (t : Task) : List (Nat × Nat) := t.place.filter fun p => !t.halted.contains p.1

/-- Whether two ranges overlap. -/
def overlap (a n b m : Nat) : Bool := a < b + m && b < a + n

/-- The windows bound in partition `p`, live or saved (R298, R308), without those whose BIND takes effect in cycle `c`. Saved are those in
every valid record of a task that has not completed, whether a pre-emption, a gate or PSAVE wrote it. Those of a context that has halted
stay bound until its task ends (R231). -/
def State.partWinsBut (s : State) (c p : Nat) : List Win :=
  (s.cores.flatMap fun n => (n.2.ctxs.filter fun x => x.2.q.st ≠ .free && x.2.q.part = p).flatMap fun x => x.2.windows c) ++
  ((s.tasks.filter fun t => t.part = p).flatMap fun t => t.wins ++ t.live.flatMap fun q =>
    (((s.core q.1).records q.2).filter fun r => (s.core q.1).valid r.2 && r.2.taskid = t.taskid).flatMap fun r =>
      (r.2.pay.elim [] fun v => v.ctx.windows c))

/-- The windows bound in partition `p`, live or saved. -/
abbrev State.partWins (s : State) (p : Nat) : List Win := s.partWinsBut 0 p

/-- Word `j` of a number becomes `v`. -/
def setWord (x j v : Nat) : Nat := setBits x (64 * j + 63) (64 * j) v

/-- The partition whose data page table has an entry at `off` that a bound window pins against becoming `v` there (R308); the reserved
bits of the entry are no part of it (R6). A BIND that has
issued in this cycle pins nothing against the writes of the cycle, which its walk has seen (R307). -/
def State.pinned (s : State) (off v : Nat) : Option Nat :=
  (List.range 16).find? fun p =>
    let r := s.reg (offPart p + 0x140)
    let a := r % 2 ^ 24
    inRange off a (16 * bits r 41 32) &&
      (let e := s.pte p ((off - a) / 16)
       e.testBit 112 && setWord e ((off - a) % 16 / 8) v % 2 ^ 117 ≠ e % 2 ^ 117 &&
         (s.partWinsBut (s.cyc + 64) p).any fun w => overlap w.vbase w.size (pteVa e) (pteEnd e - pteVa e))

/-- A write of `v` at `off` in the mirror area performs: it is discarded where a window pins its entry (R308). The reserved bits of a
table's entry stay 0 (R6). -/
def State.mirror (s : State) (off v : Nat) : State :=
  match s.pinned off v with
  | some p => s.perr p 2 off
  | none => s.setReg off (v &&& s.tableBits off)

/-- The page tables as the walk of a BIND sees them: with the mirror writes from outside that perform in this cycle (R307, R316). -/
def State.withMirror (s : State) : State :=
  (s.inputs.takeWhile fun e => e.at_ ≤ s.cyc).foldl (fun s e =>
    if e.ev = .mirrorWrite ∧ inRange e.cw.off offMirror 0x100000 then s.mirror e.cw.off e.cw.val else s) s

/-! ### The walk -/

/-- The entries of the table of partition `p`, in order. -/
def State.ptes (s : State) (p : Nat) : List Nat :=
  (List.range (min (bits (s.reg (offPart p + 0x140)) 41 32) 512)).map fun i => s.pte p i

/-- Whether entries are valid, in ascending order and without overlap, from address `lo` on (R306). -/
def ptesOk (lo : Nat) : List Nat → Bool
  | [] => true
  | e :: r => e.testBit 112 && decide (lo ≤ pteVa e) && ptesOk (pteEnd e) r

/-- Whether an entry grants a binding of attribute `attr` at a privilege (R231, R307). -/
def pteGrants (attr : Nat) (sup : Bool) (e : Nat) : Bool :=
  e.testBit 113 && (attr = 0 || e.testBit 114) && (attr ≠ 2 || e.testBit 115) && (!e.testBit 116 || sup)

/-- The physical address of the virtual range [va, va + n), and whether every entry of it has S = 1: the entries from the one
that holds `va` on must map it whole and contiguously, and grant it. -/
def mapRange (attr : Nat) (sup : Bool) : List Nat → Nat → Nat → Option (Nat × Bool)
  | [], _, _ => none
  | e :: r, va, n =>
    if pteEnd e ≤ va then mapRange attr sup r va n
    else if va < pteVa e ∨ pteGrants attr sup e = false then none
    else
      let pa := ptePa e + (va - pteVa e)
      if va + n ≤ pteEnd e then some (pa, e.testBit 116)
      else match mapRange attr sup r (pteEnd e) (va + n - pteEnd e) with
        | some (q, all) => if q = pa + (pteEnd e - va) then some (pa, e.testBit 116 && all) else none
        | none => none

/-- Whether the MEMBASE and MEMLIM ranges of partition `p` cover [pa, pa + n), in `k` steps. -/
def State.inRanges (s : State) (p n : Nat) : Nat → Nat → Bool
  | 0, _ => false
  | k + 1, pa =>
    match (List.range 4).find? fun i =>
        s.reg (offPart p + 0x100 + 16 * i) ≤ pa && pa < s.reg (offPart p + 0x108 + 16 * i) with
    | none => false
    | some i =>
      let e := s.reg (offPart p + 0x108 + 16 * i)
      if pa + n ≤ e then true else s.inRanges p (n - (e - pa)) k e

/-- Whether partition `p` holds the units of kind `unit` from `a` to `b`, none of them being zeroed (R299). -/
def State.holdsAll (s : State) (p unit a b : Nat) : Bool :=
  (List.range (b + 1 - a)).all fun i => s.holdsUnit p unit (a + i) && !s.zeroing unit (a + i)

/-- Whether partition `p` holds the physical range [pa, pa + n), inside one region (R307); the control region only for
supervisor entries. In reduced service LPDDR6, trained or not, and untrained stacks are out of reach (R342). -/
def State.holdsRange (s : State) (p pa n : Nat) (sup : Bool) : Bool :=
  match regionOf pa, regionOf (pa + n - 1) with
  | .spad a, .spad b => s.holdsAll p 0 a b
  | .ring a, .ring b => s.holdsAll p 1 a b
  | .tq a, .tq b => s.holdsAll p 2 a b
  | .ctl, .ctl => sup
  | .lpddr, .lpddr => s.inRanges p n 4 pa && s.svcMode ≠ 1
  | .hbm a, .hbm b => s.inRanges p n 4 pa &&
      (s.svcMode ≠ 1 || (List.range (b + 1 - a)).all fun i => s.svcDies.testBit (a + i))
  | .host, .host | .pod, .pod => s.inRanges p n 4 pa
  | _, _ => false

/-- The walk for a range of partition `p` (R307). -/
def State.walk (s : State) (p va n attr : Nat) (sup : Bool) : Option Nat :=
  let es := s.ptes p
  if !ptesOk 0 es then none
  else match mapRange attr sup es va n with
    | some (pa, all) => if s.holdsRange p pa n all then some pa else none
    | none => none

/-- Whether a range lies in the scratchpad of core `n`. -/
def ownSpad (n pa len : Nat) : Bool := regionOf pa = .spad n && regionOf (pa + len - 1) = .spad n

/-- What a BIND of window descriptor at `va` finds (R231): the new binding (none unbinds), or no binding at all where the walk
fails. A `.rwp` window lies in the core's own scratchpad (R344, log 71). -/
def State.bindWalk (s : State) (n : Nat) (x : Ctx) (va : Nat) : Option (Option Win) :=
  let s := s.withMirror
  match s.walk x.q.part va 32 0 x.q.sup with
  | none => none
  | some dpa =>
    if !ownSpad n dpa 32 then none
    else
      let d := s.load dpa 32
      let vb := bits d 63 0
      let size := bits d 103 64
      let attr := bits d 105 104
      if attr = 3 ∨ bits d 255 112 ≠ 0 ∨ vb % 64 ≠ 0 ∨ size % 64 ≠ 0 then none
      else if size = 0 then some none
      else ((s.walk x.q.part vb size attr x.q.sup).filter fun pb => attr ≠ 2 || ownSpad n pb size).map fun pb =>
        some { vbase := vb, size := size, attr := attr, rq := bits d 111 106, pbase := pb, sup := x.q.sup }

end Sys2Proof.Machine
end

