-- ==== Sys2Proof/Machine/Local.lean ====
section
/-! DEFINITION. Loads, stores, gathers, scatters, ports, handles and windows (06_scalar_vector.md R163 to R171, 07_takes.md R184,
R185, 05_formats.md R130, 12_memory.md R231, R240). -/

namespace Sys2Proof.Machine

/-! ### Addresses -/

/-- Translate an access of the context being issued, with the rights of the control region (R305). -/
def State.reachA (s : State) (a : Acc) (ea : Int) (len : Nat) (word : Bool) : Except Flt Nat := do
  let pa ← translate s.me s.iss.core a ea len len word
  if regionOf pa = .ctl ∧ s.ctlRight s.me.q.part (pa - ctlBase) a.writes = false then
    .error ⟨0x0A, 3, (s.me.window ea).elim 16 (·.1), addr64 ea⟩
  .ok pa

/-- What a load of `len` bytes at physical address `pa` returns. A control register whose value the manual does not state reads
as a free value (log 6). -/
def State.readAt (s : State) (pa len : Nat) : Nat :=
  if regionOf pa = .ctl then
    (s.ctlRead s.me.q.part (pa - ctlBase)).getD (Config.freeValue s.free).toNat
  else s.load pa len

/-! ### Loads (R164 to R166, R184) -/

/-- One read for each combination of takes of the sources (R184): the addresses and the value or the fault found. A combination that
the write literal contradicts reads and is a requester too; it gives no pair, and its faults vanish. A load that cannot land under any value
of its own open guard, since its literal contradicts that of an outstanding BRD, reads nothing and requests no bank (log 118). -/
def State.loads (s : State) (g : Lit) (lat : Nat) (c : RCls) (d len : Nat) (word : Bool) (a : Acc) (srcs : List Src)
    (addrs : List Vec → List Int) (make : List Nat → Vec) : Except Flt State :=
  match s.wlit g with
  | none => s.noWrite g c d
  | some w => do
    checkPoison srcs
    let tried := (product (srcs.map (·.ts))).map fun p => (p.1, (addrs p.2).mapM fun ea => s.reachA a ea len word)
    let found := tried.filterMap fun p => (p.1.conj w).map fun k => (p.1, k, p.2)
    let hard := found.findSome? fun f =>
      match f.2.2 with
      | .error e => if f.2.1.isTrue then some e else none
      | .ok _ => none
    match hard with
    | some e => .error e
    | none =>
      let all := tried.flatMap fun f => match f.2 with
        | .ok l => l
        | .error _ => []
      let s ← s.claim s.iss.core s.iss.slot ((all.filter fun pa => regionOf pa ≠ .ctl).map offOf)
      let poison := found.findSome? fun f =>
        match f.2.2 with
        | .ok l => if f.2.1.isTrue then l.findSome? fun pa => s.poisonFlt pa len else none
        | .error _ => none
      match poison with
      | some e => .error e
      | none =>
        let pairs := found.map fun f =>
          let bad (e : Flt) : Pair :=
            ⟨f.1, 0, 0, some (s.mkTrap e.code e.sub e.info0 e.info1)⟩
          match f.2.2 with
          | .error e => bad e
          | .ok l =>
            match l.findSome? fun pa => s.poisonFlt pa len with
            | some e => bad e
            | none => (⟨f.1, make (l.map fun pa => s.readAt pa len), 0, none⟩ : Pair)
        let s := if all.any fun pa => regionOf pa = .ctl then { s with free := s.free + 1 } else s
        s.writeBack w false false lat c d pairs

/-- The value of a loaded datum of type column `ty` (R164): .i8 .n8 .i16 .n16 .i32 .n32 .i64. -/
def loadValue (ty v : Nat) : Nat := if ty % 2 = 0 then wrapInt 64 (sint (8 * 2 ^ (ty / 2)) v) else v

/-- LD (R164). -/
def execLd (g : Lit) (ty sd sa : Nat) (off : Int) (s : State) : Host.Outcome State Fault Refusal :=
  let n : Nat := 2 ^ (ty / 2)
  s.finish (s.loads g 6 .s sd n (ty = 6) .load [s.src .s sa]
    (fun l => [((toWord (l.headD 0)).toNat : Int) + off * n])
    (fun l => ofWord (BitVec.ofNat 64 (loadValue ty (l.headD 0)))))

/-- VLD (R165). -/
def execVld (g : Lit) (vd sa : Nat) (off : Int) (s : State) : Host.Outcome State Fault Refusal :=
  s.finish (s.loads g 8 .v vd 256 false .load [s.src .s sa]
    (fun l => [((toWord (l.headD 0)).toNat : Int) + off * 256])
    (fun l => BitVec.ofNat 2048 (l.headD 0)))

/-- The addresses of the 64 lanes of a gather or scatter (R166). -/
def laneAddrs (base idx : Vec) : List Int := (lanesOf 32 64 idx).map fun (i : Nat) => ((toWord base).toNat : Int) + i

/-- VGATHER (R166). -/
def execVgather (g : Lit) (vd sa vi : Nat) (s : State) : Host.Outcome State Fault Refusal :=
  s.finish (s.loads g 8 .v vd 4 false .load [s.src .s sa, s.src .v vi]
    (fun l => laneAddrs (l.getD 0 0) (l.getD 1 0))
    (fun l => pack 32 l))

/-! ### Stores (R164 to R166, R185, R240) -/

/-- The places of the held-store buffer that are taken: entries not yet released. -/
def Ctx.heldCount (x : Ctx) : Nat := x.held.length + x.relq.length

/-- The rows of the scratchpad that a store touches in its banks. -/
def Store.rows (t : Store) : List (Nat × Nat) := rowsOf (t.ws.map fun w => offOf w.addr)

/-- Whether a store is a requester of a bank where it performs (R167). -/
def Store.asks (t : Store) : Bool := t.kind = .plain || t.kind = .row

/-- Whether two stores ask for one bank. -/
def Store.meets (t u : Store) : Bool := t.asks && u.asks && t.rows.any fun a => u.rows.any fun b => a.1 = b.1

/-- Whether an ordinary store of its own context performs in cycle `c` in a bank of a released one (R186). -/
def Core.meetsStore (x : Core) (c : Nat) (h : Store) : Bool :=
  x.stores.any fun t => t.ctx = h.ctx && t.due = c && t.cube.isTrue && t.meets h

/-- The first cycle from `c` on, of `n` and one more, in which a released store meets no ordinary store of its context (R186). -/
def Core.freeDue (x : Core) (h : Store) : Nat → Nat → Nat
  | 0, c => c
  | n + 1, c => if x.meetsStore c h then x.freeDue h n (c + 1) else c

/-- The released stores of context `k`, and behind them those whose release is decided, with the cycles in which they perform, as they
stand when bundles issue in cycle `now` (R186). -/
def Core.heldDues (x : Core) (now k : Nat) : List (Store × Nat) :=
  let out := (x.stores.filter fun u => u.ctx = k && !u.cube.isTrue && now ≤ u.due).map fun u => (u, u.due)
  let next := (x.ctx k).relq.zipIdx.map fun p => (p.1, now + 5 + p.2)
  (out ++ next).foldl (fun a p =>
    a ++ [(p.1, x.freeDue p.1 x.stores.length (max p.2 ((a.getLast?).elim 0 (·.2 + 1))))]) []

/-- The bank-conflict fault of a store that issues in cycle `now` and would perform in a bank and a cycle in which another store of the
core performs, an ordinary one or a released one of another context (R22, R167): both are fixed at its issue, so it is found there
(log 61). One of its own context waits for it instead (R186). -/
def Core.storeMeets (c : Core) (now : Nat) (t : Store) : Option Flt :=
  if !t.asks then none
  else
    let held := (([0, 1, 2, 3].filter (· ≠ t.ctx)).flatMap fun k => c.heldDues now k).filter fun p => p.2 = t.due
    t.rows.findSome? fun r =>
      let meets (u : Store) : Bool := u.asks && u.rows.any fun v => v.1 = r.1
      if c.stores.any fun u => u.due = t.due && u.cube.isTrue && meets u then some ⟨0x04, 0, r.1 + 13 * 2 ^ 8 + 13 * 2 ^ 12, 0⟩
      else if held.any fun p => meets p.1 then some ⟨0x04, 0, r.1 + 12 * 2 ^ 8 + 13 * 2 ^ 12, 0⟩
      else none

/-- A store goes on its way: it performs at its due cycle. A lazy store is no part of its task's completion (R105, R241);
its buffer makes room in that cycle (drain number 0). -/
def State.launchStore (s : State) (t : Store) : State :=
  let s := s.fresh
  let t := { t with id := s.seqNo }
  let s := s.modMyCore fun c => { c with stores := c.stores ++ [t] }
  let s := if t.kind = .lazy then s.sched t.due phRoom s.iss.core 0 0 (.lazyDrain s.iss.core 0) else s.touch t.task t.due
  s.sched t.due phWrite s.iss.core s.iss.slot s.cyc (.storePerform s.iss.core s.iss.ctx t.id)

/-- One store for each combination of takes (R178): a pair under a true cube performs `lat` cycles after issue, another is held
under its cube; a failed check of one that is not true is deferred under it. `f` gives the writes of a combination. Of the sources
those at `at_` make the address: a poisoned one has no value to check, so it comes first (log 70); the poison of the others comes
behind the windows and the banks (R358). A deferred fault, which has no landing, enters the table at issue; where a seventeenth entry would
be needed, the bundle faults (R189, log 109). -/
def State.stores (s : State) (g : Lit) (lat reg : Nat) (kind : SKind) (at_ srcs : List Src)
    (f : List Vec → Except Flt (List Wr)) : Except Flt State :=
  match s.wlit g with
  | none => .ok s
  | some w => do
    checkPoison at_
    let due := s.cyc + lat
    let found := ((product (srcs.map (·.ts))).zipIdx).filterMap fun p =>
      (p.1.1.conj w).map fun k => (k, p.2, f p.1.2)
    let hard := found.findSome? fun p => match p.2.2 with
      | .error e => if p.1.isTrue then some e else none
      | .ok _ => none
    match hard with
    | some e => .error e
    | none =>
      let made := found.filterMap fun p => match p.2.2 with
        | .ok ws =>
          let kd := if ws.any fun x => regionOf x.addr = .ctl then SKind.control else kind
          some ({ id := 0, ctx := s.iss.ctx, slot := s.iss.slot, fpc := s.iss.pc, iat := s.cyc, sup := s.me.q.sup, ord := p.2.1,
                  due := due, kind := kd, ws := ws, part := s.me.q.part, task := s.me.q.task, ep := s.myCore.epoch, cube := p.1 } : Store)
        | .error _ => none
      let now := made.filter fun t => t.cube.isTrue
      let held := made.filter fun t => !t.cube.isTrue
      let dfr := found.filterMap fun p => match p.2.2 with
        | .error e => some (p.1, 0, some { s.mkTrap e.code e.sub e.info0 e.info1 with defer := true })
        | .ok _ => none
      match now.findSome? (s.myCore.storeMeets s.cyc) with
      | some e => .error e
      | none =>
      checkPoison srcs
      if 8 < s.me.heldCount + held.length then .error ⟨0x08, 5, reg, 0⟩
      else match s.me.deferAll dfr with
      | none => .error ⟨0x08, 6, reg, 0⟩
      | some x => .ok (now.foldl State.launchStore (s.setMe { x with held := x.held ++ held }))

/-- The scalar stores: the low bytes of the value at sa plus the scaled offset. -/
def State.storeS (s : State) (g : Lit) (ty sv sa : Nat) (off : Int) (kind : SKind) : Except Flt State :=
  let n : Nat := 2 ^ ty
  let a : Acc := if kind = .lazy then .lazy else .store
  s.stores g 4 (s.me.phys .s sv) kind [s.src .s sa] [s.src .s sa, s.src .s sv] fun l => do
    let pa ← s.reachA a (((toWord (l.getD 0 0)).toNat : Int) + off * n) n (ty = 3)
    .ok [⟨pa, n, (toWord (l.getD 1 0)).toNat % 2 ^ (8 * n)⟩]

/-- ST (R164): types .i8 .i16 .i32 .i64. -/
def execSt (g : Lit) (ty sv sa : Nat) (off : Int) (s : State) : Host.Outcome State Fault Refusal :=
  s.finish (s.storeS g ty sv sa off .plain)

/-- ST.Z (R240): enters the lazy buffer at issue + 4. -/
def execStZ (g : Lit) (ty sv sa : Nat) (off : Int) (s : State) : Host.Outcome State Fault Refusal :=
  s.finish (s.storeS g ty sv sa off .lazy)

/-- VST (R165): a row write. -/
def execVst (g : Lit) (vv sa : Nat) (off : Int) (s : State) : Host.Outcome State Fault Refusal :=
  let v := s.src .v vv
  s.finish (s.stores g (4 + coldAdd [v]) v.reg .row [s.src .s sa] [s.src .s sa, v] fun l => do
    let pa ← s.reachA .store (((toWord (l.getD 0 0)).toNat : Int) + off * 256) 256 false
    .ok [⟨pa, 256, (l.getD 1 0).toNat⟩])

/-- The writes of a scatter, lane 0 first, so that the highest lane's value remains (R166); two rows of one bank fault (R167). -/
def State.scatterWs (s : State) (base val idx : Vec) : Except Flt (List Wr) := do
  let pas ← (laneAddrs base idx).mapM fun ea => s.reachA .store ea 4 false
  let rs := rowsOf (pas.map offOf)
  match rs.find? fun r => rs.any fun t => t.1 = r.1 ∧ t.2 ≠ r.2 with
  | some r => .error ⟨0x04, 0, r.1 + s.iss.slot * 2 ^ 8 + s.iss.slot * 2 ^ 12, 0⟩
  | none => .ok ((pas.zip (lanesOf 32 64 val)).map fun p => ⟨p.1, 4, p.2⟩)

/-- VSCATTER (R166). A conflict within itself is decided by the bundle as a whole (R189). -/
def execVscatter (g : Lit) (vv sa vi : Nat) (s : State) : Host.Outcome State Fault Refusal :=
  let v := s.src .v vv
  let at_ := [s.src .s sa, s.src .v vi]
  let srcs := [s.src .s sa, v, s.src .v vi]
  let ws (l : List Vec) := s.scatterWs (l.getD 0 0) (l.getD 1 0) (l.getD 2 0)
  s.finish (match s.wlit g with
  | none => .ok s
  | some w =>
    match (product (srcs.map (·.ts))).findSome? fun p => match p.1.conj w, ws p.2 with
      | some _, .error e => if e.code = 0x04 ∧ at_.all (!·.poison) then some e else none
      | _, _ => none with
    | some e => .error e
    | none => s.stores g (4 + coldAdd [v]) v.reg .plain at_ srcs ws)

/-! ### Ports (R168, R171) -/

/-- The parameter set of a record (Table 06-11), or none if it breaks R168. -/
def portSet (x : Ctx) (r : Nat) : Option PortSet :=
  let hv := r.testBit 28
  let base := bits r 21 0
  let cnt := (List.range 4).map fun j => bits r (64 * j + 79) (64 * j + 64)
  let str := (List.range 4).map fun j => signed 24 (bits r (64 * j + 103) (64 * j + 80))
  let rsv := bits r 23 22 ≠ 0 ∨ bits r 63 29 ≠ 0 ∨ bits r 511 296 ≠ 0 ∨
    bits r 127 104 ≠ 0 ∨ bits r 191 168 ≠ 0 ∨ bits r 255 232 ≠ 0
  let ragged := hv = false ∧ (base % 256 ≠ 0 ∨ (cnt.zip str).any fun p => 1 < p.1 ∧ p.2 % 256 ≠ 0)
  if rsv ∨ ragged then none
  else some { base := base, hv := hv, hnd := bits r 27 24, hrec := aget x.hnd (bits r 27 24), cnt := cnt, str := str }

/-- Something has been done that cancels a pending continuation (R322): the model does not ask whether a handler did it or user code that
it returned to elsewhere (log 114). -/
def Arr.cancel (a : Arr) (p : Pass → Bool) : Arr := { a with conts := a.conts.filter fun c => !p c.pass }

/-- PSET (R168). It cancels a continuation that streams from the port (R322). -/
def execPset (p sa : Nat) (s : State) : Host.Outcome State Fault Refusal :=
  s.finish (do
    let a ← s.singleS sa
    let (s, r) ← s.readRec a 64 64 10 p
    match portSet s.me r with
    | none => .error ⟨0x0B, 10, p, 0⟩
    | some ps => .ok ((s.modMe fun x =>
        { x with ports := aset x.ports p { set := some ps, at_ := s.cyc, pos := 0, check := none, refetch := false } }).modArr s.iss.core fun a =>
          a.cancel fun c => c.ctx = s.iss.ctx && c.port = p))

/-- PTAG (R171): pops of the next cycles check for the tag. -/
def execPtag (p t : Nat) (s : State) : Host.Outcome State Fault Refusal :=
  s.finish (do
    s.noBrd
    .ok (s.modMe fun x => { x with ports := aset x.ports p { agetD x.ports p Port.reset with check := some t } }))

/-! ### Handles (R129, R130) -/

/-- Whether the granule at offset `g` lies in an element row of a record (Table 05-12 check 8). The gaps between rows whose stride is
above 256 are no part of the element extent (log 91). -/
def inElements (eb es rows g : Nat) : Bool :=
  let d := g - eb
  decide (eb ≤ g) && (if rows = 1 then decide (d < 256) else decide (d / es < rows) && decide (d % es < 256))

/-- The first check of Table 05-12 after the first that a record fails. -/
def sealCheck (r : BitVec 512) : Option Nat :=
  let v := r.toNat
  let rows := recRows r
  let eb := recEBase r
  let es := recEStride r
  let f := recFmt r
  let m := recSMode r
  let sb := recSBase r
  let ss := recSStride r
  if bits v 511 480 ≠ crc32c (bytesOf 60 v) then some 2
  else if bits v 31 22 ≠ 0 ∨ bits v 63 48 ≠ 0 ∨ bits v 95 86 ≠ 0 ∨ bits v 99 99 ≠ 0 ∨ bits v 127 102 ≠ 0 ∨
      bits v 159 150 ≠ 0 ∨ bits v 479 182 ≠ 0 ∨ 6 ≤ f ∨ 2 ≤ m then some 3
  else if rows = 0 ∨ 16384 < rows then some 4
  else if eb % 256 ≠ 0 ∨ (1 < rows ∧ (es = 0 ∨ es % 256 ≠ 0)) then some 5
  else if 0x400000 < eb + (rows - 1) * es + 256 then some 6
  else if m = 1 ∧ (f = 4 ∨ sb % 64 ≠ 0 ∨ (1 < rows ∧ (ss = 0 ∨ ss % 64 ≠ 0))) then some 7
  else if m = 1 ∧ (0x400000 < sb + (rows - 1) * ss + fmtBlocks f ∨
      (List.range rows).any fun i => inElements eb es rows (sb + i * ss)) then some 8
  else none

/-- SEAL (R130). Its check 1 is made on the offset that the window gives, which lies below 4 MiB (R163). -/
def execSeal (hd sa : Nat) (s : State) : Host.Outcome State Fault Refusal :=
  s.finish (do
    let a ← s.singleS sa
    let (s, r) ← s.readRec a 64 64 1 hd
    match sealCheck (BitVec.ofNat 512 r) with
    | some i => .error ⟨0x0B, i, hd, 0⟩
    | none => .ok (s.flight Cube.tt (s.cyc + 8) .hnd hd [⟨Cube.tt, BitVec.ofNat 2048 r, 0, none⟩]))

/-! ### Windows (R231) -/

/-- BIND (R231): walks at issue; its outcome takes effect 64 cycles later. -/
def execBind (w sa : Nat) (s : State) : Host.Outcome State Fault Refusal :=
  s.finish (do
    checkVal (s.valS sa) fun a => if a % 32 ≠ 0 then .error ⟨0x0A, 1, w, a⟩ else .ok ()
    if s.me.bind.any fun b => s.cyc < b.due then .error ⟨0x05, 6, 35, 0⟩
    let a ← s.singleS sa
    s.noBrd
    let n := s.iss.core
    let k := s.iss.ctx
    let fl : BindFl := match s.bindWalk n s.me a with
      | some new => ⟨w, s.cyc + 64, new, none⟩
      | none => ⟨w, s.cyc + 64, none, some (s.mkTrap 0x0A 2 w a)⟩
    .ok ((s.modMe fun x => { x with bind := some fl }).sched (s.cyc + 64) phLand n k 0 (.bindComplete n k)))

end Sys2Proof.Machine
end

