-- ==== Sys2Proof/Machine/Memory.lean ====
section
/-! DEFINITION. Copies, atomics, fences and persists (12_memory.md R235 to R249, 13_ordering_rules.md R264 to R266). -/

namespace Sys2Proof.Machine

/-! ### Places and latencies (R24, R236) -/

/-- The shorter stop distance between two stops of a die. -/
def hops (a b : Nat) : Nat := min ((a + 128 - b % 128) % 128) ((b + 128 - a % 128) % 128)

/-- Die crossings between two dies, counted the short way. -/
def crossings (a b : Nat) : Nat := min ((a + 8 - b % 8) % 8) ((b + 8 - a % 8) % 8)

/-- The die and stop at which an endpoint stands (R24, R236); memory and queues stand at stop 0. -/
def standsAt : Region → Nat × Nat
  | .spad n => (n / 64, 2 * (n % 64))
  | .ring j => (j / 64, 2 * (j % 64) + 1)
  | .tq q => (q / 64, 0)
  | .hbm d => (d, 0)
  | _ => (0, 0)

def ceilDiv (a b : Nat) : Nat := (a + b - 1) / b

/-- The path classes of copies (R237). -/
inductive PathClass where
  | sram | hbm | lpddr | outer
  deriving DecidableEq, Repr

def isHbm : Region → Bool
  | .hbm _ => true
  | _ => false

def isOuter : Region → Bool
  | .host | .pod => true
  | _ => false

def isTq : Region → Bool
  | .tq _ => true
  | _ => false

def pathClass (a b : Region) : PathClass :=
  if a = .lpddr ∨ b = .lpddr then .lpddr
  else if isHbm a || isHbm b then .hbm
  else if isOuter a || isOuter b then .outer
  else .sram

/-- Bytes per cycle of a class. -/
def PathClass.rate : PathClass → Nat
  | .sram => 256
  | .hbm => 96
  | .lpddr => 24
  | .outer => 1

/-- Stop-to-stop cycles between two places. -/
def travel (a b : Nat × Nat) : Nat :=
  if a.1 = b.1 then hops a.2 b.2 else hops a.2 0 + hops 0 b.2 + 24 * crossings a.1 b.1

/-- The latency of a copy of `n` bytes made by core `c` between two in-package regions (R236). -/
def copyLatency (c : Nat) (a b : Region) (n : Nat) : Nat :=
  match pathClass a b with
  | .lpddr => 1400 + ceilDiv n 24
  | .hbm => 640 + 24 * crossings (standsAt a).1 (standsAt b).1 + ceilDiv n 96
  | _ =>
    if a = .spad c ∧ b = .spad c then 6 + ceilDiv n 256
    else 8 + travel (standsAt a) (standsAt b) + ceilDiv n 256

/-! ### COPY (R41, R235) -/

/-- The busy-until cycle of a class (R237). -/
def Core.busy (c : Core) : PathClass → Nat
  | .sram => c.busyA
  | .hbm => c.busyH
  | .lpddr => c.busyD
  | .outer => 0

def Core.setBusy (c : Core) (k : PathClass) (t : Nat) : Core :=
  match k with
  | .sram => { c with busyA := t }
  | .hbm => { c with busyH := t }
  | .lpddr => { c with busyD := t }
  | .outer => c

/-- A window fault of an address found before or beside its translation. -/
def State.winFlt (s : State) (sub : Nat) (ea : Nat) : Flt := ⟨0x0A, sub, (s.me.window ea).elim 16 (·.1), ea⟩

/-- Whether an address lies in a window onto a token queue. -/
def State.onTq (s : State) (a : Nat) : Bool := (s.me.window a).any fun w => isTq (regionOf (w.2.pbase + (a - w.2.vbase)))

/-- The checks of COPY in the order in which R235 lists them, each on the operands that have a value: alignment and length, at most 4096
bytes for a token queue. -/
def State.copyAligned (s : State) (vd va vn : Option Nat) : Except Flt Unit := do
  checkVal vd fun d => if d % 64 ≠ 0 then .error (s.winFlt 1 d) else .ok ()
  checkVal va fun a => if a % 64 ≠ 0 then .error (s.winFlt 1 a) else .ok ()
  checkVal vn fun n => if n % 64 ≠ 0 ∨ n < 64 ∨ 0x400000 < n then .error (s.winFlt 1 (va.getD 0))
    else match vd with
    | some d => if 4096 < n ∧ s.onTq d = true then .error (s.winFlt 1 d) else .ok ()
    | none => .ok ()

/-- The window of one side of a copy (R230): its physical address, if its operands have values. -/
def State.copySide (s : State) (k : Acc) (v vn : Option Nat) : Except Flt (Option Nat) :=
  match v, vn with
  | some a, some n => (translate s.me s.iss.core k a n 1 false).map some
  | _, _ => .ok none

/-- A token queue as the destination: the range lies within the queue; a source at the host or in the pod needs one. -/
def State.copyQueue (s : State) (vd va vn src dst : Option Nat) : Except Flt Unit :=
  match dst, vn with
  | some p, some n => do
    let q := isTq (regionOf p)
    if q && decide (0x1000 < p % 0x1000 + n) then .error (s.winFlt 6 (vd.getD 0))
    if !q && src.any fun a => isOuter (regionOf a) then .error (s.winFlt 6 (va.getD 0))
  | _, _ => .ok ()

/-- The start time (R41, R235). -/
def State.copyStartOk (s : State) (st : Nat) : Except Flt Unit :=
  let start := s.me.q.base + st % 2 ^ 48
  if start ≤ s.cyc ∨ st / 2 ^ 56 ≠ 0 then .error ⟨0x03, 2, st, 0⟩
  else if 2 ^ 20 < start - s.cyc then .error ⟨0x05, 5, 36, 0⟩
  else .ok ()

/-- The spacing of the path class (R237). -/
def State.copySpaced (s : State) (vt src dst : Option Nat) : Except Flt Unit :=
  match vt, src, dst with
  | some st, some a, some d =>
    let t := s.myCore.busy (pathClass (regionOf a) (regionOf d))
    if s.me.q.base + st % 2 ^ 48 < t then .error ⟨0x03, 4, t, 0⟩ else .ok ()
  | _, _, _ => .ok ()

/-- COPY (R235). -/
def execCopy (rd ra rn rt : Nat) (s : State) : Host.Outcome State Fault Refusal :=
  s.finish (do
    let core := s.iss.core
    let vd := s.valS rd
    let va := s.valS ra
    let vn := s.valS rn
    let vt := s.valS rt
    s.copyAligned vd va vn
    let src ← s.copySide .copySrc va vn
    let dst ← s.copySide .copyDst vd vn
    s.copyQueue vd va vn src dst
    checkVal vt s.copyStartOk
    if 1536 ≤ s.myCore.copies.length then .error ⟨0x05, 5, 36, 0⟩
    s.copySpaced vt src dst
    let d ← s.singleS rd
    let a ← s.singleS ra
    let n ← s.singleS rn
    let st ← s.singleS rt
    s.noBrd
    let src ← translate s.me core .copySrc a n 1 false
    let dst ← translate s.me core .copyDst d n 1 false
    let rs := regionOf src
    let rdst := regionOf dst
    let start := s.me.q.base + st % 2 ^ 48
    let k := pathClass rs rdst
    let s := s.fresh
    let outer := isOuter rs || isOuter rdst
    let arrive := if outer then 0 else start + copyLatency core rs rdst n
    let e : CopyEnt :=
      { id := s.seqNo, seq := s.myCore.copySeq, ctx := s.iss.ctx, slot := s.iss.slot, fpc := s.iss.pc, iat := s.cyc, sup := s.me.q.sup,
        part := s.me.q.part, task := s.me.q.task, start := start, arrive := arrive, src := src, dst := dst, len := n,
        tag := st / 2 ^ 48 % 256, data := 0, poison := [], left := n / 64, back := 0, logged := false }
    let s := s.modMyCore fun c =>
      { c.setBusy k (start + ceilDiv n k.rate) with copies := c.copies ++ [e], copySeq := (c.copySeq + 1) % 2 ^ 32 }
    let s := if outer then s.workOpen e.task else s.touch e.task arrive
    .ok (s.sched start phArray core 6 s.cyc (.copyStart core e.id)))

/-! ### ATOM (R244 to R246) -/

/-- The number of cycles to the target of an atomic of core `n` (R245). -/
def atomTravel (n : Nat) (r : Region) : Nat := if r = .spad n then 0 else travel (n / 64, 2 * (n % 64)) (standsAt r)

/-- ATOM on a host or pod window (R246): sd receives the atomic sequence number at issue + 1, and the request departs in the order of
R266. -/
def State.atomOut (s : State) (f : AtomFl) (host : Bool) (target : Nat) : State :=
  let n := s.iss.core
  let s := s.modMyCore fun c => { c with atoms := c.atoms ++ [f], atomSeq := (c.atomSeq + 1) % 2 ^ 32 }
  let s := (s.workOpen f.task).wants (s.cyc + 4) [s.cyc + 4, n, 1, 0] (if host then 0 else target + 1)
    (.atomic f.addr f.op f.wide f.b f.cmp f.seq)
  s.flight Cube.tt (s.cyc + 1) .s (s.me.phys .s f.sd) [⟨Cube.tt, ofWord (BitVec.ofNat 64 f.seq), 0, none⟩]

/-- The address of an atomic of `len` bytes: alignment and windows (R245), and what host and pod take (R246, R353). -/
def State.atomAddr (s : State) (op len a : Nat) : Except Flt Nat := do
  if a % len ≠ 0 then .error (s.winFlt 1 a)
  let pa ← translate s.me s.iss.core .atom a len len false
  let r := regionOf pa
  if isOuter r && !(op = 0 || op = 3 || op = 4) then .error (s.winFlt 6 a)
  if r = .host && !Config.hostAtomics then .error (s.winFlt 6 a)
  .ok pa

/-- ATOM (R244). On a host or pod window it names the reply queue, which its partition must hold (R95, R296, log 103). -/
def execAtom (op : Nat) (wide : Bool) (sd sa sb : Nat) (s : State) : Host.Outcome State Fault Refusal :=
  s.finish (do
    let len := if wide then 8 else 4
    let core := s.iss.core
    checkVal (s.valS sa) fun a => (s.atomAddr op len a).map fun _ => ()
    let cmp ← if op = 4 then s.singleS sd else .ok 0
    let a ← s.singleS sa
    let b ← s.singleS sb
    s.noBrd
    let pa ← s.atomAddr op len a
    let r := regionOf pa
    let rq := (s.me.window a).elim 0 (·.2.rq)
    if isOuter r && !s.holdsTq s.me.q.part (dieOf core * 64 + rq) then .error ⟨0x06, 5, rq, 0⟩
    let host := r = .host
    let s := s.fresh
    let f : AtomFl :=
      { id := s.seqNo, seq := s.myCore.atomSeq, ctx := s.iss.ctx, slot := s.iss.slot, fpc := s.iss.pc, iat := s.cyc, sup := s.me.q.sup,
        part := s.me.q.part, task := s.me.q.task, op := op, wide := wide, sd := sd, addr := pa, b := b, cmp := cmp,
        rq := dieOf core * 64 + rq, due := 0, host := host }
    if isOuter r then .ok (s.atomOut f host (bits pa 43 24))
    else
      let p := atomTravel core r
      let s := s.flight Cube.tt (s.cyc + 6 + 2 * p) .s (s.me.phys .s sd) [⟨Cube.tt, 0, 0, none⟩]
      let f := { f with id := s.seqNo, due := s.cyc + 4 + p }
      .ok (((s.modMyCore fun c => { c with atoms := c.atoms ++ [f] }).touch f.task f.due).sched f.due phWrite core 6 s.cyc
        (.atomPerform core f.id)))

/-! ### Fences (R242, R243) -/

/-- FENCE.O (R242). -/
def execFenceO (s : State) : Host.Outcome State Fault Refusal :=
  s.finish (do
    s.noBrd
    .ok (s.modMyCore fun c => { c with epoch := c.epoch + 1 }))

/-- The entries of a lazy buffer with the order of the epochs kept (R241): an entry drains no later than one of a later epoch. -/
def epochOrder (l : List LazyEnt) : List LazyEnt :=
  l.map fun e => { e with due := (l.filter fun f => e.epoch < f.epoch).foldl (fun d f => min d f.due) e.due }

/-- The lazy buffer of core `n` becomes `l`, in the order of its epochs; an entry whose drain has moved, or a new one, is put into
the calendar at its own place in the order of R227: its core, slot 6, the issue cycle of its first store. -/
def State.setLazy (s : State) (n : Nat) (l : List LazyEnt) : State :=
  let old := (s.core n).lazy
  let l := epochOrder l
  l.foldl (fun s e =>
    if old.any fun f => f.id = e.id && f.due = e.due && f.first = e.first then s
    else s.sched e.due phWrite n 6 e.first (.lazyDrain n e.id)) (s.modCore n fun x => { x with lazy := l })

/-- Bring the drains of the lazy entries of core `n` that hold a store issued at or before cycle `c` forward: they perform before
cycle `bound`, so that every access of that cycle sees them (R243, R262). -/
def State.forceLazy (s : State) (n c bound : Nat) : State :=
  let s := s.modCore n fun x => { x with fx := (x.fx.filter fun f => s.cyc < f.1 + 8192) ++ [(c, bound - 1)] }
  s.setLazy n ((s.core n).lazy.map fun e => if e.first ≤ c then { e with due := min e.due (bound - 1) } else e)

/-- FENCE.X (R243). -/
def execFenceX (sa : Nat) (s : State) : Host.Outcome State Fault Refusal :=
  s.finish (do
    let n ← s.singleS sa
    if 512 ≤ n ∨ s.holdsCore s.me.q.part n = false then .error ⟨0x0A, 6, 16, n⟩
    s.noBrd
    .ok (s.forceLazy n s.cyc (s.cyc + 64 + 24 * crossings (dieOf s.iss.core) (dieOf n))))

/-! ### Persists (R247 to R249, R264, R346) -/

/-- The granules of a flush as they stand: scratchpad granule number, data, tag, poison. -/
def State.capture (s : State) (pa n : Nat) : List (Nat × BitVec 512 × Nat × Bool) :=
  (List.range (n / 64)).map fun i =>
    let a := pa + 64 * i
    (offOf a / 64, BitVec.ofNat 512 (s.load a 64), s.tag (granOf a), s.poisoned a 64)

/-- The persist cycle of the last granule of a flush. -/
def Flush.last (f : Flush) : Nat := f.p0 + 2 * (f.grans.length - 1)

/-- Whether core `m` lies in the scope instance of core `n`: `.co`, `.qd`, `.di`, `.pk` (Table 03-18). -/
def inScope (sc n m : Nat) : Bool :=
  match sc with
  | 1 => m = n
  | 2 => m / 4 = n / 4
  | 3 => m / 64 = n / 64
  | _ => true

/-- The last persist cycle of the flushes and PSAVE records that a core has issued at or before cycle `c` (R248). -/
def Core.lastPersist (x : Core) (c : Nat) : Nat :=
  ((x.flushes.filter fun f => f.iat ≤ c).map Flush.last ++ (x.saves.filter fun v => v.kind = 1 && v.iat ≤ c).map (·.header)).foldl max 0

/-- The last persist cycle of the token-queue changes of a die made at or before cycle `c` (R265). -/
def Die.lastPersist (d : Die) (c : Nat) : Nat :=
  (d.tqs.flatMap fun q => (q.2.chg.filter fun g => g.at_ ≤ c && g.change).map fun g => g.at_ + 32).foldl max 0

/-- The last persist that a PFENCE of core `n`, issued in cycle `c`, covers (R248). -/
def State.covered (s : State) (n c sc : Nat) : Nat :=
  let a := ((s.cores.filter fun p => inScope sc n p.1).map fun p => p.2.lastPersist c).foldl max 0
  let b := ((s.dies.filter fun p => sc = 4 || (sc = 3 && p.1 = dieOf n)).map fun p => p.2.lastPersist c).foldl max 0
  max a b

/-- The last persist that the persists of core `n` which start in this cycle wait for (R264). A PFENCE covers what its own cycle
issued anywhere in its scope, so it is judged in the cycles after it. -/
def State.fencePoint (s : State) (n : Nat) : Nat :=
  ((s.core n).fenceAt.filter fun f => f.1 < s.cyc).foldl (fun m f => max m (s.covered n f.1 f.2)) (s.core n).fence

/-- The range of PFLUSH (R247): its physical address, or its window fault. -/
def State.flushRange (s : State) (a n : Nat) : Except Flt Nat := do
  let pa ← match translate s.me s.iss.core .flush a n 1 false with
    | .ok pa => .ok pa
    | .error f => .error (if f.sub = 7 ∨ f.sub = 3 then f else s.winFlt 0 a)
  if (s.me.window a).any fun d => d.2.attr ≠ 2 then .error (s.winFlt 0 a)
  .ok pa

/-- PFLUSH (R247). The check of NEGRDY (R342) comes first (log 107). -/
def execPflush (sa sn : Nat) (s : State) : Host.Outcome State Fault Refusal :=
  s.finish (do
    if s.negReady = false then .error ⟨0x05, 8, 40, 0⟩
    let va := s.valS sa
    let vn := s.valS sn
    checkVal va fun a => if a % 64 ≠ 0 then .error (s.winFlt 1 a) else .ok ()
    checkVal vn fun n => if n % 64 ≠ 0 ∨ n < 64 ∨ 0x100000 < n then .error (s.winFlt 1 (va.getD 0)) else .ok ()
    match va, vn with
    | some a, some n => s.flushRange a n
    | _, _ => .ok 0
    let a ← s.singleS sa
    let n ← s.singleS sn
    s.noBrd
    let core := s.iss.core
    let pa ← s.flushRange a n
    let s := s.fresh
    let f : Flush :=
      { id := s.seqNo, iat := s.cyc, p0 := max (s.cyc + 16) (max s.myCore.flushFree (s.fencePoint core + 1)), grans := s.capture pa n }
    .ok ((s.modMyCore fun c => { c with flushes := c.flushes ++ [f], flushFree := f.last + 1 }).sched f.p0 phArray core 6 f.id
      (.flushGranulePersist core f.id 0)))

/-- PFENCE (R248, R264): later persists of the core wait for every covered persist issued up to and in this cycle. -/
def execPfence (sc : Nat) (s : State) : Host.Outcome State Fault Refusal :=
  s.finish (do
    s.noBrd
    let p := s.fencePoint s.iss.core
    .ok (s.modMyCore fun c =>
      { c with fence := p, fenceAt := (c.fenceAt.filter fun f => s.cyc ≤ f.1) ++ [(s.cyc, sc)] }))

/-- Put a record on the shadow path of core `n`, with `m` cycles of matrix state before its payload: it begins after cycle
`from_`, once the earlier record is complete (R249, R330, R346), and its header waits for what a PFENCE holds it to (R264).
The row of the record runs where the matrix state, the payload and the header begin. Answers the record's completion cycle. -/
def State.shadow (s : State) (n k kind from_ m : Nat) (pay : Payload) (mat : Option Arr) (mlen : Nat) : State × Nat :=
  let s := s.fresh
  let c := s.core n
  let b := max (from_ + 1) c.shadowFree
  let h := max (b + m + 46) (s.fencePoint n + 1)
  let v : Save :=
    { id := s.seqNo, ctx := k, kind := kind, iat := s.cyc, from_ := b, start := b + m, header := h, slot := none, pay := pay, mat := mat,
      mlen := mlen }
  let s := s.modCore n fun c => { c with saves := c.saves ++ [v], shadowFree := h + 2 }
  ([b, b + m, h].foldl (fun s t => s.sched t phArray n 6 v.id (.psaveHeaderWrite n v.id)) s, h + 1)

/-- A context as a record taken in cycle `c` keeps it (Table 18-8): work under way left out, but for a BIND in flight, whose
outcome is fixed at its issue: the window is bound, or unbound where its walk failed (R231). A block stays only if its operation can complete. `stopped` says that the context was Stopped
before (R330); a port keeps whether its first row is to be fetched again (R331). -/
def Ctx.image (x : Ctx) (c : Nat) (stopped : Bool) : Ctx :=
  let q := { x.q with
    base := x.q.newBase.getD x.q.base, newBase := none, wait := none, block := x.q.block.filter (·.go), xfer := none, itlb := [],
    parked := stopped, preT := none, saving := none, owns := false }
  { x with
    ar := { x.ar with evAt := 0, evNew := 0 }, fl := [], brd := none, held := [], relq := [], bind := none, fault := none, heldF := none, q := q,
    win := (match x.bind with
      | some b => (match b.new with
        | some w => aset x.win b.w w
        | none => adel x.win b.w)
      | none => x.win),
    pendF := x.pendF ++ (x.bind.bind (·.trap)).toList,
    ports := x.ports.map fun p => (p.1, { p.2 with at_ := 0, refetch := p.2.refetch || decide (c < p.2.at_ + 8) }) }

/-- PSAVE (R249): captures the context, whose resume address is the next bundle. The check of NEGRDY (R342) comes behind that of a BRD
(log 107). -/
def execPsave (s : State) : Host.Outcome State Fault Refusal :=
  s.finish (do
    s.rulePlace .psave
    s.noBrd
    if s.negReady = false then .error ⟨0x05, 8, 42, 0⟩
    let x := s.me.image s.cyc false
    let x := { x with q := { x.q with pc := x.q.npc, span := 0 } }
    let pay : Payload := { ctx := x, resume := x.q.pc, taskid := (s.task? x.q.task).elim 0 (·.taskid) }
    .ok (s.shadow s.iss.core s.iss.ctx 1 s.cyc 0 pay none 0).1)

end Sys2Proof.Machine
end

