-- ==== Sys2Proof/Machine/Queue.lean ====
section
/-! DEFINITION. The reel, token queues, barriers and interrupts (12_memory.md R233, R234, 04_progress.md R95 to R98, 17_isolation.md
R304). -/

namespace Sys2Proof.Machine

/-! ### The reel (R24, R43, R233, R234) -/

/-- The lane slot of a flit that enters at stop `a` in cycle `e` (R233). -/
def laneSlot (lane a e : Nat) : Nat := if lane < 8 then (a + 128 - e % 128) % 128 else (a + e) % 128

/-- The stop distance from stop `a` to stop `b` on a lane (R24). -/
def laneDist (lane a b : Nat) : Nat := if lane < 8 then (b + 128 - a % 128) % 128 else (a + 128 - b % 128) % 128

/-- The stop of a core on its die's reel (R24). -/
def stopOf (core : Nat) : Nat := 2 * (core % 64)

/-- Whether a flit would meet another that enters in cycle `e` at stop `a`: one lane slot, and both on the lane at once. -/
def Flit.meets (f : Flit) (lane a e : Nat) : Bool :=
  f.lane = lane && laneSlot lane f.stop f.enter = laneSlot lane a e && f.enter ≤ e + 129 && e ≤ f.enter + 129

/-- Whether a flit is available to stop `b` in cycle `c`. -/
def Flit.availableTo (f : Flit) (lane b c : Nat) : Bool := f.lane = lane && f.enter + 2 + laneDist lane f.stop b = c

/-- RTX (R233). -/
def execRtx (lane v : Nat) (s : State) : Host.Outcome State Fault Refusal :=
  s.finish (do
    let n := s.iss.core
    let e := s.cyc + coldAdd [s.src .v v]
    match (s.die (dieOf n)).flits.find? fun f => f.meets lane (stopOf n) e with
    | some f => .error ⟨0x03, 3, lane + f.core * 2 ^ 16, 0⟩
    | none =>
      s.unguarded [(.v, v)]
      let x ← s.single .v v
      let s := s.fresh
      let f : Flit := { id := s.seqNo, lane := lane, stop := stopOf n, enter := e, core := n, part := s.me.q.part, data := x }
      .ok (((s.modDie (dieOf n) fun d => { d with flits := d.flits ++ [f] }).touch s.me.q.task (e + 129)).sched (e + 129)
        phSeg n 7 s.seqNo (.flitLeave (dieOf n) f.id)))

/-- RTAP (R43, R234): the flit available to this stop, if any, is written one cycle later. -/
def execRtap (lane sa t : Nat) (s : State) : Host.Outcome State Fault Refusal :=
  s.finish (do
    checkVal (s.valS sa) fun a => (s.reachA .store a 256 false).map fun _ => ()
    s.unguarded [(.s, sa)]
    let a ← s.singleS sa
    let pa ← s.reachA .store a 256 false
    let n := s.iss.core
    match (s.die (dieOf n)).flits.find? fun f => f.availableTo lane (stopOf n) s.cyc && f.part = s.me.q.part with
    | none => .ok s
    | some f =>
      let s := s.fresh
      let w : Store :=
        { id := s.seqNo, ctx := s.iss.ctx, slot := s.iss.slot, fpc := s.iss.pc, iat := s.cyc, sup := s.me.q.sup, ord := 0,
          due := s.cyc + 1, kind := .tap, ws := [⟨pa, 256, f.data.toNat⟩], part := s.me.q.part, task := s.me.q.task, ep := t, cube := Cube.tt }
      .ok (((s.modMyCore fun c => { c with stores := c.stores ++ [w] }).touch w.task w.due).sched w.due phWrite n 7 s.cyc
        (.storePerform n s.iss.ctx w.id)))

/-! ### Token queues (R95, R96) -/

/-- The number of queue `q` of the issuing core's die. -/
def State.myTq (s : State) (q : Nat) : Nat := dieOf s.iss.core * 64 + q

/-- A queue operation needs its partition to hold the queue (R95). -/
def State.tqHeld (s : State) (q : Nat) : Except Flt Unit :=
  if s.holdsTq s.me.q.part (s.myTq q) then .ok () else .error ⟨0x06, 5, q, 0⟩

/-- Whether the block of the issuing context is of a kind and can complete. -/
def State.released (s : State) (k : BKind) : Option Block := s.me.q.block.filter fun b => b.kind = k && b.go

/-- Mark the bundle being issued as blocked. -/
def State.blockOn (s : State) (k : BKind) : State := { s with iss := { s.iss with block := some k } }

/-- TQSEND (R95): the low 64 bytes of v become an entry receivable at issue + 6. -/
def execTqsend (q v : Nat) (s : State) : Host.Outcome State Fault Refusal :=
  s.finish (do
    s.rulePlace (.tqsend q v)
    s.noBrd
    s.tqHeld q
    let x ← s.single .v v
    let t := s.myTq q
    let r := s.tq t
    let given := (s.released (.send t)).isSome
    if !given && decide (64 ≤ r.taken) then .ok (s.blockOn (.send t))
    else
      let due := s.cyc + 6 + coldAdd [s.src .v v]
      let s := s.fresh
      let e : TqIn :=
        { id := s.seqNo, data := x.setWidth 512, poison := false, since := due, src := s.iss.core, seq := 0, copy := none }
      .ok ((s.setTq t { r with sent := r.sent ++ [e], busy := if given then r.busy - 1 else r.busy }).sched due phQueue
        s.iss.core 0 s.seqNo (.tqEntryReceivable t e.id)))

/-- TQRECV (R45, R95): the oldest unreserved entry, or the one reserved while the context was blocked, lands in v at issue + 8. A
poisoned entry is removed and raises its fault at the landing. -/
def execTqrecv (v q : Nat) (s : State) : Host.Outcome State Fault Refusal :=
  s.finish (do
    s.rulePlace (.tqrecv v q)
    s.noBrd
    s.tqHeld q
    let t := s.myTq q
    let r := s.tq t
    let mine := (s.released (.recv t)).bind fun b => r.ents.find? fun e => some e.id = b.entry
    match mine.or (r.ents.find? fun e => e.resv.isNone) with
    | none => .ok (s.blockOn (.recv t))
    | some e =>
      let s := (s.setTq t { r with
        ents := r.ents.filter fun x => x.id ≠ e.id, busy := r.busy + 1, head := (r.head + 1) % 64 }).tqChanged t []
      let s := s.sched (s.cyc + 1) phQueue 1000 t s.seqNo (.tqPlaceFreed t)
      let trap := if e.poison then some (s.mkTrap 0x0C 0 q 0) else none
      s.writeBack Cube.tt false false 8 .v v [⟨Cube.tt, e.data.setWidth 2048, 0, trap⟩])

/-- TQPEEK (R95): the count of receivable entries, at issue + 2. -/
def execTqpeek (sd q : Nat) (s : State) : Host.Outcome State Fault Refusal :=
  s.finish (do
    s.noBrd
    s.tqHeld q
    s.writeBack Cube.tt false false 2 .s sd [⟨Cube.tt, ofWord (BitVec.ofNat 64 (s.tq (s.myTq q)).ents.length), 0, none⟩])

/-! ### Barriers (R97, R98) -/

/-- The number of an instance of barrier `num`: partition, scope code, scope instance. -/
def barKey (part sc inst num : Nat) : Nat := ((part * 8 + sc) * 1024 + inst) * 16 + num

/-- The scope instance that holds core `n`: core, quad, die, or the only one. -/
def scopeInst (sc n : Nat) : Nat :=
  match sc with
  | 1 => n
  | 2 => n / 4
  | 3 => n / 64
  | _ => 0

/-- The cores of partition `p` among the `n` cores from `a` on. -/
def State.coresIn (s : State) (p a n : Nat) : Nat := ((List.range n).filter fun i => s.holdsCore p (a + i)).length

/-- The scope size (R97); at `.pd` with the cores that the partition holds in the other packages (log 31). -/
def State.scopeSize (s : State) (p sc inst : Nat) : Nat :=
  match sc with
  | 1 => 4
  | 2 => s.coresIn p (4 * inst) 4
  | 3 => s.coresIn p (64 * inst) 64
  | 4 => s.coresIn p 0 512
  | _ => s.coresIn p 0 512 + Config.podCores p

/-- The cycles from the last arrival to the release. -/
def barLat (sc : Nat) : Nat :=
  match sc with
  | 1 => 2
  | 2 => 4
  | 3 => 16
  | _ => 48

/-- Whether an instance has an open phase. -/
def Barrier.isOpen (b : Barrier) : Bool := b.arr ≠ [] || b.pois ≠ 0

/-- Whether the phase of an instance has closed in cycle `c`: an arrival of that cycle still counts toward it. -/
def Barrier.closing (b : Barrier) (sc c : Nat) : Bool := b.rel.any fun r => r.1 = c + barLat sc

/-- The participant count of an arrival (0 stands for the scope size), or its fault against a phase (R97). -/
def State.barCount (s : State) (b : Barrier) (sc size n : Nat) : Except Flt Nat :=
  let n := if n = 0 then size else n
  let first := if b.isOpen || b.closing sc s.cyc then b.n else n
  if n ≠ first ∨ size < n then .error ⟨0x03, 5, first % 256 + n % 256 * 2 ^ 8, 0⟩ else .ok n

/-- The phase of an instance closes in this cycle if its Nth arrival has happened; its release follows (R97). -/
def State.barClose (s : State) (part sc inst num : Nat) (b : Barrier) : State :=
  let key := barKey part sc inst num
  if sc ≠ 5 ∧ b.n ≤ b.arr.length + b.pois then
    let t := s.cyc + barLat sc
    let b' : Barrier := { b with arr := [], pois := 0, rel := b.rel ++ [(t, b.arr, decide (0 < b.pois))] }
    ({ s with bars := aset s.bars key b' } : State).sched t phQueue 3000 key 0 (.barrierRelease part sc inst num)
  else { s with bars := aset s.bars key b }

/-- An arrival of participant `who` with count `n` (R97). -/
def State.barArrive (s : State) (part sc inst num who n : Nat) : State :=
  let key := barKey part sc inst num
  let b := agetD s.bars key Barrier.reset
  if b.closing sc s.cyc then
    let rel := b.rel.map fun r => if r.1 = s.cyc + barLat sc then (r.1, r.2.1 ++ [who], r.2.2) else r
    { s with bars := aset s.bars key { b with rel := rel } }
  else s.barClose part sc inst num { b with n := if b.isOpen then b.n else n, arr := b.arr ++ [who] }

/-- BAR (R45, R97): the arrival is made when the bundle blocks (`barArrive`); once released, the bundle issues. At `.pd` the
release comes from the pod. -/
def execBar (sc b sp : Nat) (s : State) : Host.Outcome State Fault Refusal :=
  s.finish (do
    s.rulePlace (.bar sc b sp)
    if sc = 0 then do
      s.noBrd
      .ok s
    else
      s.unguarded [(.s, sp)]
      let n ← s.singleS sp
      let p := s.me.q.part
      let inst := scopeInst sc s.iss.core
      let key := barKey p sc inst b
      match s.released (.bar key) with
      | some r =>
        let s := s.modSeq s.iss.core s.iss.ctx fun q => { q with lastrel := r.entry.getD q.lastrel }
        .ok (if r.poisoned then { s with iss := { s.iss with post := some (s.mkTrap 0x0C 1 0 0) } } else s)
      | none =>
        let _ ← s.barCount (agetD s.bars key Barrier.reset) sc (s.scopeSize p sc inst) n
        .ok (s.blockOn (.bar key)))

/-! ### Interrupts to the host (R304) -/

/-- IRQ (R304). -/
def execIrq (n : Nat) (s : State) : Host.Outcome State Fault Refusal :=
  s.finish (do
    let p := s.me.q.part
    if n < s.vbase p ∨ s.vbase p + s.vcnt p ≤ n then .error ⟨0x02, 2, n, 0⟩
    s.noBrd
    .ok (s.wants (s.cyc + 4) [s.cyc + 4, s.iss.core, 3, 0] 0 (.msix n)))

end Sys2Proof.Machine
end

