-- ==== Sys2Proof/Machine/Serving.lean ====
section
/-! DEFINITION. The engines of the die and of the partition that serve requests: expert slots (08_matrix.md R201, R202), acceptance,
page keys, the page directory, the host ring and combines (15_generation.md R274 to R291), with the events that complete them. -/

namespace Sys2Proof.Machine

/-! ### Requests with a scalar result -/

/-- Put the value of a result in flight in place: a request has performed. -/
def State.setFlight (s : State) (n k id v : Nat) : State :=
  s.modCtx n k fun x => { x with fl := x.fl.map fun f =>
    if f.id = id then { f with pairs := f.pairs.map fun p => { p with x := ofWord (BitVec.ofNat 64 v) } } else f }

/-- The result of a request does not land: its fault is taken in its place. -/
def State.killFlight (s : State) (n k id : Nat) : State :=
  s.modCtx n k fun x => { x with fl := x.fl.map fun f => if f.id = id then { f with dead := true } else f }

/-- A request that performs in cycle `due`, with its result for `sd` in flight; both in the place of slot 7 in the order of
R227. Its number is the number of the result. -/
def State.request (s : State) (due sd : Nat) (j : Job) (ev : Nat → Instr) : State :=
  let s := s.fresh
  let n := s.iss.core
  let k := s.iss.ctx
  let f : Flight :=
    { id := s.seqNo, due := due, cls := .s, reg := s.me.phys .s sd, pairs := [⟨Cube.tt, 0, 0, none⟩], w := Cube.tt, dead := false,
      slot := s.iss.slot, fpc := s.iss.pc, iat := s.cyc, sup := s.me.q.sup }
  let s := s.modMe fun x => { x with fl := x.fl ++ [f] }
  let s := s.modMyCore fun c => { c with jobs := c.jobs ++ [{ j with id := f.id }] }
  (s.sched due phWrite n 7 s.cyc (ev f.id)).sched due phWrite n 7 s.cyc (.resultLanding n k f.id)

/-- A job of the issuing context, with nothing in it yet. -/
def State.newJob (s : State) : Job :=
  { id := 0, ctx := s.iss.ctx, slot := s.iss.slot, fpc := s.iss.pc, iat := s.cyc, sup := s.me.q.sup, part := s.me.q.part, reg := 0,
    rel := false, a := 0, b := 0, rows := [], poison := false, sub := 0 }

def Core.job? (c : Core) (id : Nat) : Option Job := c.jobs.find? (·.id = id)
def Core.dropJob (c : Core) (id : Nat) : Core := { c with jobs := c.jobs.filter (·.id ≠ id) }

/-- A fault of a job, with the place of its instruction. -/
def Job.trap (j : Job) (code sub i0 i1 : Nat) : Trap :=
  { code := code, sub := sub, slot := j.slot, slot2 := 0, fpc := j.fpc, info0 := i0, info1 := i1, iat := j.iat, defer := false,
    sys := false, sup := j.sup }

/-! ### Expert slots (R201, R202) -/

/-- The slot of partition `p` that holds an expert; where writes of the table have left two, the lowest-numbered (log 94). -/
def Die.findSlot (d : Die) (p : Nat) (e : BitVec 32) : Option (Nat × Slot) :=
  d.slots.find? fun x => x.2.expert = e ∧ x.2.part = p

/-- The clock sweep: at most `n` steps of the hand; the slot it claims, if any. -/
def Die.sweep (d : Die) : Nat → Die × Option Nat
  | 0 => (d, none)
  | n + 1 =>
    let h := d.hand
    let e := agetD d.slots h Slot.reset
    let d := { d with hand := (h + 1) % 256 }
    if e.refs = 0 ∧ e.use = false then (d, some h)
    else ({ d with slots := aset d.slots h { e with use := false } } : Die).sweep n

/-- The result word of Table 08-3; REFS is 0 where there is no slot (log 120). -/
def slotResult (k : Nat) (hit full err : Bool) (refs : Nat) : Nat :=
  k + hit.toNat * 2 ^ 8 + full.toNat * 2 ^ 9 + err.toNat * 2 ^ 10 + refs * 2 ^ 16

/-- A slot request of partition `p` that performs in cycle `c` (R202): the die as it leaves it, and its result. A claim is
noted with what it evicted, for the tag misses of its cycle (R204). A request that finds REFS at 255 answers ERR with its slot, as R202
says, and not with k = 0 (log 123). -/
def Die.xslot (d : Die) (c p : Nat) (rel : Bool) (e : BitVec 32) : Die × Nat :=
  if e = 0xFFFFFFFF then (d, slotResult 0 false false true 0)
  else if rel then
    match d.findSlot p e with
    | some (k, x) =>
      if 0 < x.refs then
        ({ d with slots := aset d.slots k { x with refs := x.refs - 1 } }, slotResult k true false false (x.refs - 1))
      else (d, slotResult 0 false false true 0)
    | none => (d, slotResult 0 false false true 0)
  else
    match d.findSlot p e with
    | some (k, x) =>
      if x.refs = 255 then (d, slotResult k false false true x.refs)
      else ({ d with slots := aset d.slots k { x with refs := x.refs + 1, use := true } }, slotResult k true false false (x.refs + 1))
    | none =>
      match d.sweep 512 with
      | (d, none) => (d, slotResult 0 false true false 0)
      | (d, some h) =>
        let old := agetD d.slots h Slot.reset
        ({ d with
            slots := aset d.slots h ⟨e, 1, true, p⟩
            evicted := (d.evicted.filter fun v => v.1 = c) ++ [(c, old.part * 2 ^ 32 + old.expert.toNat, h)] },
          slotResult h false false false 1)

/-- The request of XSLOT and XSLOT.rel: it performs at issue + 260. -/
def State.slotRequest (s : State) (rel : Bool) (sd sa : Nat) : Except Flt State := do
  s.unguarded [(.s, sa)]
  let a ← s.singleS sa
  let n := s.iss.core
  .ok (s.request (s.cyc + 260) sd { s.newJob with rel := rel, a := a % 2 ^ 32 } fun id => .xslotPerform n id)

/-- XSLOT (R202). -/
def execXslot (sd sa : Nat) (s : State) : Host.Outcome State Fault Refusal :=
  s.finish (s.slotRequest false sd sa)

/-- XSLOT.rel (R202). -/
def execXslotRel (sd sa : Nat) (s : State) : Host.Outcome State Fault Refusal :=
  s.finish (s.slotRequest true sd sa)

/-- A slot request performs (R202). -/
def execXslotPerform (core id : Nat) (s : State) : Host.Outcome State Fault Refusal :=
  .next (match (s.core core).job? id with
  | none => s
  | some j =>
    let r := (s.die (dieOf core)).xslot s.cyc j.part j.rel (BitVec.ofNat 32 j.a)
    ((s.setDie (dieOf core) r.1).modCore core (·.dropJob id)).setFlight core j.ctx id r.2)

/-! ### ACCEPT (R274 to R276) -/

/-- Lane `j` of a row of 32-bit lanes. -/
def lane32 (r : Vec) (j : Nat) : Nat := r.toNat / 2 ^ (32 * j) % 2 ^ 32

/-- Byte `j` of a row. -/
def byteAt (r : Vec) (j : Nat) : Nat := r.toNat / 2 ^ (8 * j) % 256

/-- Whether PARENT and N of a tree record's first bytes break R214 and R276. -/
def treeBad (r : Vec) : Bool :=
  let n := byteAt r 64
  n < 1 || 64 < n || byteAt r 0 != 0xFF || (List.range n).any fun j => 1 ≤ j && j ≤ byteAt r j

/-- The walk of R275 from node `u`, in at most `f` steps: the path, the emitted tokens, whether the end token was met. -/
def acceptWalk (r0 r1 r2 : Vec) : Nat → Nat → List Nat × List Nat × Bool
  | 0, _ => ([], [], false)
  | f + 1, u =>
    let tok := lane32 r2 u
    if tok = lane32 r0 32 then ([], [tok], true)
    else match (List.range (byteAt r0 64)).find? fun j => 1 ≤ j && byteAt r0 j = u && lane32 r1 j = tok with
    | none => ([], [tok], false)
    | some v =>
      let w := acceptWalk r0 r1 r2 f v
      (v :: w.1, tok :: w.2.1, w.2.2)

/-- INDEX and rows 3 and 4 of an acceptance record. -/
def acceptRows (r0 r1 r2 : Vec) : Nat × Vec × Vec :=
  let w := acceptWalk r0 r1 r2 64 0
  let a := w.1.length
  let index := if w.2.2 then 64 else a
  (index, BitVec.ofNat 2048 (a + w.2.1.length * 2 ^ 32 + index * 2 ^ 64 + packNat 8 w.1 * 2 ^ 512), pack 32 w.2.1)

/-- A range of the core's own scratchpad that a window lets the context write (R276, R278, R289). -/
def State.ownRw (s : State) (ea len align : Nat) : Except Flt Nat := translate s.me s.iss.core .store ea len align false

/-- ACCEPT (R276): its checks in the order of the rule; with several takes no other check has a value. -/
def execAccept (sd sa : Nat) (s : State) : Host.Outcome State Fault Refusal :=
  s.finish (do
    let a ← s.singleS sa
    let pa ← s.ownRw a 1280 256
    let n := s.iss.core
    let s ← s.claim n 11 [offOf pa]
    let r0 : Vec := BitVec.ofNat 2048 (s.load pa 256)
    if treeBad r0 || r0.toNat / 2 ^ 1056 != 0 then .error ⟨0x0B, 14, 0, 0⟩
    match s.poisonFlt pa 256 with
    | some f => .error f
    | none =>
      s.noBrd
      let s := s.request (s.cyc + 40) sd { s.newJob with a := pa, rows := [r0] } fun id => .acceptComplete n id
      let id := s.seqNo
      .ok (((s.sched (s.cyc + 1) phArray n s.cyc 7 (.acceptRowRead n id 1)).sched (s.cyc + 2) phArray n s.cyc 7
        (.acceptRowRead n id 2)).touch s.me.q.task (s.cyc + 40)))

/-- ACCEPT reads row 1 or 2 (R276): a conflict with another requester of the array ends it (R205). A write that performs in the cycle is
seen (R227). -/
def execAcceptRowRead (core id k : Nat) (s : State) : Host.Outcome State Fault Refusal :=
  .next (match (s.core core).job? id with
  | none => s
  | some j =>
    let pa := j.a + 256 * k
    match s.claimArr core 11 (offOf pa) with
    | .error f => ((s.modCore core (·.dropJob id)).killFlight core j.ctx id).lateFault core j.ctx
        (j.trap f.code f.sub f.info0 f.info1)
    | .ok s =>
      s.modCore core fun c => { c with jobs := c.jobs.map fun i =>
        if i.id = id then
          { i with
            rows := i.rows ++ [BitVec.ofNat 2048 (s.load pa 256)]
            poison := i.poison || s.poisoned pa 256
            b := if i.poison then i.b else s.poisonAddr pa 256
            sub := if i.poison then i.sub else (s.poisonFlt pa 256).elim 0 (·.sub) }
        else i })

/-- ACCEPT completes (R276): rows 3 and 4 are written, or the poison of a row it read is raised. -/
def execAcceptComplete (core id : Nat) (s : State) : Host.Outcome State Fault Refusal :=
  .next (match (s.core core).job? id with
  | none => s
  | some j =>
    let s := s.modCore core (·.dropJob id)
    if j.poison then (s.killFlight core j.ctx id).lateFault core j.ctx (j.trap 0x0C j.sub 0 j.b)
    else
      let r := acceptRows (j.rows.getD 0 0) (j.rows.getD 1 0) (j.rows.getD 2 0)
      (deliverAll (j.a + 0x300) (r.2.1.toNat + r.2.2.toNat * 2 ^ 2048) 0 [] 8 s).setFlight core j.ctx id r.1)

/-! ### Page keys and the page directory (R278 to R280) -/

/-- A range that an operand names, if the operand has a value. -/
def State.ownAt (s : State) (v : Option Nat) (len align : Nat) : Except Flt (Option Nat) :=
  match v with
  | some a => (s.ownRw a len align).map some
  | none => .ok none

/-- PKEY (R278): the digest is taken at issue; the key is written, and its low 8 bytes land, at issue + 96. Windows, banks (R167),
poison and takes are checked in the order of the rule, each on the operands that have a value. -/
def execPkey (sd sa sb : Nat) (s : State) : Host.Outcome State Fault Refusal :=
  s.finish (do
    let oa ← s.ownAt (s.valS sa) 32 16
    let ob ← s.ownAt (s.valS sb) 64 64
    let s ← s.claim s.iss.core s.iss.slot ((oa.toList ++ ob.toList).map offOf)
    match (oa.bind fun pa => s.poisonFlt pa 16).or (ob.bind fun pb => s.poisonFlt pb 64) with
    | some f => .error f
    | none =>
      let a ← s.singleS sa
      let b ← s.singleS sb
      s.noBrd
      let pa ← s.ownRw a 32 16
      let pb ← s.ownRw b 64 64
      let d := ofBytes ((sha512 (bytesOf 16 (s.load pa 16) ++ bytesOf 64 (s.load pb 64))).take 16)
      let n := s.iss.core
      let s := s.request (s.cyc + 96) sd { s.newJob with a := pa + 16, b := d } fun id => .pkeyComplete n id
      .ok (s.touch s.me.q.task (s.cyc + 96)))

/-- PKEY completes: a partial write through the fill port (R232). -/
def execPkeyComplete (core id : Nat) (s : State) : Host.Outcome State Fault Refusal :=
  .next (match (s.core core).job? id with
  | none => s
  | some j => ((s.modCore core (·.dropJob id)).store j.a 16 j.b).setFlight core j.ctx id (j.b % 2 ^ 64))

/-- PLOOK (R280), checked as PKEY. -/
def execPlook (sd sa : Nat) (s : State) : Host.Outcome State Fault Refusal :=
  s.finish (do
    let a ← s.singleS sa
    let pa ← translate s.me s.iss.core .load a 32 32 false
    let s ← s.claim s.iss.core s.iss.slot [offOf pa]
    match s.poisonFlt pa 32 with
    | some f => .error f
    | none =>
      s.noBrd
      let n := s.iss.core
      let v := s.load pa 32
      .ok (s.request (s.cyc + 32) sd { s.newJob with a := v % 2 ^ 128, b := bits v 175 128 } fun id => .plookPerform n id))

/-- A directory request of partition `p` (R280): the directory as it leaves it, and its result. -/
def plook (dir : Assoc PEnt) (p key ins : Nat) : Assoc PEnt × Nat :=
  let at_ (w : Nat) : PEnt := agetD dir (8 * (key % 512) + w) PEnt.reset
  match (List.range 8).find? fun w => (at_ w).valid && (at_ w).part = p && (at_ w).key.toNat = key with
  | some w => (dir, (at_ w).page.toNat + 2 ^ 62)
  | none =>
    if ins = 0 then (dir, 0)
    else match (List.range 8).find? fun w => !(at_ w).valid with
    | none => (dir, 2 ^ 60)
    | some w => (aset dir (8 * (key % 512) + w) ⟨BitVec.ofNat 128 key, BitVec.ofNat 48 ins, true, p⟩, ins + 2 ^ 61)

/-- A directory request performs (R280). -/
def execPlookPerform (core id : Nat) (s : State) : Host.Outcome State Fault Refusal :=
  .next (match (s.core core).job? id with
  | none => s
  | some j =>
    let r := plook (s.die (dieOf core)).pdir j.part j.a j.b
    ((s.modDie (dieOf core) fun d => { d with pdir := r.1 }).modCore core (·.dropJob id)).setFlight core j.ctx id r.2)

/-! ### The host ring (R286 to R288) -/

/-- HRING (R287). -/
def execHring (sa : Nat) (s : State) : Host.Outcome State Fault Refusal :=
  s.finish (do
    s.rulePlace (.hring sa)
    s.noBrd
    let a ← s.singleS sa
    let pa ← s.ownRw a 32 32
    let s ← s.claim s.iss.core s.iss.slot [offOf pa]
    match s.poisonFlt pa 32 with
    | some f => .error f
    | none =>
      let p := s.me.q.part
      let v := s.load pa 32
      let sid := bits v 39 32
      let pos := bits v 95 64
      let r := s.hring p
      let cur := agetD r.pos sid 0
      if pos < cur then .ok s
      else if cur < pos then .error ⟨0x06, 4, sid, pos⟩
      else if !r.en || decide ((r.tail + 2 ^ 32 - r.head) % 2 ^ 32 = 2 ^ r.size) then .ok (s.blockOn (.hring p))
      else
        let s := s.fresh
        let post : Post :=
          { id := s.seqNo, seqid := sid, slot := BitVec.ofNat 256 (v / 2 ^ 32 * 2 ^ 32 + r.tail), due := s.cyc + 32,
            exit := v.testBit 130 }
        .ok ((s.setHring p { r with tail := (r.tail + 1) % 2 ^ 32, pos := aset r.pos sid (cur + 1), posts := r.posts ++ [post] }).sched
          post.due phSched p 2 post.id (.hringDepart p post.id)))

/-- An interrupt of the ring, which follows the slots of its cycle (R288). -/
def State.ringPost (s : State) (p : Nat) : State :=
  let r := s.hring p
  (s.send [s.cyc, 512, 1, p] 0 (.msix r.vec)).setHring p { r with unsig := 0, now := false }

/-- A slot departs to the host (R287, R288); whether the ring posts its interrupt is judged behind every slot of the cycle. -/
def execHringDepart (part id : Nat) (s : State) : Host.Outcome State Fault Refusal :=
  let r := s.hring part
  .next (match r.posts.find? (·.id = id) with
  | none => s
  | some x =>
    let addr := r.base + 32 * (x.slot.toNat % 2 ^ 32 % 2 ^ r.size)
    let s := s.send [s.cyc, 512, 0, part] 0 (.write addr 32 x.slot.toNat (x.slot.toNat % 2 ^ 32) 0 false)
    let first := if r.unsig = 0 then s.cyc else r.first
    let s := s.setHring part
      { r with posts := r.posts.filter (·.id ≠ id), unsig := r.unsig + 1, first := first, now := r.now || x.exit || r.unsig = 31 }
    let s := if r.unsig = 0 then s.sched (s.cyc + 52500) phSched part 3 0 (.ringCoalesceTimeout part) else s
    s.sched s.cyc phSched part 3 0 (.ringCoalesceTimeout part))

/-- The slots of a cycle have departed, or the coalescing time of the ring is over: one interrupt, if any condition of R288 holds. -/
def execRingCoalesceTimeout (part : Nat) (s : State) : Host.Outcome State Fault Refusal :=
  let r := s.hring part
  .next (if 0 < r.unsig ∧ (r.now = true ∨ s.cyc = r.first + 52500) then s.ringPost part else s)

/-! ### Combines (R289 to R291) -/

def hdrGroup (h : Nat) : Nat := bits h 3 0
def hdrN (h : Nat) : Nat := bits h 6 4 + 1
def hdrSum (h : Nat) : Bool := h.testBit 7
def hdrIndex (h : Nat) : Nat := bits h 10 8
def hdrK (h : Nat) : Nat := bits h 17 12 + 1
def hdrPhase (h : Nat) : Nat := bits h 63 32

/-- The number of a phase: partition, group, PHASE. -/
def combKey (part grp phase : Nat) : Nat := (part * 16 + grp) * 2 ^ 32 + phase

/-- The fault of an arrival against a phase (R290), if any. Once the phase has closed, the peer for which POISONARR arrived comes late
(R341). -/
def Combine.clash (c : Combine) (h : Nat) : Bool :=
  hdrN h ≠ c.n || (!c.sum && hdrK h ≠ c.k) ||
    c.arrs.any fun a => !a.late && a.index = hdrIndex h && !(c.closed.isSome && a.who = 2048)

/-- COMBINE's own part at issue: its completion, or the checks of its arrival, which is made when the bundle blocks
(`combArrive`). -/
def State.combine (s : State) (i : Instr) (sa : Nat) : Except Flt State := do
  s.rulePlace i
  s.noBrd
  match s.me.q.block with
  | some ⟨.combine _ _, _, true, ev, _⟩ => .ok (s.modMe fun x => { x with ar := x.ar.record s.cyc (ev.getD 0) })
  | _ =>
    let a ← s.singleS sa
    let pa ← s.ownRw a 1280 256
    let s ← s.claim s.iss.core 11 [offOf pa]
    let h := s.load pa 256
    let key := combKey s.me.q.part (hdrGroup h) (hdrPhase h)
    let c := aget s.combs key
    let first := c.elim (hdrN h) (·.n)
    if (c.any fun c => c.clash h) || hdrN h ≤ hdrIndex h then .error ⟨0x03, 5, first + hdrN h * 2 ^ 8, 0⟩
    if bits h 31 18 ≠ 0 ∨ bits h 1535 96 ≠ 0 then .error ⟨0x0B, 15, 0, 0⟩
    match s.poisonFlt pa 768 with
    | some f => .error f
    | none => .ok (s.blockOn (.combine key (hdrPhase h)))

/-- COMBINE and COMBINE.RN (R290). -/
def execCombine (rn : Bool) (sa : Nat) (s : State) : Host.Outcome State Fault Refusal :=
  s.finish (s.combine (.combine rn sa) sa)

/-- Write the status bytes of a combine header, and rows 3 and 4 if given, at `due`, in the place of slot 7 of the participant. -/
def State.combWrite (s : State) (who due off status : Nat) (rows : Option (Vec × Vec)) : State :=
  let s := s.fresh
  let n := who / 4
  let base := spad n + off
  let w : Store :=
    { id := s.seqNo, ctx := who % 4, slot := 7, fpc := (s.ctx n (who % 4)).q.pc, iat := s.cyc, sup := (s.ctx n (who % 4)).q.sup,
      ord := 0, due := due, kind := .tap, ws := ⟨base + 192, 64, status⟩ :: (match rows with
        | some r => [⟨base + 768, 512, r.1.toNat + r.2.toNat * 2 ^ 2048⟩]
        | none => []),
      part := (s.ctx n (who % 4)).q.part, task := (s.ctx n (who % 4)).q.task, ep := 256, cube := Cube.tt }
  (s.modCore n fun c => { c with stores := c.stores ++ [w] }).sched due phWrite n 7 s.cyc (.storePerform n (who % 4) w.id)

/-- The status bytes (Table 15-12, bits 1536 on). -/
def Combine.status (c : Combine) (late : Bool) (ev : Nat) : Nat :=
  let got := c.arrs.foldl (fun a x => if x.late then a else a ||| 2 ^ x.index) 0
  let miss := ((List.range c.n).filter fun i => !got.testBit i).foldl (fun a i => a + 2 ^ i) 0
  got + miss * 2 ^ 8 + c.degraded.toNat * 2 ^ 16 + (c.arrs.any fun x => !x.late && x.poison).toNat * 2 ^ 17
    + late.toNat * 2 ^ 18 + ev * 2 ^ 24

/-- The exact quotient, kept to far more bits than FP32 has, with the events of division. -/
def FVal.div (a b : FVal) : FVal × Nat :=
  match a, b with
  | .nan, _ | _, .nan => (.nan, 0)
  | .inf _, .inf _ => (.nan, evIV)
  | .inf x, b => (.inf (x != b.neg), 0)
  | a, .inf y => (.fin (a.neg != y) 0 0 false, 0)
  | .fin x m e _, .fin y n d _ =>
    if n = 0 then (if m = 0 then (.nan, evIV) else (.inf (x != y), evDZ))
    else
      let k := msb n + 100
      (.fin (x != y) (m * 2 ^ k / n) (e - d - k) (m * 2 ^ k % n != 0), 0)

/-- Division of FP32 codes, rounded. -/
def divF32 (c4 : Bool) (x y : Nat) : Nat × Nat :=
  let a := Fmt.f32.read c4 x
  let b := Fmt.f32.read c4 y
  let r := a.1.div b.1
  Fmt.f32.finish c4 [x, y] (r.1, evOr (evOr a.2 b.2) r.2)

/-- The sum of FP32 codes in order, each addition rounded, with its events. -/
def sumF32 (c4 : Bool) : List Nat → Nat × Nat
  | [] => (0, 0)
  | x :: r => r.foldl (fun a y => let t := Fmt.f32.add c4 a.1 y; (t.1, evOr a.2 t.2)) (x, 0)

/-- The counted arrivals in ascending INDEX. -/
def Combine.counted (c : Combine) : List CArr :=
  (List.range 8).filterMap fun i => c.arrs.find? fun a => !a.late && a.index = i

/-- Divide each of a list of codes by their sum. -/
def normalise (c4 : Bool) (l : List Nat) : List Nat × Nat :=
  let t := sumF32 c4 l
  let q := l.map fun v => divF32 c4 v t.1
  (q.map (·.1), q.foldl (fun a x => evOr a x.2) t.2)

/-- The result rows and events of a merge (R291). -/
def Combine.merge (c : Combine) (c4 rn : Bool) : Vec × Vec × Nat :=
  let es := c.counted.flatMap fun a => (lanesOf 32 64 (a.rows.getD 0 0)).zip (lanesOf 32 64 (a.rows.getD 1 0))
  let top := ((es.filter fun e => e.2 ≠ 0xFFFFFFFF).foldl (fun l e => rankInsert e l) []).take c.k
  let vs := if rn then normalise c4 (top.map (·.1)) else (top.map (·.1), 0)
  let fill := 64 - top.length
  (pack 32 (vs.1 ++ List.replicate fill 0xFF800000), pack 32 (top.map (·.2) ++ List.replicate fill 0xFFFFFFFF), vs.2)

/-- The result rows and events of a sum (R291). -/
def Combine.sumRows (c : Combine) (c4 rn : Bool) : Vec × Vec × Nat :=
  let all := c.counted
  let on := all.filter fun a => !a.drop
  let ws := if rn then normalise c4 (on.map (·.w.toNat)) else (on.map (·.w.toNat), 0)
  let lanes := (List.range 64).map fun j =>
    (on.zip ws.1).foldl (fun a p =>
      let t := Fmt.f32.fma c4 p.2 (lane32 (p.1.rows.getD 0 0) j) a.1
      (t.1, evOr a.2 t.2)) (0, 0)
  let row4 := (List.range 8).map fun i =>
    match (on.zip ws.1).find? fun p => p.1.index = i with
    | some p => p.2
    | none => (all.find? fun a => a.index = i).elim 0 (·.w.toNat)
  (pack 32 (lanes.map (·.1)), pack 32 row4, lanes.foldl (fun a x => evOr a x.2) ws.2)

/-- The results of a phase for a participant (R291, R341). -/
def Combine.results (c : Combine) (c4 rn : Bool) : Vec × Vec × Nat :=
  let bad := c.arrs.any fun a => !a.late && a.poison
  let nan := pack 32 (List.replicate 64 Fmt.f32.nan)
  let r := if c.sum then c.sumRows c4 rn else c.merge c4 rn
  if !bad then r
  else if c.sum then (nan, r.2.1, r.2.2) else (nan, pack 32 (List.replicate 64 0xFFFFFFFF), 0)

/-- Close a phase in this cycle if its Nth arrival has come (R290). -/
def State.combClose (s : State) (part grp : Nat) (c : Combine) : State :=
  let key := combKey part grp c.phase
  if c.closed.isNone ∧ c.n ≤ (c.arrs.filter fun a => !a.late).length then
    ({ s with combs := aset s.combs key { c with closed := some s.cyc, rel := s.cyc + 48 } } : State).sched (s.cyc + 48)
      phRelease part grp c.phase (.combineRelease part grp c.phase)
  else { s with combs := aset s.combs key c }

/-- An arrival joins a phase, which it opens if it is the first. -/
def State.combJoin (s : State) (part grp : Nat) (c? : Option Combine) (new : Combine) (a : CArr) : State :=
  match c? with
  | some c => s.combClose part grp { c with arrs := c.arrs ++ [a] }
  | none =>
    (s.combClose part grp { new with arrs := [a] }).sched (s.cyc + 16752) phSched part 4 grp
      (.combineCloseTimeout part grp new.phase)

/-- The record reads of a COMBINE that come after the release of its phase: in the place of a job, which no register waits for. `rel` says
that it arrived before the release, which has written its status. -/
def State.lateJob (s : State) (n k pa status : Nat) (rel : Bool) : Job :=
  { id := 0, ctx := k, slot := 7, fpc := (s.ctx n k).q.pc, iat := s.cyc, sup := (s.ctx n k).q.sup, part := (s.ctx n k).q.part, reg := 64,
    rel := rel, a := pa, b := status, rows := [], poison := false, sub := 0 }

/-- Arrival of participant `who` with the block at offset `off` (R290). It counts, or comes late: before the release it is written
with the others, after it in the next cycle. Its rows are read in the next two cycles. -/
def State.combArrive (s : State) (who off : Nat) (rn : Bool) : State :=
  let n := who / 4
  let k := who % 4
  let h := s.load (spad n + off) 256
  let part := (s.ctx n k).q.part
  let grp := hdrGroup h
  let key := combKey part grp (hdrPhase h)
  let old := aget s.combs key
  let late := old.any fun c => c.closed.isSome
  let a : CArr :=
    { who := who, index := hdrIndex h, rows := [], w := BitVec.ofNat 32 (h / 2 ^ 64), drop := h.testBit 11, rn := rn, off := off,
      late := late, poison := false, bad := false }
  let reads (s : State) : State :=
    (s.sched (s.cyc + 1) phArray n s.cyc 7 (.combineRowRead n k 1)).sched (s.cyc + 2) phArray n s.cyc 7 (.combineRowRead n k 2)
  match old.filter fun c => c.closed.isSome && c.rel ≤ s.cyc with
  | some c => reads (s.modCore n fun x => { x with jobs := x.jobs ++ [s.lateJob n k (spad n + off) (c.status true 0) false] })
  | none =>
    let new : Combine :=
      { phase := hdrPhase h, n := hdrN h, k := hdrK h, sum := hdrSum h, a0 := s.cyc, closed := none, rel := 0, degraded := false,
        arrs := [] }
    reads (s.combJoin part grp old new a)

/-- The phase and the arrival of a context blocked on a combine. -/
def State.combOf (s : State) (n k : Nat) : Option (Nat × Combine × CArr) :=
  match (s.ctx n k).q.block with
  | some ⟨.combine key _, _, false, _, _⟩ =>
    (aget s.combs key).bind fun c => (c.arrs.find? fun a => a.who = whoOf n k).map fun a => (key, c, a)
  | _ => none

/-- An arrival is withdrawn before its rows were read (R290): the phase is as if it had not come. One that it had closed is open
again, or closes with its time, if that is over. -/
def State.combUnarrive (s : State) (part grp : Nat) (c : Combine) (who : Nat) : State :=
  let c := { c with arrs := c.arrs.filter fun b => b.who ≠ who }
  let key := combKey part grp c.phase
  if c.closed.isNone || c.degraded || decide (c.n ≤ (c.arrs.filter fun a => !a.late).length) then
    { s with combs := aset s.combs key c }
  else if c.a0 + 16752 < s.cyc then
    let c' := { c with closed := some (c.a0 + 16752), rel := c.a0 + 16800, degraded := true }
    ({ s with combs := aset s.combs key c' } : State).sched (c.a0 + 16800) phRelease part grp c.phase
      (.combineRelease part grp c.phase)
  else { s with combs := aset s.combs key { c with closed := none } }

/-- A COMBINE whose phase has been released reads row 1 or 2 (R290). With row 1 one that arrived after the release completes: its status
is written, and its bundle can issue. A conflict withdraws it, or, once its bundle has issued, is the fault of that bundle (log
100). -/
def State.lateRead (s : State) (n k row : Nat) (j : Job) : State :=
  let here := (s.ctx n k).q.block.any fun b => (match b.kind with
    | .combine _ _ => b.go == (j.rel || decide (row = 2))
    | _ => false)
  let gone := s.modCore n fun c => { c with jobs := c.jobs.filter (· ≠ j) }
  if row = 1 ∧ here = false then gone
  else match s.claimArr n 11 (offOf (j.a + 256 * row)) with
  | .ok t =>
    if row = 1 ∧ j.rel then t
    else if row = 1 then (t.combWrite (whoOf n k) s.cyc (offOf j.a) j.b none).sched s.cyc phQueue 3000 n k (.blockRelease n k)
    else t.modCore n fun c => { c with jobs := c.jobs.filter (· ≠ j) }
  | .error f =>
    let u := if here then gone.modSeq n k fun q => { q with block := none } else gone
    let t := j.trap f.code f.sub f.info0 f.info1
    if row = 1 ∧ !j.rel ∧ u.holds n k then u.takeFault n k t else u.lateFault n k t

/-- COMBINE reads row 1 or 2 (R290): a conflict with another requester of the array withdraws the arrival and is taken at once (R205). -/
def execCombineRowRead (core ctx k : Nat) (s : State) : Host.Outcome State Fault Refusal :=
  .next (match (s.core core).jobs.find? fun j => j.ctx = ctx && j.reg = 64 with
  | some j => s.lateRead core ctx k j
  | none => match s.combOf core ctx with
  | none => s
  | some (key, c, a) =>
    let pa := spad core + a.off + 256 * k
    match s.claimArr core 11 (offOf pa) with
    | .ok s =>
      let a' := { a with rows := a.rows ++ [BitVec.ofNat 2048 (s.load pa 256)], poison := a.poison || s.poisoned pa 256 }
      { s with combs := aset s.combs key { c with arrs := c.arrs.map fun b => if b.who = a.who then a' else b } }
    | .error f =>
      let g := key / 2 ^ 32
      let s := s.combUnarrive (g / 16) (g % 16) c a.who
      let x := s.ctx core ctx
      let t : Trap :=
        { code := f.code, sub := f.sub, slot := 7, slot2 := 0, fpc := x.q.pc, info0 := f.info0, info1 := f.info1, iat := s.cyc - k,
          defer := false, sys := false, sup := x.q.sup }
      if s.holds core ctx then s.takeFault core ctx t else s.lateFault core ctx t)

/-- The time of a phase is over (R290): it closes with those that have arrived. -/
def execCombineCloseTimeout (part grp phase : Nat) (s : State) : Host.Outcome State Fault Refusal :=
  let key := combKey part grp phase
  .next (match aget s.combs key with
  | none => s
  | some c =>
    if c.closed.isSome ∨ s.cyc ≠ c.a0 + 16752 then s
    else
      ({ s with combs := aset s.combs key { c with closed := some s.cyc, rel := c.a0 + 16800, degraded := true } } : State).sched
        (c.a0 + 16800) phRelease part grp phase (.combineRelease part grp phase))

/-- The row reads of a late arrival that are still to come at the release of its phase, which it came one or two cycles before (R290). -/
def State.lateRows (s : State) (a : CArr) : State :=
  if a.late && decide (a.rows.length < 2) then
    let n := a.who / 4
    let j := s.lateJob n (a.who % 4) (spad n + a.off) 0 true
    s.modCore n fun c => { c with jobs := c.jobs ++ [{ j with iat := s.cyc - 1 - a.rows.length }] }
  else s

/-- The release of a phase (R290, R291): every participant's rows and status are written, and its bundle can complete. -/
def execCombineRelease (part grp phase : Nat) (s : State) : Host.Outcome State Fault Refusal :=
  .next (match aget s.combs (combKey part grp phase) with
  | none => s
  | some c =>
    if c.closed.isNone ∨ c.rel ≠ s.cyc then s
    else c.arrs.foldl (fun s a =>
      if 2048 ≤ a.who then s
      else
        let n := a.who / 4
        let k := a.who % 4
        let r := c.results (s.ctx n k).ar.c4 a.rn
        let s := s.combWrite a.who s.cyc a.off (c.status a.late r.2.2) (some (r.1, r.2.1))
        match (s.combOf n k).map (·.1) with
        | some key => if key = combKey part grp phase then (s.lateRows a).letGo a.who (some r.2.2) false else s
        | none => s) s)

end Sys2Proof.Machine
end

