-- ==== Sys2Proof/Machine/Matrix.lean ====
section
/-! DEFINITION. The matrix array (08_matrix.md R194 to R217) and the events of its work. Landings come first in a cycle, then the
requesters of the scratchpad in the order of their instructions (R205), then the drain's reads (R217). -/

namespace Sys2Proof.Machine

/-! ### Order within a cycle -/

/-- Landings of rows, fills and gradients, and a new tree. -/
def phLandA : Nat := 550
/-- Reads of tile rows by the drain. -/
def phDrain : Nat := 650

/-! ### What is pending -/

/-- The last entry cycle of rows on the entry path. -/
def Pass.lastEntry (p : Pass) : Nat := if p.grad then p.x0 + 2 * p.n - 1 else p.x0 + (p.n - p.r0) - 1

/-- The last landing of a pass, if any of its rows is live. -/
def Pass.lastLand (p : Pass) : Nat :=
  if p.grad then p.x0 + 2 * p.n + 260
  else if p.r0 < p.live then p.x0 + (p.live - 1 - p.r0) + 260 else 0

/-- The last cycle in which the array has something pending (R218): the landing of a row, fill or gradient, or the arrival of a
segment, whose drain may find its queue full behind the pops of that cycle. -/
def Arr.pendingUntil (a : Arr) : Nat :=
  (a.passes.map Pass.lastLand ++ a.rows.map RowFl.due ++ a.fill.toList.map (fun f : Fill => f.iat + 260) ++
    a.drains.map fun d : Drain => d.fin + 1).foldl max 0

/-- Whether a row landing, gradient landing or drain read of tile `t` is pending in cycle `c` (R207, R208). -/
def Arr.tileBusy (a : Arr) (t c : Nat) : Bool :=
  (a.passes.any fun p => p.tile = t && c < p.lastLand) || (a.rows.any fun r => r.tile = t && c < r.due) ||
    (a.drains.any fun d => d.tile = t && d.read < d.n)

/-- Whether rows entering from cycle `e` on would meet others on the entry path (R203, R205). -/
def Arr.entryBusy (a : Arr) (e : Nat) : Bool := a.passes.any fun p => e ≤ p.lastEntry

abbrev Arr.bank (a : Arr) (b : Nat) : Bank := agetD a.banks b Bank.reset
abbrev Arr.tile (a : Arr) (t : Nat) : Tile := agetD a.tiles t Tile.reset
abbrev Arr.setBank (a : Arr) (b : Nat) (x : Bank) : Arr := { a with banks := aset a.banks b x }
abbrev Arr.setTile (a : Arr) (t : Nat) (x : Tile) : Arr := { a with tiles := aset a.tiles t x }

/-- A busy fault names the opcode (R197, Table 18-1). -/
def busyFlt (op : Nat) : Flt := ⟨0x05, 4, op, 0⟩

/-- The checks of every M instruction but NOP and MOWN, with its register operands (R197, R188): the array. -/
def State.ownArr (s : State) (ops : List (RCls × Nat)) : Except Flt Arr := do
  let a := s.myCore.arr
  if a.owner ≠ some s.iss.ctx then .error ⟨0x0F, 0, a.owner.getD 4, 0⟩
  s.unguarded ops
  .ok a

/-- The poison fault of a tile that an instruction reads (R338). -/
def Arr.tilePoison (a : Arr) (t : Nat) : Except Flt Unit := if (a.tile t).poison then .error ⟨0x0C, 0, 0, t⟩ else .ok ()

/-! ### Owning (R196) -/

/-- MOWN (R196). -/
def execMown (s : State) : Host.Outcome State Fault Refusal :=
  s.finish (do
    let k := s.iss.ctx
    match s.myCore.arr.owner.filter (· ≠ k) with
    | some o => .error ⟨0x0F, 0, o, 0⟩
    | none =>
      s.noBrd
      .ok (s.modArr s.iss.core fun a => { a with owner := some k }))

/-- MREL (R196). -/
def execMrel (s : State) : Host.Outcome State Fault Refusal :=
  s.finish (do
    let a ← s.ownArr []
    if s.cyc < a.pendingUntil then .error (busyFlt 2)
    .ok (s.modArr s.iss.core fun a => { (a.cancel fun _ => true) with owner := none }))

/-! ### Loading, swapping and naming weights (R198 to R200) -/

/-- Whether a port's parameter set streams a sealed handle, and its latched format. -/
def State.portFmt (s : State) (p : Nat) : Option Nat :=
  ((agetD s.me.ports p Port.reset).set.filter (·.hv)).bind fun ps => ps.hrec.map recFmt

/-- MWLOAD (R198, R342). -/
def execMwload (fmt bank p : Nat) (s : State) : Host.Outcome State Fault Refusal :=
  s.finish (do
    let a ← s.ownArr []
    if s.portFmt p ≠ some fmt then .error ⟨0x0B, 12, p, 0⟩
    if s.svcMode = 1 ∧ fmt ≠ 4 then .error ⟨0x0B, 16, p, 0⟩
    if a.fill.isSome then .error (busyFlt 3)
    if (a.bank bank).swapAt.any fun t => s.cyc < t + 260 then .error (busyFlt 3)
    let s := s.fresh
    let n := s.iss.core
    let f : Fill :=
      { id := s.seqNo, bank := bank, ctx := s.iss.ctx, slot := s.iss.slot, fpc := s.iss.pc, iat := s.cyc, sup := s.me.q.sup,
        port := p, fmt := fmt, cols := [], scl := [] }
    let b := a.bank bank
    .ok ((s.modArr n fun a => { (a.setBank bank { b with shd := { b.shd with valid := false } }) with fill := some f }).sched
      (s.cyc + 2) phArray n s.cyc 5 (.mwloadFillPop n f.id 0)))

/-- MSWAP (R199): the named banks exchange their copies after the rows of this cycle. -/
def execMswap (mask : Nat) (s : State) : Host.Outcome State Fault Refusal :=
  s.finish (do
    let a ← s.ownArr []
    if a.fill.any fun f => mask.testBit f.bank then .error (busyFlt 4)
    .ok (s.modArr s.iss.core fun a => ((List.range 4).filter fun b => mask.testBit b).foldl (fun a b =>
      let x := a.bank b
      a.setBank b ⟨x.shd, x.act, some s.cyc⟩) a))

/-- MRES (R200). -/
def execMres (bank sa : Nat) (s : State) : Host.Outcome State Fault Refusal :=
  s.finish (do
    let a ← s.ownArr [(.s, sa)]
    let v ← s.singleS sa
    let e := v % 2 ^ 32
    let b := a.bank bank
    let c := if e = 0xFFFFFFFF then { b.shd with valid := false } else { b.shd with valid := true, expert := e }
    .ok (s.modArr s.iss.core fun a => a.setBank bank { b with shd := c }))

/-- Pop `j` of a fill delivers column `j` (R198); a fault leaves the shadow with format none. -/
def execMwloadFillPop (core id j : Nat) (s : State) : Host.Outcome State Fault Refusal :=
  .next (match (s.core core).arr.fill.filter (·.id = id) with
  | none => s
  | some f =>
    match s.pop core f.ctx f.port 9 true with
    | .error e =>
      let s := s.modArr core fun a =>
        let b := a.bank f.bank
        { (a.setBank f.bank { b with shd := { b.shd with fmt := none, valid := false } }) with fill := none }
      s.lateFault core f.ctx
        { code := e.code, sub := e.sub, slot := f.slot, slot2 := 0, fpc := f.fpc, info0 := e.info0, info1 := e.info1, iat := f.iat,
          defer := false, sys := false, sup := f.sup }
    | .ok (s, r) =>
      let f := { f with cols := aset f.cols j r.row, scl := aset f.scl j r.scales }
      let s := s.modArr core fun a => { a with fill := some f }
      if j = 255 then s.sched (f.iat + 260) phLandA core 5 id (.mwloadFillLand core id)
      else s.sched (s.cyc + 1) phArray core f.iat 5 (.mwloadFillPop core id (j + 1)))

/-- A fill lands (R198). -/
def execMwloadFillLand (core id : Nat) (s : State) : Host.Outcome State Fault Refusal :=
  .next (match (s.core core).arr.fill.filter (·.id = id) with
  | none => s
  | some f => s.modArr core fun a =>
      let b := a.bank f.bank
      { (a.setBank f.bank { b with shd := { b.shd with fmt := some f.fmt, cols := f.cols, scl := f.scl } }) with fill := none })

/-! ### Streaming rows (R203, R204) -/

/-- Tag `i` of a tag record. -/
def tagOf (tags : BitVec 512) (i : Nat) : Nat := tags.toNat / 4 ^ i % 4

/-- A tag record that names one bank for every row. -/
def allTags (b : Nat) : BitVec 512 := BitVec.ofNat 512 (b * ((4 ^ 256 - 1) / 3))

/-- The rows of a pass begin to enter: put it on the entry path, with the entry of its first live row. A gradient whose rows have entered
stays until it lands. -/
def State.startPass (s : State) (n : Nat) (p : Pass) : State :=
  let s := s.modArr n fun a => { a with passes := (a.passes.filter fun x => s.cyc ≤ x.lastEntry || (x.grad && s.cyc < x.lastLand)) ++ [p] }
  if p.grad ∨ p.r0 < p.live then s.sched p.x0 phArray n p.iat 5 (.mmulRowEntry n p.id p.r0) else s

/-- An MMUL of either form; its tags come from a mask register, or are all one bank. -/
def State.mmul (s : State) (init live : Bool) (acc p n sl : Nat) (tagr : Nat ⊕ Nat) : Except Flt State := do
  let ops := (match tagr with
    | .inl m => [(RCls.m, m)]
    | .inr _ => []) ++ if live then [(.s, sl)] else []
  let a ← s.ownArr ops
  let tags ← match tagr with
    | .inl m => (s.single .m m).map fun v => v.setWidth 512
    | .inr b => .ok (allTags b)
  let lv ← if live then s.singleS sl else .ok n
  if a.entryBusy (s.cyc + 2) then .error (busyFlt 6)
  if init then .ok () else a.tilePoison acc
  let s := s.fresh
  let c := s.iss.core
  let lr := min lv n
  let x : Pass :=
    { id := s.seqNo, grad := false, ctx := s.iss.ctx, slot := s.iss.slot, fpc := s.iss.pc, iat := s.cyc, sup := s.me.q.sup,
      c4 := s.me.ar.c4, port := p, tile := acc, init := init, n := n, live := lr, bank := 0, tags := tags, x0 := s.cyc + 2,
      r0 := 0, pops := [] }
  .ok ((s.modArr c fun a => { (a.cancel fun _ => true) with tagrec := tags, lrec := lr }).startPass c x)

/-- MMUL.tm (R203): the tags come from a mask register. -/
def execMmulTm (init live : Bool) (acc p m n sl : Nat) (s : State) : Host.Outcome State Fault Refusal :=
  s.finish (s.mmul init live acc p n sl (.inl m))

/-- MMUL with one bank for all rows (R203). -/
def execMmulBank (init live : Bool) (acc p bank n sl : Nat) (s : State) : Host.Outcome State Fault Refusal :=
  s.finish (s.mmul init live acc p n sl (.inr bank))

/-- The checks of row `i` at its entry (R204): the state with the row popped, its stream format, elements, scales and bank copy;
or its fault. A copy of format none whose VALID an MRES has set fails check 13, not as a tag miss (log 110). In reduced service check 16
stands behind the tag misses and before check 13 (log 121). -/
def State.enterRow (s : State) (n : Nat) (p : Pass) (i : Nat) : Except Flt (State × Nat × Popped × Copy) := do
  let (t, r) ← s.pop n p.ctx p.port 8 true
  match r.fmt with
  | none => .error ⟨0x0B, 12, p.port, 0⟩
  | some f =>
    let tag := tagOf p.tags i
    let w := ((s.core n).arr.bank tag).act
    let part := (s.ctx n p.ctx).q.part
    let d := s.die (dieOf n)
    let miss (rest : Nat) : Except Flt (State × Nat × Popped × Copy) :=
      .error ⟨0x07, 0, i + tag * 2 ^ 8 + tag * 2 ^ 10 + rest, w.expert⟩
    if !w.valid then miss 0
    else if (d.findSlot part (BitVec.ofNat 32 w.expert)).isNone then
      match d.evicted.find? fun v => v.1 = s.cyc ∧ v.2.1 = part * 2 ^ 32 + w.expert with
      | some v => miss (2 ^ 12 + v.2.2 * 2 ^ 13 + 2 ^ 21)
      | none => miss (2 ^ 12)
    else if s.svcMode = 1 ∧ f ≠ 4 then .error ⟨0x0B, 16, p.port, 0⟩
    else if !pairs? f w.fmt then .error ⟨0x0B, 13, p.port, 0⟩
    else .ok (t, f, r, w)

/-- The fault of the array's own later work, with the place of its instruction (R197). -/
def Pass.trap (p : Pass) (e : Flt) : Trap :=
  { code := e.code, sub := e.sub, slot := p.slot, slot2 := 0, fpc := p.fpc, info0 := e.info0, info1 := e.info1, iat := p.iat,
    defer := false, sys := false, sup := p.sup }

/-- A row enters: it is popped in this cycle and lands 260 cycles later. -/
def State.rowIn (s : State) (n : Nat) (p : Pass) (i : Nat) (f : Nat) (r : Popped) (w : Copy) : State :=
  let x : RowFl :=
    { id := p.id, row := i, due := s.cyc + 260, tile := p.tile, init := p.init, afmt := f, a := r.row, sa := r.scales, w := w,
      c4 := p.c4 }
  let s := (s.modArr n fun a => { a with rows := a.rows ++ [x] }).sched x.due phLandA n p.iat i (.mmulRowLand n p.id i)
  if i + 1 < p.live then s.sched (s.cyc + 1) phArray n p.iat 5 (.mmulRowEntry n p.id (i + 1)) else s

/-- Stop a pass; the rows of an MMUL from `i` on wait as a continuation, behind those of earlier instructions (R204). -/
def State.stopPass (s : State) (n : Nat) (p : Pass) (i : Nat) : State :=
  s.modArr n fun a => { a with
    passes := a.passes.filter (·.id ≠ p.id)
    conts := if p.grad then a.conts else a.conts ++ [⟨{ p with r0 := i }, none⟩] }

/-- Row `row` of an MMUL enters, or pop `row` of an MGRAD is made (R203, R204, R216). -/
def execMmulRowEntry (core id row : Nat) (s : State) : Host.Outcome State Fault Refusal :=
  .next (match (s.core core).arr.passes.find? (·.id = id) with
  | none => s
  | some p =>
    if p.grad then
      match s.pop core p.ctx p.port 8 true with
      | .error e => (s.stopPass core p row).lateFault core p.ctx (p.trap e)
      | .ok (s, r) =>
        let p := { p with pops := p.pops ++ [(r.row, r.scales)] }
        let s := s.modArr core fun a => { a with passes := a.passes.map fun x => if x.id = id then p else x }
        if row + 1 < 2 * p.n then s.sched (s.cyc + 1) phArray core p.iat 5 (.mmulRowEntry core id (row + 1))
        else s.sched p.lastLand phLandA core p.iat 0 (.mgradLand core id)
    else
      match s.enterRow core p row with
      | .error e => (s.stopPass core p row).lateFault core p.ctx (p.trap e)
      | .ok (s, f, r, w) => s.rowIn core p row f r w)

/-- A row lands in its tile (R203, R206). A pass that writes every row of the tile from +0 clears its poison. -/
def execMmulRowLand (core id row : Nat) (s : State) : Host.Outcome State Fault Refusal :=
  .next (s.modArr core fun a =>
    match a.rows.find? fun r => r.id = id && r.row = row with
    | none => a
    | some r =>
      let t := a.tile r.tile
      let v := passRow (agetD t.rows row 0) r
      let t := { t with
        rows := aset t.rows row v.1, ev := evOr t.ev v.2, live := true, poison := t.poison && !(r.init && row = 255) }
      { (a.setTile r.tile t) with rows := a.rows.filter fun x => !(x.id = id && x.row = row) })

/-! ### Gradients (R216) -/

/-- MGRAD (R216). -/
def execMgrad (bank acc p n : Nat) (s : State) : Host.Outcome State Fault Refusal :=
  s.finish (do
    let a ← s.ownArr []
    match s.portFmt p with
    | none => .error ⟨0x0B, 12, p, 0⟩
    | some f =>
      if fmtClass f ≠ 1 then .error ⟨0x0B, 12, p, 0⟩
      if a.entryBusy (s.cyc + 2) then .error (busyFlt 10)
      a.tilePoison acc
      let s := s.fresh
      let c := s.iss.core
      let x : Pass :=
        { id := s.seqNo, grad := true, ctx := s.iss.ctx, slot := s.iss.slot, fpc := s.iss.pc, iat := s.cyc, sup := s.me.q.sup,
          c4 := s.me.ar.c4, port := p, tile := acc, init := false, n := n, live := a.lrec, bank := bank + 4 * f, tags := a.tagrec,
          x0 := s.cyc + 2, r0 := 0, pops := [] }
      .ok ((s.modArr c fun a => a.cancel fun _ => true).startPass c x))

/-- The pairs of a gradient pass that count: live rows that used its bank, as values with their block scales. `bank` holds the
bank and, above it, the format of the rows. -/
def Pass.gradPairs (p : Pass) : List ((List FVal × List FVal) × (List FVal × List FVal)) :=
  let f := p.bank / 4
  let side (r : Vec × BitVec 512) := (elemsOf f r.1, scalesOf f r.2)
  (List.range p.n).filterMap fun i =>
    if i < p.live ∧ tagOf p.tags i = p.bank % 4 then
      match p.pops[2 * i]?, p.pops[2 * i + 1]? with
      | some x, some g => some (side x, side g)
      | _, _ => none
    else none

/-- A gradient pass lands (R216). -/
def execMgradLand (core id : Nat) (s : State) : Host.Outcome State Fault Refusal :=
  .next (s.modArr core fun a =>
    match a.passes.find? (·.id = id) with
    | none => a
    | some p =>
      let t := a.tile p.tile
      let ps := p.gradPairs
      let rows := (List.range 256).map fun k => (k, gradRow p.c4 (agetD t.rows k 0) k ps)
      let t := { t with
        rows := if ps = [] then t.rows else rows.map fun r => (r.1, r.2.1)
        ev := if ps = [] then t.ev else rows.foldl (fun e r => evOr e r.2.2) t.ev
        live := true }
      { (a.setTile p.tile t) with passes := a.passes.filter (·.id ≠ id) })

/-! ### Tiles (R206 to R208) -/

/-- MLIVE (R207). -/
def execMlive (sd acc : Nat) (s : State) : Host.Outcome State Fault Refusal :=
  s.finish (do
    let a ← s.ownArr []
    let t := a.tile acc
    let v := t.ev + t.live.toNat * 2 ^ 8 + (a.tileBusy acc s.cyc).toNat * 2 ^ 9
    s.writeBack Cube.tt false false 1 .s sd [⟨Cube.tt, ofWord (BitVec.ofNat 64 v), 0, none⟩])

/-- MCLR (R208). -/
def execMclr (mask : Nat) (s : State) : Host.Outcome State Fault Refusal :=
  s.finish (do
    let a ← s.ownArr []
    let ts := (List.range 8).filter fun t => mask.testBit t
    if ts.any fun t => a.tileBusy t s.cyc then .error (busyFlt 12)
    .ok (s.modArr s.iss.core fun a => ts.foldl (fun a t => a.setTile t Tile.reset) (a.cancel fun c => ts.contains c.tile)))

/-! ### Draining (R209 to R211) -/

/-- The last cycle in which a drain emits, without its stops. -/
def drainEnd (d : Nat) (topk : Bool) (n : Nat) : Nat := d + 3 + (if topk then 8 else 0) + 4 * n

/-- Whether emission cycles `e` to `t` overlap those of an earlier drain (R209). -/
def Arr.drainBusy (a : Arr) (e t : Nat) : Bool := a.drains.any fun d => e ≤ d.fin && d.fin + 1 ≤ t + 4 * d.n

/-- MDRAIN (R209, R211). With `.scale`, row 0 of the band-scale block is read at issue. -/
def execMdrain (oq acc : Nat) (scale topk tree : Bool) (sp n : Nat) (s : State) : Host.Outcome State Fault Refusal :=
  s.finish (do
    let a ← s.ownArr (if scale then [(.s, sp)] else [])
    let sb ← if scale then s.singleS sp else .ok 0
    let d := s.cyc
    let x : Nat := if topk then 8 else 0
    if a.drainBusy (d + 4 + x) (drainEnd d topk n) then .error (busyFlt 7)
    if topk && decide (512 / a.k < n) then .error (busyFlt 7)
    if tree && decide (a.treeNew ≠ []) then .error (busyFlt 7)
    let c := s.iss.core
    let pa ← if scale then translate s.me c .load sb 1024 256 false else .ok 0
    let s ← if scale then s.claim c 10 [offOf pa] else .ok s
    a.tilePoison acc
    match (if scale then s.poisonFlt pa 256 else none) with
    | some f => .error f
    | none =>
      let s := s.fresh
      let dr : Drain :=
        { id := s.seqNo, ctx := s.iss.ctx, slot := s.iss.slot, fpc := s.iss.pc, iat := d, sup := s.me.q.sup, c4 := s.me.ar.c4,
          oq := oq, tile := acc, scale := scale, topk := topk, tree := tree, sbase := pa, n := n, read := 0,
          scales := if scale then [(0, BitVec.ofNat 2048 (s.load pa 256))] else [], segs := [], fin := drainEnd d topk n }
      let s := s.modArr c fun a => { a with drains := a.drains ++ [dr] }
      let s := if scale then s.sched (d + 1) phArray c d 5 (.drainScaleRead c dr.id 1) else s
      .ok (s.sched (d + 3) phDrain c d 0 (.drainRowRead c dr.id 0)))

/-- The drain reads row `k` of its band scales (R211): poison, always with SUB 0, or a conflict stops it, and its path is free. -/
def execDrainScaleRead (core id k : Nat) (s : State) : Host.Outcome State Fault Refusal :=
  .next (match (s.core core).arr.drains.find? (·.id = id) with
  | none => s
  | some d =>
    let pa := d.sbase + 256 * k
    let stop (e : Flt) : State :=
      (s.modArr core fun a => { a with drains := a.drains.filter (·.id ≠ id) }).lateFault core d.ctx
        { code := e.code, sub := e.sub, slot := d.slot, slot2 := 0, fpc := d.fpc, info0 := e.info0, info1 := e.info1, iat := d.iat,
          defer := false, sys := false, sup := d.sup }
    match s.claimArr core 10 (offOf pa) with
    | .error e => stop e
    | .ok t =>
      match s.poisonFlt pa 256 with
      | some e => stop { e with sub := 0 }
      | none =>
        let d := { d with scales := aset d.scales k (BitVec.ofNat 2048 (s.load pa 256)) }
        let t := t.modArr core fun a => { a with drains := a.drains.map fun x => if x.id = id then d else x }
        if k < 3 then t.sched (s.cyc + 1) phArray core d.iat 5 (.drainScaleRead core id (k + 1)) else t)

/-- 16-bit element `i` of the band-scale block: column scales from 0, row scales from 256 (R211). -/
def Drain.band (d : Drain) (i : Nat) : Nat := (agetD d.scales (i / 128) 0).toNat / 2 ^ (16 * (i % 128)) % 2 ^ 16

/-- The columns of row `i` after the scale and tree stages, each with the events of its scaling. -/
def Drain.stages (d : Drain) (tree : Tree) (row : BitVec 8192) (i : Nat) : List (Nat × Nat) :=
  (List.range 256).map fun j =>
    let x := tileLane row j
    let v := if d.scale then bandScale d.c4 x (d.band (256 + i)) (d.band j) else (x, 0)
    if d.tree && !tree.keeps i j then (0xFF800000, v.2) else v

/-- The drain reads row `i` (R209): its four segments arrive from d + 4 + x + 4i on. -/
def execDrainRowRead (core id row : Nat) (s : State) : Host.Outcome State Fault Refusal :=
  .next (match (s.core core).arr.drains.find? (·.id = id) with
  | none => s
  | some d =>
    let a := (s.core core).arr
    let t := a.tile d.tile
    let cols := d.stages a.tree (agetD t.rows row 0) row
    let evs (l : List (Nat × Nat)) : Nat := l.foldl (fun e c => evOr e c.2) t.ev
    let kept := rankTop a.k (agetD a.lists row [] |>.map fun e => (e.v.toNat, e.i))
      (cols.zipIdx.map fun c => (c.1.1, (a.ibase + c.2) % 2 ^ 32))
    let fill := 64 - kept.length
    let segs : List Seg :=
      if d.topk then
        [⟨pack 32 (kept.map (·.1) ++ List.replicate fill 0xFF800000), evs cols⟩,
         ⟨pack 32 (kept.map (·.2) ++ List.replicate fill 0xFFFFFFFF), evs cols⟩, ⟨0, evs cols⟩, ⟨0, evs cols⟩]
      else (List.range 4).map fun k =>
        let l := (cols.drop (64 * k)).take 64
        ⟨pack 32 (l.map (·.1)), evs l⟩
    let d := { d with read := row + 1, segs := segs.zipIdx.foldl (fun m x => aset m (4 * row + x.2) x.1) d.segs }
    let s := s.modArr core fun a =>
      { a with
        drains := a.drains.map fun x => if x.id = id then d else x
        lists := if d.topk then aset a.lists row (kept.map fun e => ⟨BitVec.ofNat 32 e.1, e.2⟩) else a.lists }
    let x : Nat := if d.topk then 8 else 0
    let s := (List.range 4).foldl (fun s k =>
      s.sched (d.iat + 4 + x + 4 * row + k) phLandA core d.iat 0 (.segmentArrival core id (4 * row + k))) s
    if row + 1 < d.n then s.sched (d.iat + 3 + 4 * (row + 1)) phDrain core d.iat 0 (.drainRowRead core id (row + 1)) else s)

/-- A segment arrives in its result queue (R210). It can be popped in its arrival cycle (R44), and the pops of the cycle make room
for it: where it is the 257th, this row runs a second time behind them, and if it still is, it and the later ones are discarded. -/
def execSegmentArrival (core id k : Nat) (s : State) : Host.Outcome State Fault Refusal :=
  .next (match (s.core core).arr.drains.find? (·.id = id) with
  | none => s
  | some d =>
    let q := agetD (s.core core).arr.oq d.oq []
    let rest : Arr → List Drain := fun a => if k + 1 = 4 * d.n then a.drains.filter (·.id ≠ id) else a.drains
    match aget d.segs k with
    | none =>
      if q.length ≤ 256 then s.modArr core fun a => { a with drains := rest a }
      else
        (s.modArr core fun a =>
          { a with oq := aset a.oq d.oq q.dropLast, drains := a.drains.filter (·.id ≠ id) }).lateFault core d.ctx
          { code := 0x06, sub := 2, slot := d.slot, slot2 := 0, fpc := d.fpc, info0 := d.oq, info1 := k, iat := d.iat,
            defer := false, sys := false, sup := d.sup }
    | some g =>
      let d' := { d with segs := adel d.segs k }
      let s := s.modArr core fun a =>
        let a := { a with oq := aset a.oq d.oq (q ++ [g]), drains := a.drains.map fun x => if x.id = id then d' else x }
        if 256 ≤ q.length then a else { a with drains := rest a }
      if 256 ≤ q.length then s.sched s.cyc phSeg core d.iat 0 (.segmentArrival core id k) else s)

/-! ### The epilogues (R212 to R215) -/

/-- MTOPK (R212). -/
def execMtopk (k sa : Nat) (s : State) : Host.Outcome State Fault Refusal :=
  s.finish (do
    let a ← s.ownArr [(.s, sa)]
    let v ← s.singleS sa
    if a.drains.any fun d => d.topk && decide (d.read < d.n) then .error (busyFlt 8)
    .ok (s.modArr s.iss.core fun a =>
      { a with
        k := k, ibase := v % 2 ^ 32
        lists := if v.testBit 32 = false ∨ k ≠ a.k then [] else a.lists }))

/-- The tree of a tree record (Table 08-7), or none if it breaks R214. -/
def treeOf (r : Nat) : Option Tree :=
  if treeBad (BitVec.ofNat 2048 r) || bits r 543 528 != 0 || bits r 1023 608 != 0 then none
  else
    let n := bits r 519 512
    some { parent := (List.range n).map fun j => r / 2 ^ (8 * j) % 256, n := n, rb := bits r 527 520, cb := bits r 575 544,
           t := bits r 607 576 }

/-- MTREE (R214). -/
def execMtree (sa : Nat) (s : State) : Host.Outcome State Fault Refusal :=
  s.finish (do
    let a ← s.ownArr [(.s, sa)]
    let ea ← s.singleS sa
    let (s, r) ← s.readRec ea 128 128 11 0
    match treeOf r with
    | none => .error ⟨0x0B, 11, 0, 0⟩
    | some t =>
      if a.drains.any fun d => d.tree && decide (d.read < d.n) then .error (busyFlt 9)
      let s := s.fresh
      let n := s.iss.core
      .ok ((s.modArr n fun a => { a with treeNew := a.treeNew ++ [(s.seqNo, t)] }).sched (s.cyc + 66) phLandA n 5 s.seqNo
        (.treeApply n s.seqNo)))

/-- A new tree applies to the rows read from now on (R214). -/
def execTreeApply (core id : Nat) (s : State) : Host.Outcome State Fault Refusal :=
  .next (s.modArr core fun a =>
    match a.treeNew.find? (·.1 = id) with
    | none => a
    | some t => { a with tree := t.2, treeNew := a.treeNew.filter (·.1 ≠ id) })

end Sys2Proof.Machine
end

