-- ==== Sys2Proof/Machine/Events.lean ====
section
/-! DEFINITION. Events of the cores: results, guards and stores land and perform, contexts enter handlers, stop, switch and wake,
queue entries and releases fall due, bindings take effect (04_progress.md, 06, 07, 12, 18_recovery.md R321 to R325). An event whose
work is gone has no effect. -/

namespace Sys2Proof.Machine

/-! ### Landings (R176) -/

/-- Whether a result issued earlier is still to land in the register of `f` in this cycle (R34): one that a request lands in the place
of its write. -/
def Ctx.behind (x : Ctx) (c : Nat) (f : Flight) : Bool :=
  x.fl.any fun g => g.id < f.id && g.due = c && g.cls = f.cls && g.reg = f.reg

/-- A result lands, behind one that was issued earlier to the same register (R34). -/
def execResultLanding (core ctx id : Nat) (s : State) : Host.Outcome State Fault Refusal :=
  .next (match (s.ctx core ctx).fl.find? (·.id = id) with
  | none => s
  | some f =>
    if (s.ctx core ctx).behind s.cyc f then s.sched s.cyc phWrite core 8 id (.resultLanding core ctx id)
    else
    (s.modCtx core ctx fun x => { x with fl := x.fl.filter (·.id ≠ id) }).landFlight core ctx f)

/-- A guard lands; a BRD that waits for it has its effect in the next cycle (R192). Once every guard of the cycle has landed,
held stores and deferred entries are resolved. -/
def execGuardLanding (core ctx gi : Nat) (s : State) : Host.Outcome State Fault Refusal :=
  let x := s.ctx core ctx
  .next (if (x.guard gi).opn.any fun o => o.due = s.cyc then
    let s := s.setCtx core ctx (x.landGuard s.cyc gi)
    let s := if x.brd.any fun b => b.taken.isNone && b.lit.idx = gi then
        s.sched (s.cyc + 1) phCtx core ctx 0 (.brdEffect core ctx) else s
    if (s.ctx core ctx).g.any fun p => p.2.opn.any fun o => o.due = s.cyc then s else s.resolve core ctx
  else s)

/-- A taken branch `b` has its effect (R192, R323): it drops a fault held in its shadow, and issue goes to its target, or the target's
fetch fault is taken. -/
def State.takeBrd (s : State) (n k : Nat) (b : Brd) : State :=
  let x := s.ctx n k
  let s := s.setCtx n k { x with brd := none, heldF := none, ar := if x.heldF.isSome then x.ar.drop 1 else x.ar }
  let s := s.jump n k b.target
  let s := s.modSeq n k fun q => { q with pc := b.target, xfer := none, st := if q.st = .holding then .holder else q.st }
  if (x.fetchPa x.q.sup b.target).isSome then s
  else s.takeFault n k
    { code := 0x0A, sub := 4, slot := 0, slot2 := 0, fpc := b.fpc, info0 := 16, info1 := b.target, iat := b.issued,
      defer := false, sys := false, sup := x.q.sup }

/-- The effect of a deferred branch (R39, R192, R323): taken, issue goes to its target, once a hold is over (`State.attempt`); not taken,
it takes a fault held in its shadow. A fault that waits for its quiet point settles the branch itself. -/
def execBrdEffect (core ctx : Nat) (s : State) : Host.Outcome State Fault Refusal :=
  let x := s.ctx core ctx
  .next (match x.brd with
  | none => s
  | some b =>
    match b.taken with
    | none => s
    | some t =>
      if s.cyc < b.effect || x.fault.isSome then s
      else if t then (if x.q.st = .holding then s else s.takeBrd core ctx b)
      else
        let s := s.setCtx core ctx { x with brd := none, heldF := none }
        match x.heldF with
        | some f => s.takeFault core ctx { f with defer := true }
        | none => s)

/-! ### Stores perform (R164 to R167, R186, R240, R305) -/

/-- A lazy entry leaves the buffer: its bytes perform; one that covers its granule clears its poison (R232). -/
def State.drainLazy (s : State) (core : Nat) (e : LazyEnt) : State :=
  let s := s.modCore core fun c => { c with lazy := c.lazy.filter (·.id ≠ e.id) }
  if e.mask = 2 ^ 64 - 1 then (s.store (e.gran * 64) 64 e.data).setPoison e.gran false
  else (List.range 64).foldl (fun s i =>
    if e.mask.testBit i then s.store (e.gran * 64 + i) 1 (e.data / 2 ^ (8 * i) % 256) else s) s

/-- The entry that drains first: earliest epoch, then the oldest. -/
def firstLazy : List LazyEnt → Option LazyEnt
  | [] => none
  | e :: r => match firstLazy r with
    | none => some e
    | some f => if f.epoch < e.epoch then some f else some e

/-- Whether a lazy store of an epoch before `ep` has not yet reached the buffer of a core. -/
def Core.lazyBehind (c : Core) (now ep : Nat) : Bool :=
  (c.stores.any fun t => t.kind = .lazy && t.ep < ep && now < t.due) ||
    c.ctxs.any fun x => (x.2.held ++ x.2.relq).any fun t => t.kind = .lazy && t.ep < ep

/-- The entries of a full buffer that drain in cycle `c` to make room for the lazy stores that enter it then (R241): the first ones, as
many as lack a place. -/
def Core.makeRoom (x : Core) (c : Nat) : List LazyEnt :=
  let new := (x.stores.filter fun t => t.kind = .lazy && t.due = c).flatMap fun t => t.ws.map fun w => (w.addr / 64, t.ep)
  let need := (new.dedup.filter fun p => !x.lazy.any fun e => e.gran = p.1 && e.epoch = p.2).length
  let stay := x.lazy.filter fun e => e.due ≠ c
  (List.range (stay.length + need - 64)).foldl (fun l _ =>
    match firstLazy (l.filter fun e => e.due ≠ c) with
    | some e => l.map fun f => if f.id = e.id then { f with due := c } else f
    | none => l) x.lazy

/-- A lazy store enters the buffer (R241): it merges into the entry of its granule and epoch, or takes an entry of its own, for which
the buffer has made room (`Core.makeRoom`). A free value says how far before its last cycle the entry drains (log 7), within the
bounds of the fences that name the core (R243) and behind the entries of earlier epochs. -/
def State.enterLazy (s : State) (core : Nat) (t : Store) (w : Wr) : State :=
  let c := s.core core
  let o := w.addr % 64
  let mask := (2 ^ w.len - 1) * 2 ^ o
  let put (old : Nat) : Nat := (List.range 64).foldl (fun a i =>
    if mask.testBit i then a - a / 2 ^ (8 * i) % 256 * 2 ^ (8 * i) + w.val / 2 ^ (8 * (i - o)) % 256 * 2 ^ (8 * i) else a) old
  match c.lazy.find? fun e => e.gran = w.addr / 64 && e.epoch = t.ep with
  | some e =>
    let bound := (c.fx.filter fun f => t.iat ≤ f.1).foldl (fun b f => min b f.2) (min e.due (t.iat + 4096))
    let e' := { e with
      mask := e.mask ||| mask, data := put e.data, first := min e.first t.iat, last := max e.last t.iat, due := max s.cyc bound }
    s.setLazy core (c.lazy.map fun x => if x.id = e.id then e' else x)
  | none =>
    let s := if 64 ≤ (c.lazy.filter fun e => e.due ≠ s.cyc).length then (match firstLazy c.lazy with
      | some e => s.drainLazy core e
      | none => s) else s
    let s := s.fresh
    let room := t.iat + 4096 - s.cyc
    let late := t.iat + 4096 - Config.lazyEarly s.seqNo % (room + 1)
    let bound := (c.fx.filter fun f => t.iat ≤ f.1).foldl (fun b f => min b f.2) late
    let e : LazyEnt :=
      { id := s.seqNo, gran := w.addr / 64, mask := mask, data := put 0, epoch := t.ep, first := t.iat, last := t.iat,
        due := max s.cyc bound }
    s.setLazy core ((s.core core).lazy ++ [e])

/-- A store performs: `who` is its number as a requester (Table 18-1). -/
def State.performStore (s : State) (core who : Nat) (t : Store) : State :=
  match t.kind with
  | .plain => t.ws.foldl (fun s w => s.store w.addr w.len w.val) (s.addReqs core who t.rows)
  | .row => t.ws.foldl (fun s w => (List.range (w.len / 64)).foldl (fun s i => s.setPoison (granOf w.addr + i) false)
      (s.store w.addr w.len w.val)) (s.addReqs core who t.rows)
  | .lazy => t.ws.foldl (fun s w => s.enterLazy core t w) s
  | .control => t.ws.foldl (fun s w => s.ctlStore t.part (whoOf core t.ctx) (w.addr - ctlBase) w.val core t.slot t.iat) s
  | .tap => t.ws.foldl (fun s w =>
      if t.ep < 256 then deliverAll w.addr w.val t.ep [] (w.len / 64) s
      else (List.range (w.len / 64)).foldl (fun s i => s.setPoison (granOf w.addr + i) false) (s.store w.addr w.len w.val)) s

/-- The stores of a core that are still to perform in this cycle or later. -/
def Core.pruneStores (c : Core) (now : Nat) : Core := { c with stores := c.stores.filter fun t => now ≤ t.due }

/-- A store performs in its cycle. -/
def execStorePerform (core _ctx id : Nat) (s : State) : Host.Outcome State Fault Refusal :=
  .next (match (s.core core).stores.find? fun t => t.id = id && t.due = s.cyc with
  | none => s
  | some t => (s.modCore core fun c => c.pruneStores s.cyc).performStore core 13 t)

/-- A released entry performs in its due cycle (R186); a lazy one is no part of its task's completion, and its buffer makes room. -/
def State.schedHeld (s : State) (core ctx : Nat) (t : Store) : State :=
  let s := if t.kind = .lazy then s.sched t.due phRoom core 0 0 (.lazyDrain core 0) else s.touch t.task t.due
  s.sched t.due phWrite core t.slot t.iat (.heldStorePerform core ctx t.id)

/-- The first entry of the release order leaves the held-store buffer; it performs four cycles later (R186). A cube that is not
true marks it among the core's stores as a released entry. -/
def execHeldStoreRelease (core ctx : Nat) (s : State) : Host.Outcome State Fault Refusal :=
  let x := s.ctx core ctx
  .next (match x.relq with
  | [] => s
  | h :: r =>
    let s := s.fresh
    let last := ((s.core core).stores.filter fun t => t.ctx = ctx && !t.cube.isTrue).foldl (fun m t => max m t.due) 0
    let t := { h with id := s.seqNo, due := max (s.cyc + 4) (last + 1), cube := ⟨1, 1⟩ }
    let s := s.setCtx core ctx { x with relq := r }
    let s := (s.modCore core fun c => { c with stores := c.stores ++ [t] }).schedHeld core ctx t
    if r = [] then s else s.sched (s.cyc + 1) phRelease core ctx 0 (.heldStoreRelease core ctx))

/-- The bank-conflict fault of a released entry that performs in this cycle in a bank in which a store of another context performs, an
ordinary one or one released before it, that was not known when that store issued (R22, log 97). -/
def State.heldMeets (s : State) (core : Nat) (t : Store) : Option Trap :=
  ((s.core core).stores.find? fun u =>
      u.ctx ≠ t.ctx && u.due = s.cyc && u.meets t && (u.cube.isTrue || decide (u.id < t.id))).map fun u =>
    let bank := ((t.rows.find? fun a => u.rows.any fun b => a.1 = b.1).map (·.1)).getD 0
    { code := 0x04, sub := 0, slot := t.slot, slot2 := 0, fpc := t.fpc, info0 := bank + (if u.cube.isTrue then 13 else 12) * 2 ^ 8 +
        12 * 2 ^ 12, info1 := 0, iat := t.iat, defer := false, sys := false, sup := t.sup }

/-- A released entry performs, or one cycle later if an ordinary store of the context is in its bank; the entries released behind
it are then pushed back where they would meet it. One that meets a store of another context writes nothing and raises its fault. -/
def execHeldStorePerform (core ctx id : Nat) (s : State) : Host.Outcome State Fault Refusal :=
  let c := s.core core
  .next (match c.stores.find? fun t => t.id = id && t.due = s.cyc with
  | none => s
  | some t =>
    if c.meetsStore s.cyc t then
      let moved := (c.stores.filter fun u => u.ctx = ctx && !u.cube.isTrue && s.cyc ≤ u.due).foldl
        (fun (a : Nat × List Store) u => if u.due < a.1 then (a.1 + 1, a.2 ++ [{ u with due := a.1 }]) else (u.due + 1, a.2))
        (s.cyc + 1, [])
      moved.2.foldl (fun s u =>
        (s.modCore core fun c => { c with stores := c.stores.map fun v => if v.id = u.id then u else v }).schedHeld core ctx u) s
    else
      let u := s.modCore core fun c => c.pruneStores s.cyc
      match s.heldMeets core t with
      | some f => u.lateFault core ctx f
      | none => u.performStore core 12 t)

/-- A lazy entry drains in its cycle (R241), but waits for a store of an earlier epoch that has not yet reached the buffer (R242). Number
0 makes room in a full buffer. -/
def execLazyDrain (core id : Nat) (s : State) : Host.Outcome State Fault Refusal :=
  let c := s.core core
  .next (if id = 0 then s.setLazy core (c.makeRoom s.cyc)
  else match c.lazy.find? fun e => e.id = id && e.due = s.cyc with
  | none => s
  | some e =>
    if c.lazyBehind s.cyc e.epoch then
      s.setLazy core (c.lazy.map fun x => if x.id = id then { x with due := s.cyc + 1 } else x)
    else s.drainLazy core e)

/-! ### Handlers, stops, switches, waits -/

/-- Whether a context that takes a fault becomes Stopped in place of entering its handler (R324, R325). -/
def State.stopsAt (s : State) (x : Ctx) (t : Trap) : Bool :=
  (x.q.sup && !t.sys) || (t.code = 0x0E && s.attached x.q.part)

/-- A context whose fault stops it becomes Stopped; a fault at supervisor privilege goes to the error log (R324, R325). -/
def State.stopOnFault (s : State) (core ctx : Nat) (t : Trap) : State :=
  let x := s.ctx core ctx
  let s := if x.q.sup && !t.sys then
      s.log (dieOf core) 5 core x.q.part ctx t.code ((s.task? x.q.task).elim 0 (·.taskid)) (t.fpc / 32 * 32) else s
  s.stopHere core ctx (t.cause x.q.sup) t.fpc t.info0 t.info1

/-- The quiet point of a context's fault, once it is reached: the handler is entered or the context stops, as ATTACH stands in this
cycle (R321, R325, log 68). -/
def State.atQuiet (s : State) (core ctx : Nat) : State :=
  let x := s.ctx core ctx
  match x.fault with
  | none => s
  | some t =>
    if x.quietAt s.cyc ≠ s.cyc then s
    else if s.stopsAt x t then s.stopOnFault core ctx t else s.enterHandler core ctx t

/-- The quiet point of a fault that enters the handler (R321). -/
def execHandlerEntry (core ctx : Nat) (s : State) : Host.Outcome State Fault Refusal := .next (s.atQuiet core ctx)

/-- The quiet point of a fault that stops the context (R324, R325). -/
def execFaultStop (core ctx : Nat) (s : State) : Host.Outcome State Fault Refusal := .next (s.atQuiet core ctx)

/-- The pending fault of a context that takes the core (R359): the first of them; the others stay for ERET. -/
def State.takePending (s : State) (n k : Nat) : State :=
  let x := s.ctx n k
  match firstTrap x.pendF with
  | none => s
  | some t =>
    let rest := x.pendF.erase t
    ((s.setCtx n k (rest.foldl Ctx.keep { x with pendF := [] })).takeFault n k t)

/-- A switch is complete: the chosen context takes the core (R94). A block and a stop have marked the slip of its base; that of a launched
or resumed context that gets the core after its base stays, since R76 lists no such case (log 74). -/
def execContextSwitch (core : Nat) (s : State) : Host.Outcome State Fault Refusal :=
  .next (match (s.core core).switchTo with
  | none => s
  | some j =>
    let s := s.modCore core fun c => { c with switchTo := none }
    if (s.ctx core j).q.st = .ready then
      let s := s.modCore core fun c => { c with holder := j }
      let s := s.modSeq core j fun q => { q with st := .holder, at_ := max q.at_ s.cyc }
      if s.cyc < (s.ctx core j).q.at_ then s else s.takePending core j
    else if s.openCore core then s.switch core else s)

/-- A block ends that no queue, barrier or phase ends (R287, R290). -/
def execBlockRelease (core ctx : Nat) (s : State) : Host.Outcome State Fault Refusal :=
  .next (match (s.ctx core ctx).q.block with
  | some ⟨.hring _, _, _, _, _⟩ => s.letGo (whoOf core ctx) none false
  | some ⟨.combine _ _, _, _, _, _⟩ => s.letGo (whoOf core ctx) none false
  | _ => s)

/-- A wait of WAITC or SCENE is over (R89, R90). -/
def execWaitEnd (core ctx : Nat) (s : State) : Host.Outcome State Fault Refusal :=
  let q := (s.ctx core ctx).q
  .next (if q.st = .waiting ∧ q.wait.any fun w => w.till = s.cyc then
    s.modSeq core ctx fun q => { q with st := .holder, wait := none, at_ := s.cyc, slip := true }
  else s)

/-- A binding takes effect, or the fault of its walk (R231). -/
def execBindComplete (core ctx : Nat) (s : State) : Host.Outcome State Fault Refusal :=
  .next (match (s.ctx core ctx).bind.filter fun b => b.due = s.cyc with
  | none => s
  | some b =>
    let s := s.modCtx core ctx fun x =>
      { x with bind := none, win := match b.new with
        | some w => aset x.win b.w w
        | none => adel x.win b.w }
    match b.trap with
    | some t => s.lateFault core ctx t
    | none => s)

/-! ### Queues, barriers, the reel (R96, R97, R233) -/

/-- A sent entry becomes receivable (R95); a queue that is being zeroed discards it (R299). -/
def execTqEntryReceivable (tq id : Nat) (s : State) : Host.Outcome State Fault Refusal :=
  let q := s.tq tq
  .next (match q.sent.find? (·.id = id) with
  | none => s
  | some e =>
    let s := s.setTq tq { q with sent := q.sent.filter (·.id ≠ id) }
    if s.zeroing 2 tq then s else s.tqJoin tq e)

/-- The place of a received entry becomes free (R96). -/
def execTqPlaceFreed (tq : Nat) (s : State) : Host.Outcome State Fault Refusal := .next (s.tqFreed tq)

/-- A phase is released (R97): its participants can complete. At `.pd` the pod releases those that have arrived; a release that comes
behind the bundles of a cycle is one of the next cycle. -/
def execBarrierRelease (part sc inst num : Nat) (s : State) : Host.Outcome State Fault Refusal :=
  let key := barKey part sc inst num
  let b := agetD s.bars key Barrier.reset
  .next (if sc = 5 ∧ phOut ≤ s.ph then s.sched (s.cyc + 1) phQueue 3000 key 0 (.barrierRelease part sc inst num)
  else if sc = 5 then
    let s : State := { s with bars := aset s.bars key { b with arr := [] } }
    b.arr.foldl (fun s w => s.letGo w (some s.cyc) false) s
  else
    let due := b.rel.filter fun r => r.1 = s.cyc
    let s : State := { s with bars := aset s.bars key { b with rel := b.rel.filter fun r => r.1 ≠ s.cyc } }
    due.foldl (fun s r => r.2.1.foldl (fun s w => s.letGo w (some r.1) r.2.2) s) s)

/-- A flit leaves its lane (R24). -/
def execFlitLeave (die id : Nat) (s : State) : Host.Outcome State Fault Refusal :=
  .next (s.modDie die fun d => { d with flits := d.flits.filter (·.id ≠ id) })

end Sys2Proof.Machine
end

