-- ==== Sys2Proof/Machine/Transfers.lean ====
section
/-! DEFINITION. Copies, atomics and persists as they perform (12_memory.md R235 to R239, R244 to R251, 18_recovery.md R328, R337). The
posted writes, read returns and atomic replies of host and pod are inputs. -/

namespace Sys2Proof.Machine

/-! ### Entries that reach a queue from outside its cores (R239) -/

/-- An entry arrives at a queue: it becomes receivable, or waits in the inbound hold, whose place its shadow keeps (R337); false if the
hold is full. -/
def State.tqInbound (s : State) (t : Nat) (e : TqIn) : State × Bool :=
  let q := s.tq t
  if q.taken < 64 then (s.tqJoin t e, true)
  else if q.hold.length < 64 then
    ((s.setTq t { q with hold := q.hold ++ [{ e with since := s.cyc }] }).tqShadow t [e.id] false, true)
  else (s, false)

/-- Whether a trap is a queue fault of an inbound discard. -/
def Trap.isDiscard (t : Trap) : Bool := t.code = 0x06 && (t.sub = 3 || t.sub = 6)

/-- Whether a context has such a fault pending (R359). -/
def Ctx.hasDiscard (x : Ctx) : Bool :=
  x.fault.any Trap.isDiscard || x.heldF.any Trap.isDiscard || x.pendF.any Trap.isDiscard ||
    x.defer.any fun d => d.trap.any Trap.isDiscard

/-- An entry that context `k` of core `n` made for task `task` finds the hold full (R239): a queue fault of the context while it
runs the task, otherwise an entry of the error log, which of two partitions that hold the queue names the lower (log 95). -/
def State.discard (s : State) (n k task t : Nat) (tr : Trap) : State :=
  let x := s.ctx n k
  if x.q.st ≠ .free ∧ x.q.task = task ∧ x.hasDiscard = false then s.lateFault n k tr
  else s.log (t / 64) 8 n ((List.range 16).find? (fun p => s.holdsTq p t) |>.getD 0) k 0 tr.info1 (0x080200000000 + t * 0x1000)

/-! ### Copies (R235, R238) -/

def Core.copy? (c : Core) (id : Nat) : Option CopyEnt := c.copies.find? (·.id = id)
def Core.setCopy (c : Core) (e : CopyEnt) : Core := { c with copies := c.copies.map fun x => if x.id = e.id then e else x }
def Core.dropCopy (c : Core) (id : Nat) : Core := { c with copies := c.copies.filter (·.id ≠ id) }

/-- The target of a host or pod address: 0 the host, else the package number + 1 (R354). -/
def outTarget (a : Nat) : Nat := if regionOf a = .host then 0 else bits a 43 24 + 1

/-- The target of granule `i` of the outside destination of a copy: a range that runs past the end of one package's addresses goes on in
the next package's (R354). -/
def CopyEnt.target (e : CopyEnt) (i : Nat) : Nat := outTarget (e.dst + 64 * i)

/-- The granule indexes of the poisoned granules of a range. -/
def State.badGranules (s : State) (a n : Nat) : List Nat := (List.range (n / 64)).filter fun i => s.poisoned (a + 64 * i) 64

/-! ### The order of departure (R266, R268) -/

/-- Whether a copy has a posted write to a target still to leave with an earlier departure key. -/
def CopyEnt.before (e : CopyEnt) (core target : Nat) (key : List Nat) : Bool :=
  isOuter (regionOf e.dst) && keyLt [e.start, core, 0, e.len / 64 - e.left] key &&
    (List.range e.left).any fun j =>
      let i := e.len / 64 - e.left + j
      e.target i = target && keyLt [e.start, core, 0, i] key

/-- Whether a message is a read or an atomic on a Ziesh link that its target has and has not answered yet (R354). -/
def State.unanswered (s : State) (o : Out) : Bool :=
  o.link.isSome && (match o.msg with
    | .read a len n => ((s.core (o.key.getD 1 0)).copies.any fun e =>
        e.seq = n && e.start = o.key.headD 0 && decide (e.src + 64 * e.back < a + len))
    | .atomic _ _ _ _ _ n => ((s.core (o.key.getD 1 0)).atoms.any fun f => f.seq = n && isOuter (regionOf f.addr))
    | _ => false)

/-- Whether traffic to the pod still waits to be remapped: the links have changed, and an acknowledged request has not drained (R354). -/
def State.remapping (s : State) : Bool := s.remap && s.out.any s.unanswered

/-- Whether a request to a target with departure key `key` must wait: another to that target has an earlier key and has not left, be it
a waiting request or a posted write of a copy; or its link is to be mapped anew. -/
def State.mustWait (s : State) (target : Nat) (key : List Nat) : Bool :=
  (target ≠ 0 && s.remapping) || (s.wait.any fun o => o.target = target && keyLt o.key key) ||
    s.cores.any fun c => c.2.copies.any fun e => e.before c.1 target key

/-- The waiting requests whose turn has come leave the package, in the order of their keys (R266), by the links as they are once the
traffic is remapped. -/
def State.leave (s : State) : State :=
  let s : State := { s with remap := s.remapping }
  s.wait.foldl (fun s o =>
    if o.cyc ≤ s.cyc && !s.mustWait o.target o.key then ({ s with wait := s.wait.erase o } : State).send o.key o.target o.msg else s) s

/-- An answer or a message to another package leaves at once, but waits while the traffic to the pod is to be remapped (R354). -/
def State.reply (s : State) (key : List Nat) (target : Nat) (m : Msg) : State :=
  if s.remapping then s.wants s.cyc key target m else s.send key target m

/-- The bytes of an outside source that lie with its first target; the others, if any, lie in the next package (R354). -/
def CopyEnt.first (e : CopyEnt) : Nat := if regionOf e.src = .host then e.len else min e.len (2 ^ 24 - e.src % 2 ^ 24)

/-- The departure key of the read request of a copy that asks for granule `gran`. -/
def CopyEnt.readKey (e : CopyEnt) (core gran : Nat) : List Nat := [e.start, core, 2, if 64 * gran < e.first then 0 else 1]

/-- The read requests of a copy wait for their turn: one for each target. -/
def State.askFor (s : State) (core : Nat) (e : CopyEnt) : State :=
  let s := s.wants (e.start + 1) (e.readKey core 0) (outTarget e.src) (.read e.src e.first e.seq)
  if e.first < e.len then
    s.wants (e.start + 1) (e.readKey core (e.first / 64)) (outTarget (e.src + e.first)) (.read (e.src + e.first) (e.len - e.first) e.seq)
  else s

/-- Whether some other partition than `p` has come to hold memory of the range [a, a + n) that `p` does not hold (R296). -/
def State.foreign (s : State) (p a n : Nat) : Bool :=
  let units (u i j : Nat) : Bool := (List.range (j + 1 - i)).any fun k =>
    !s.holdsUnit p u (i + k) && (List.range 16).any fun q => s.holdsUnit q u (i + k)
  match regionOf a, regionOf (a + n - 1) with
  | .spad i, .spad j => units 0 i j
  | .ring i, .ring j => units 1 i j
  | .hbm _, .hbm _ | .lpddr, .lpddr => !s.inRanges p n 4 a && (List.range 16).any fun q => (List.range 4).any fun i =>
      let lo := s.reg (offPart q + 0x100 + 16 * i)
      overlap lo (s.reg (offPart q + 0x108 + 16 * i) - lo) a n
  | _, _ => false

/-- A copy that may not go on ends: what it has not moved yet it does not move (log 115). -/
def State.endCopy (s : State) (core : Nat) (e : CopyEnt) : State :=
  let s := s.modCore core fun c => c.dropCopy e.id
  if isOuter (regionOf e.dst) then s.workDone e.task else s

/-- A copy starts (R235, R238): it reads its whole source, or asks the host or the pod for it from the next cycle on. A copy whose source
another partition has come to hold reads nothing (R296, log 115). A write that
performs in the cycle comes before the read (R227), in every region (log 102). What an error has poisoned already stays so (R251). -/
def execCopyStart (core id : Nat) (s : State) : Host.Outcome State Fault Refusal :=
  .next (match (s.core core).copy? id with
  | none => s
  | some e =>
    if isOuter (regionOf e.src) then s.askFor core e
    else if s.foreign e.part e.src e.len then s.endCopy core e
    else
      let e := { e with data := s.load e.src e.len, poison := (s.badGranules e.src e.len ++ e.poison).dedup }
      let s := s.modCore core fun c => c.setCopy e
      if isOuter (regionOf e.dst) then s
      else if isTq (regionOf e.dst) then s.sched e.arrive phQueue 2000 core e.iat (.copyArrival core id)
      else s.sched e.arrive phWrite core 6 e.iat (.copyArrival core id))

/-- Granule `i` of a copy's data. -/
def CopyEnt.gran (e : CopyEnt) (i : Nat) : Nat := e.data / 2 ^ (512 * i) % 2 ^ 512

/-- The queue fault of a copy whose entry is discarded. -/
def CopyEnt.trap (e : CopyEnt) (t : Nat) : Trap :=
  { code := 0x06, sub := 3, slot := e.slot, slot2 := 0, fpc := e.fpc, info0 := t % 64, info1 := e.seq, iat := e.iat,
    defer := false, sys := false, sup := e.sup }

/-- One entry of a copy to queue `t`; a queue that is being zeroed (R299), or that the copy's partition no longer holds (R296, log 103),
takes none. The entry of a read counts as over once it is receivable,
or when it is discarded (R238). -/
def State.copyEntry (s : State) (core : Nat) (e : CopyEnt) (t data : Nat) (poison : Bool) : State :=
  let s := s.fresh
  let read := isOuter (regionOf e.src)
  let r := s.tqInbound t
    { id := s.seqNo, data := BitVec.ofNat 512 data, poison := poison, since := s.cyc, src := 0, seq := 0,
      copy := if read then some (core, e.id) else none }
  let gone (s : State) : State := if read then s.copyLeft core e.id else s
  if s.zeroing 2 t || !s.holdsTq e.part t then gone s
  else if r.2 then r.1 else gone (r.1.discard core e.ctx e.task t (e.trap t))

/-- A copy arrives (R235, R239): the whole destination is written, with the copy's tag in scratchpad, or its entries join a
queue. What another partition has come to hold is not written (R296, log 115). -/
def execCopyArrival (core id : Nat) (s : State) : Host.Outcome State Fault Refusal :=
  .next (match (s.core core).copy? id with
  | none => s
  | some e =>
    let s := s.modCore core fun c => c.dropCopy id
    match regionOf e.dst with
    | .tq t => (List.range (e.len / 64)).foldl (fun s i => s.copyEntry core e t (e.gran i) (e.poison.contains i)) s
    | _ => if s.foreign e.part e.dst e.len then s else deliverAll e.dst e.data e.tag e.poison (e.len / 64) s)

/-- The queue aperture of another package at a pod address (R354): its number, if the address lies in one. -/
def podQueue (a : Nat) : Option Nat :=
  if regionOf a = .pod ∧ a % 2 ^ 24 < 0x200000 then some (bits a 43 0 / 0x1000) else none

/-- The 64 bytes that leave for a queue of another package carry the next number of that queue in bytes 60 to 63 (R239, log 83). -/
def State.stamp (s : State) (a data : Nat) : State × Nat :=
  match podQueue a with
  | none => (s, data)
  | some k =>
    let n := agetD s.oseq k 0
    ({ s with oseq := aset s.oseq k ((n + 1) % 2 ^ 32) }, data % 2 ^ 480 + n * 2 ^ 480)

/-- Granule `gran` of a copy to host or pod memory leaves the package (R238), in ascending order, after the copy's start and behind
every request to its target with an earlier departure key (R266). Requests that waited for it follow. -/
def execCopyPostedWrite (core id gran : Nat) (s : State) : Host.Outcome State Fault Refusal :=
  .next (match (s.core core).copy? id with
  | none => s
  | some e =>
    if isOuter (regionOf e.dst) = false ∨ s.cyc ≤ e.start ∨ gran + e.left ≠ e.len / 64 ∨
        s.mustWait (e.target gran) [e.start, core, 0, gran] then s
    else
      let a := e.dst + 64 * gran
      let p := s.stamp a (e.gran gran)
      let s := p.1.send [e.start, core, 0, gran] (e.target gran) (.write a 64 p.2 e.seq gran (e.poison.contains gran))
      (s.copyLeft core id).leave)

/-- Granule `gran` of a copy from host or pod memory returns and becomes an entry of its queue (R238), in address order, once its
request has left; an error on its way has poisoned it (R251). -/
def execCopyReadReturn (core id gran data : Nat) (poison : Bool) (s : State) : Host.Outcome State Fault Refusal :=
  .next (match (s.core core).copy? id with
  | none => s
  | some e =>
    match regionOf e.dst with
    | .tq t =>
      if isOuter (regionOf e.src) = false ∨ s.cyc ≤ e.start ∨ gran ≠ e.back ∨ e.len / 64 ≤ gran ∨
          (s.wait.any fun o => o.key = e.readKey core gran) then s
      else
        let e := { e with back := gran + 1 }
        (s.modCore core fun c => c.setCopy e).copyEntry core e t data (poison || e.poison.contains gran)
    | _ => s)

/-! ### Atomics (R244 to R246) -/

/-- The new word of an atomic of width `w`. -/
def atomNew (op w old b cmp : Nat) : Nat :=
  let b := b % 2 ^ w
  match op with
  | 0 => (old + b) % 2 ^ w
  | 1 => if sint w old < sint w b then old else b
  | 2 => if sint w old < sint w b then b else old
  | 3 => b
  | 4 => if old = cmp % 2 ^ w then b else old
  | 5 => min old b
  | _ => max old b

/-- The old value as it lands in sd. -/
def atomOld (op : Nat) (wide : Bool) (old : Nat) : Nat :=
  if wide || op = 5 || op = 6 then old else wrapInt 64 (sint 32 old)

/-- An atomic performs inside the package (R245). A poisoned granule stays unchanged, and the fault falls due at the landing. -/
def execAtomPerform (core id : Nat) (s : State) : Host.Outcome State Fault Refusal :=
  .next (match (s.core core).atoms.find? (·.id = id) with
  | none => s
  | some f =>
    let s := s.modCore core fun c => { c with atoms := c.atoms.filter (·.id ≠ id) }
    let len := if f.wide then 8 else 4
    if s.poisoned f.addr len then
      let t : Trap :=
        { code := 0x0C, sub := (s.poisonFlt f.addr len).elim 0 (·.sub), slot := f.slot, slot2 := 0, fpc := f.fpc, info0 := 0,
          info1 := s.poisonAddr f.addr len,
          iat := f.iat, defer := false, sys := false, sup := f.sup }
      s.modCtx core f.ctx fun x => { x with fl := x.fl.map fun g =>
        if g.id = id then { g with pairs := g.pairs.map fun p => { p with trap := some t } } else g }
    else
      let old := s.load f.addr len
      (s.store f.addr len (atomNew f.op (8 * len) old f.b f.cmp)).setFlight core f.ctx id (atomOld f.op f.wide old))

/-- The departure key of an atomic (R266). -/
def AtomFl.key (f : AtomFl) (core : Nat) : List Nat := [f.iat + 4, core, 1, 0]

/-- The reply of an atomic on host or pod memory: an entry of its reply queue (R246), once its request has left (R268); a
refused one is marked (R354). A queue that is being zeroed (R299), or that the partition of the atomic no longer holds (R296, log 103),
takes none. -/
def execAtomReply (core id old : Nat) (refused : Bool) (s : State) : Host.Outcome State Fault Refusal :=
  .next (match (s.core core).atoms.find? fun f => f.id = id && isOuter (regionOf f.addr) with
  | none => s
  | some f =>
    if s.wait.any fun o => o.key = f.key core then s
    else
    let s := (s.modCore core fun c => { c with atoms := c.atoms.filter (·.id ≠ id) }).fresh
    let data := old % 2 ^ 64 + f.seq * 2 ^ 64 + (if refused then 0xFFFFFFFF * 2 ^ 96 else 0)
    let r := s.tqInbound f.rq
      { id := s.seqNo, data := BitVec.ofNat 512 data, poison := false, since := s.cyc, src := 0, seq := 0, copy := none }
    let t : Trap :=
      { code := 0x06, sub := 6, slot := f.slot, slot2 := 0, fpc := f.fpc, info0 := f.rq % 64, info1 := f.seq, iat := f.iat,
        defer := false, sys := false, sup := f.sup }
    (if s.zeroing 2 f.rq || !s.holdsTq f.part f.rq then s else if r.2 then r.1 else r.1.discard core f.ctx f.task f.rq t).workDone f.task)

/-! ### Persists (R247, R249, R265, R328, R337) -/

/-- Granule `gran` of a flush persists in the mirror (R247). -/
def execFlushGranulePersist (core id gran : Nat) (s : State) : Host.Outcome State Fault Refusal :=
  .next (match (s.core core).flushes.find? (·.id = id) with
  | none => s
  | some f =>
    let s := match f.grans[gran]? with
      | none => s
      | some g => s.modCore core fun c => { c with neg := { c.neg with mirror := aset c.neg.mirror g.1 g.2 } }
    if gran + 1 < f.grans.length then s.sched (s.cyc + 2) phArray core 6 id (.flushGranulePersist core id (gran + 1))
    else s.modCore core fun c => { c with flushes := c.flushes.filter (·.id ≠ id) })

/-- The slot that a new record takes, of two slots of which each may be valid and may hold a SEQ under MAGIC, and its SEQ (R328): the
slot that is not valid, slot 0 if neither is (R346), else that with the lower SEQ. -/
def slotChoice (ok : Nat → Bool) (seq : Nat → Nat) : Nat × Nat :=
  (if !ok 0 then 0 else if !ok 1 then 1 else if seq 0 ≤ seq 1 then 0 else 1, max (seq 0) (seq 1) + 1)

/-- The slot and the SEQ of a new record of context `k` (R328). -/
def Core.recSlot (c : Core) (k : Nat) : Nat × Nat :=
  let r (j : Nat) : Option Rec := aget c.neg.recs (2 * k + j)
  slotChoice (fun j => (r j).any c.valid) fun j => ((r j).filter (·.magic)).elim 0 (·.seq)

/-- The CRC of a context payload (Table 18-7). -/
def Payload.crc (p : Payload) : BitVec 32 :=
  BitVec.ofNat 32 (crc32c ((List.range 5120).flatMap fun i => bytesOf 8 (p.ctx.imageWord (8 * i))))

/-- The contents of the matrix state (Table 18-6), in its order. -/
def Arr.contents (a : Arr) : List Nat :=
  let copies := a.banks.flatMap fun b =>
    [b.1, b.2.act.fmt.getD 8, b.2.act.valid.toNat, b.2.act.expert] ++ (b.2.act.cols.flatMap fun c => [c.1, c.2.toNat]) ++
      b.2.act.scl.flatMap fun c => [c.1, c.2.toNat]
  let tiles := a.tiles.flatMap fun t =>
    [t.1, t.2.ev, t.2.live.toNat] ++ t.2.rows.flatMap fun r => [r.1, r.2.toNat]
  [a.tagrec.toNat, a.lrec, a.k, a.ibase] ++ (a.lists.flatMap fun l => l.1 :: l.2.flatMap fun e => [e.v.toNat, e.i]) ++
    [a.tree.n, a.tree.rb, a.tree.cb, a.tree.t] ++ a.tree.parent ++ (a.conts.flatMap fun c => [c.pass.tile, c.pass.port, c.pass.n, c.pass.r0,
      c.pass.live, c.pass.init.toNat]) ++ copies ++ tiles ++ a.oq.flatMap fun q => q.1 :: q.2.flatMap fun g => [g.data.toNat, g.status]

/-- The matrix state of a record begins to overwrite the matrix area: what the area held is no longer whole (R328, R330). -/
def Core.beginMat (c : Core) (v : Save) : Core :=
  if v.mat.isSome then { c with neg := { c.neg with mat := c.neg.mat.map fun m => { m with whole := false } } } else c

/-- The payload of a record begins (R328, R346): its slot is chosen, and the record that stood there is torn from now on. -/
def Core.beginPay (c : Core) (v : Save) : Core :=
  let p := c.recSlot v.ctx
  let key := 2 * v.ctx + p.1
  { c with
    saves := c.saves.map fun w => if w.id = v.id then { w with slot := some p } else w
    neg := { c.neg with recs := (aget c.neg.recs key).elim c.neg.recs fun r => aset c.neg.recs key { r with torn := true } } }

/-- The header of a record is written: the record persists (R249, R328). -/
def Core.putHeader (c : Core) (v : Save) (p : Nat × Nat) : Core :=
  let q := v.pay.ctx.q
  let r : Rec :=
    { magic := true, kind := v.kind, ctx := v.ctx, seq := p.2, len := 40960, crc := v.pay.crc, scn := q.scn, srel := q.srel,
      taskid := v.pay.taskid, mlen := v.mlen, mcrc := v.mat.elim 0 fun a => Config.recordCrc a.contents, torn := false,
      pay := some v.pay }
  { c with
    saves := c.saves.filter (·.id ≠ v.id)
    neg := { c.neg with
      recs := aset c.neg.recs (2 * v.ctx + p.1) r
      mat := match v.mat with
        | some a => some ⟨a, v.ctx, p.2, true⟩
        | none => c.neg.mat } }

/-- A record on the shadow path (R328, R330, R346): its matrix state begins, its payload begins, its header is written. -/
def execPsaveHeaderWrite (core id : Nat) (s : State) : Host.Outcome State Fault Refusal :=
  .next (s.modCore core fun c =>
    match c.saves.find? (·.id = id) with
    | none => c
    | some v =>
      match v.slot with
      | none => let c := if s.cyc = v.from_ then c.beginMat v else c
        if s.cyc = v.start then c.beginPay v else c
      | some p => if s.cyc = v.header then c.putHeader v p else c)

/-- The slot and the SEQ of a new state record of the queue of a core's share (R328, R337). -/
def Negative.qSlot (g : Negative) : Nat × Nat :=
  slotChoice (fun j => (aget g.qrecs j).any fun r => !r.torn) fun j => (aget g.qrecs j).elim 0 (·.seq)

/-- The valid state record of a queue's shadow with the higher SEQ (R337). -/
def Negative.qNewest (g : Negative) : Option QRec :=
  ((List.range 2).filterMap fun j => (aget g.qrecs j).filter fun r => !r.torn).foldl (fun b r =>
    match b with
    | none => some r
    | some x => if x.seq < r.seq then some r else some x) none

/-- The entries of a change, and those of its inbound hold: number, place, data. -/
def TqChg.entPlaces (c : TqChg) : List (Nat × Nat × BitVec 512) :=
  c.ents.zipIdx.map fun p => (p.1.id, (c.head + p.2) % 64, p.1.data)
def TqChg.holdPlaces (c : TqChg) : List (Nat × Nat × BitVec 512) :=
  c.hold.zipIdx.map fun p => (p.1.id, (c.hhead + p.2) % 64, p.1.data)

/-- Whether the `n` places from `head` on take in place `i`. -/
def placeIn (head n i : Nat) : Bool := decide ((i + 64 - head % 64) % 64 < n)

/-- Whether the newest valid state record names an entry place, or a hold place. -/
def Negative.namesEnt (g : Negative) (i : Nat) : Bool := g.qNewest.any fun r => placeIn r.head r.count i
def Negative.namesHold (g : Negative) (i : Nat) : Bool := g.qNewest.any fun r => placeIn r.hhead r.hcount i

/-- Write places of the shadow: the entry places `es`, the hold places `hs`. -/
def Negative.putPlaces (g : Negative) (es hs : List (Nat × Nat × BitVec 512)) : Negative :=
  { g with
    qents := es.foldl (fun m p => aset m p.2.1 p.2.2) g.qents
    qholds := hs.foldl (fun m p => aset m p.2.1 p.2.2) g.qholds }

/-- The places of what has joined with a change are written, except one that the newest valid state record names still: a restore would
find it in a state that the queue never had (R265, log 82). -/
def Negative.putNew (g : Negative) (c : TqChg) : Negative :=
  g.putPlaces (c.entPlaces.filter fun p => c.new.contains p.1 && !g.namesEnt p.2.1)
    (c.holdPlaces.filter fun p => c.new.contains p.1 && !g.namesHold p.2.1)

/-- The payload of a state record begins: the record that stood in its slot is torn from now on. -/
def Negative.tearQRec (g : Negative) : Negative :=
  let j := g.qSlot.1
  { g with qrecs := (aget g.qrecs j).elim g.qrecs fun r => aset g.qrecs j { r with torn := true } }

/-- The poison bits of places from a head place on. -/
def placeBits (head : Nat) (l : List Bool) : Nat :=
  l.zipIdx.foldl (fun a p => if p.1 then a ||| 2 ^ ((head + p.2) % 64) else a) 0

/-- The state record of a change in slot `p` (R337). -/
def Negative.putQRec (g : Negative) (c : TqChg) (p : Nat × Nat) : Negative :=
  let pois := placeBits c.head (c.ents.map (·.poison))
  let hpois := placeBits c.hhead (c.hold.map (·.poison))
  let crc := Config.recordCrc [c.head, c.ents.length, c.hhead, c.hold.length, pois, hpois]
  let r : QRec :=
    { seq := p.2, crc := crc, head := c.head, count := c.ents.length, hhead := c.hhead, hcount := c.hold.length, pois := pois,
      hpois := hpois, torn := false }
  { g with qrecs := aset g.qrecs p.1 r }

/-- The shadow of a token queue follows a change (R265, R337), in the share of core (q mod 64) of its die: the places of what joined in
the next cycle, and if the queue has changed the payload of a state record 31 cycles after it and its header in the next. With the
header the places of the whole queue come to hold what it names, so that a restore finds the queue as it stood after one complete
change (log 82). No shadow is kept before the negative is calibrated (R342). -/
def execQueueShadowPersist (tq id : Nat) (s : State) : Host.Outcome State Fault Refusal :=
  let q := s.tq tq
  .next (match q.chg.find? (·.id = id) with
  | none => s
  | some g =>
    let neg (f : Negative → Negative) : State :=
      if s.negReady then s.modCore tq fun c => { c with neg := f c.neg } else s
    if s.cyc = g.at_ + 1 then neg (·.putNew g)
    else if s.cyc = g.at_ + 31 then (if g.change then neg Negative.tearQRec else s)
    else
      let s := if g.change then neg fun n => (n.putPlaces g.entPlaces g.holdPlaces).putQRec g n.qSlot else s
      s.setTq tq { q with chg := q.chg.filter (·.id ≠ id) })

end Sys2Proof.Machine
end

