-- ==== Sys2Proof/Machine/Launch.lean ====
section
/-! DEFINITION. The scheduler at work (04_progress.md R99 to R110, 18_recovery.md R328 to R335): queues are rung and configured, gangs
launch, trigger and complete, tasks are stopped, saved and resumed. An event whose work is gone has no effect. -/

namespace Sys2Proof.Machine

/-! ### Queue registers (R108) -/

/-- The queue whose register at place `r` the access names. -/
def State.qAt (s : State) (r : Nat) : Option Nat :=
  if inRange s.cw.off 0x10000 0x10000 ∧ s.cw.off % 256 = r then some ((s.cw.off - 0x10000) / 256) else none

/-- How many tasks a count lies beyond QHEAD. -/
def SQ.ahead (q : SQ) (n : Nat) : Nat := (n + 2 ^ 32 - q.head) % 2 ^ 32

/-- QTAIL of queue `i` becomes `v`: the doorbell rings, or the ring is overrun (Table 04-7). -/
def State.doorbell (s : State) (i v : Nat) : State :=
  let q := s.queue i
  if 2 ^ q.size < q.ahead v then s.setQueue i (q.stop 4)
  else
    let old := q.bells.filter fun b => 1 ≤ q.ahead b.1 && q.ahead b.1 ≤ q.ahead v
    s.setQueue i { q with tail := v, bells := if q.ahead v = 0 ∨ old.any (·.1 = v) then old else old ++ [(v, s.cyc)] }

/-- A QTAIL write (R108). -/
def execQtailDoorbell (s : State) : Host.Outcome State Fault Refusal :=
  .next (match s.qAt 0x18 with
  | none => s
  | some i => s.doorbell i (s.cw.val % 2 ^ 32))

/-- A QCFG write (R108, Table 04-8). A supervisor's write leaves PART as it is (Table 17-8). -/
def execQcfgWrite (s : State) : Host.Outcome State Fault Refusal :=
  .next (match s.qAt 0 with
  | none => s
  | some i =>
    let q := s.queue i
    let v := s.cw.val
    let part := if s.cw.who < 16 then q.part else bits v 7 4
    if q.en ∧ ¬ (v % 8 = q.prio ∧ part = q.part ∧ bits v 11 8 = q.size) then s.setQueue i (q.stop 5)
    else
      let en := v.testBit 3 && bits v 11 8 ≠ 0
      let q := if q.en then q else { q with prio := v % 8, part := part, size := bits v 11 8, eprio := v % 8 }
      s.setQueue i { q with en := en, err := q.err && !en, code := if en then 0 else q.code,
                                 since := if en then q.since else none })

/-! ### Contexts begin and end their part in a task -/

/-- A launched or resumed context takes the core from a holder that has blocked or ended, or becomes Ready (R75); its first bundle does not
issue before cycle `b` (Table 04-3). -/
def State.placeCtx (s : State) (n k b : Nat) : State :=
  let c := s.core n
  let st := (c.ctx c.holder).q.st
  let s := s.modSeq n k fun q => { q with at_ := b }
  if c.switchTo.isNone && (st == .free || st == .blocked || c.holder == k) then
    (s.modCore n fun c => { c with holder := k }).modSeq n k fun q => { q with st := .holder }
  else s.makeReady n k

/-- A context as a launch leaves it before its first bundle (R100, R303): held stores of its earlier task go on leaving. -/
def Ctx.launched (old : Ctx) (part task b entry : Nat) (args : List Nat) (c4 : Bool) (itb : List ITEnt) : Ctx :=
  let q := { Seq.reset with
    st := .ready, part := part, task := task, pc := entry, npc := entry, base := b, lastrel := b, at_ := b, itlb := itb }
  let ar := { Arith.reset with c4 := c4 }
  let s := (List.range 4).foldl (fun a j => aset a (j + 1) (oneTake (BitVec.ofNat 2048 (args.getD j 0 % 2 ^ 64)))) []
  { Ctx.reset with q := q, ar := ar, s := s, relq := old.relq }

/-- A context becomes Free with its array, if it owns it (R110, R196). -/
def State.freeCtx (s : State) (n k : Nat) : State :=
  let s := s.leaveArr n k
  s.modCtx n k fun x => { Ctx.reset with relq := x.relq }

/-- A task is over: its completion-table entry says so, unless a task with another TASKID has reused it (R107, log 79), and the banks it
still holds are released (R105). -/
def State.finishTask (s : State) (t : Task) : State :=
  let g := s.graph t.part
  let s := if g.last.any fun p => p.2 = t.taskid then s.setGraph t.part { g with ended := g.ended ++ [t.taskid] } else s
  let s := if (aget s.comp (compKey t.part t.taskid)).any fun e => e.1 ≠ t.taskid then s else s.setComp t .complete
  { s with banks := s.banks.filter (·.2 ≠ t.id), tasks := s.tasks.filter (·.id ≠ t.id) }

/-- A task is lost (R334): it completes with an error-log entry, and its contexts are Free. -/
def State.loseTask (s : State) (t : Task) : State :=
  let n := (t.place.head?.map (·.1)).getD 0
  let s := t.place.foldl (fun s p =>
    if (s.ctx p.1 p.2).q.task = t.id then (s.withdraw p.1 p.2).freeCtx p.1 p.2 else s) s
  (s.log (dieOf n) 6 n t.part 0 0 t.taskid 0).finishTask t

/-! ### Launch (R100 to R103) -/

/-- The other queues whose heads have satisfied dependencies are passed over (R103). -/
def State.passOver (s : State) (i : Nat) : State :=
  let seen := s.sq.filter fun p => p.1 ≠ i && (match s.head p.2 with
    | .ready _ => true
    | _ => false)
  seen.foldl (fun s p =>
    let q := p.2
    s.setQueue p.1 (if q.pass + 1 < 256 then { q with pass := q.pass + 1 }
      else { q with pass := 0, eprio := min 7 (q.eprio + 1) })) s

/-- A queue's head has been selected (R103). -/
def SQ.selected (q : SQ) : SQ := { q with eprio := q.prio, pass := 0, since := none }

/-- At a launch the top-k epilogue has K = 1 and empty lists (R212), where no context owns the array or is to own it from its first bundle
on (R218, log 85). -/
def Core.launched (c : Core) : Core := if c.arrFree then { c with arr := { c.arr with k := 1, lists := [] } } else c

/-- The head of queue `i` is launched as a gang with scene base t + 53 (R30, R100, R102). -/
def State.launch (s : State) (i : Nat) : State :=
  let q := s.queue i
  let d := s.load (q.place q.head) 64
  match s.kernel q.part (descKdesc d) with
  | none => s
  | some (k, itb) =>
    let s := s.fresh
    let id := s.seqNo
    let b := s.cyc + 53
    let place := (maskCores q.mask).filterMap fun n => ((s.core n).freeCtx).map fun j => (n, j)
    let t : Task :=
      { id := id, q := i, part := q.part, taskid := descId d, desc := BitVec.ofNat 512 d, kdesc := BitVec.ofNat 512 k,
        place := place, trig := [], halted := [], last := 0, open_ := 0, st := .running, trigDone := false, pre := none,
        parked := [], key := none, dark := [], wins := [] }
    let acq := (List.range 16).filter fun b => (bits d 111 96).testBit b
    let banks := place.foldl (fun a p => acq.foldl (fun a b => aset a (16 * p.1 + b) id) a) s.banks
    let q := { q.selected with head := (q.head + 1) % 2 ^ 32 }
    let q := { q with bells := q.bells.filter fun b => 1 ≤ q.ahead b.1 && q.ahead b.1 ≤ 2 ^ 16 }
    let s : State := { s with tasks := s.tasks ++ [t], banks := banks }
    let s := (s.setComp t .launched).setQueue i q
    place.foldl (fun s p =>
      ((s.modCore p.1 Core.launched).setCtx p.1 p.2 ((s.ctx p.1 p.2).launched q.part id b (kdEntry k) ((List.range 4).map (descArg d)) (kdCompat k)
        itb)).placeCtx p.1 p.2 b) s

/-! ### Resume (R110, R331, R334, R335) -/

/-- The record from which a context of a task resumes. -/
def State.resumeRec (s : State) (t : Task) (p : Nat × Nat) : Option Rec := (s.core p.1).newest p.2 t.taskid t.fits

/-- The bytes of a context's `.rwp` windows. -/
def Ctx.rwpBytes (x : Ctx) : Nat := ((x.win.filter fun w => w.2.attr = 2).map fun w => w.2.size).foldl (· + ·) 0

/-- The cycles a restore takes (R331, R335): as the save took, and one for each 1024 bytes read from the flush mirror. -/
def restoreTime (t : Task) (r : Rec) : Nat :=
  r.mlen / 1024 + 48 + (if t.key.isSome then ceilDiv (r.pay.elim 0 fun v => v.ctx.rwpBytes) 1024 else 0)

/-- The granules of a window's range. -/
def Win.granules (w : Win) : List Nat := (List.range (w.size / 64)).map fun i => w.pbase + 64 * i

/-- Recovery poisons the granules of a context's windows that lie in scratchpads whose die's rail was lost, with tag 0 (R335). Those of
`.rwp` windows, its own or a gang member's, get their state from the mirror afterwards (`State.restoreWins`). -/
def State.darkWins (s : State) (dark : List Nat) (x : Ctx) : State :=
  x.win.foldl (fun s w => w.2.granules.foldl (fun s a =>
    match regionOf a with
    | .spad m => if dark.contains (dieOf m) then (s.restorePoison (granOf a)).setTag (granOf a) 0 else s
    | _ => s) s) s

/-- Recovery gives the granules of a context's `.rwp` windows, which lie in its core's scratchpad (log 71), back from the flush mirror
(R335); one that was poisoned there is a granule that a restore has poisoned (R319). -/
def State.restoreWins (s : State) (n : Nat) (x : Ctx) : State :=
  (x.win.filter fun w => w.2.attr = 2).foldl (fun s w => (w.2.granules.filter fun a => regionOf a = .spad n).foldl (fun s a =>
    let g := (aget (s.core n).neg.mirror (offOf a / 64)).getD (0, 0, false)
    let s := s.deliver a g.1.toNat g.2.1 g.2.2
    if g.2.2 then s.restorePoison (granOf a) else s) s) s

/-- The torn-shadow faults of a resume from record `r` (R334): torn headers with a higher SEQ. -/
def Core.tornTraps (c : Core) (k pc : Nat) (sup : Bool) (r : Rec) : List Trap :=
  ((c.records k).filter fun p => p.2.magic && !c.valid p.2 && r.seq < p.2.seq).map fun p =>
    { code := 0x10, sub := p.2.kind, slot := 0, slot2 := 0, fpc := pc, info0 := p.1, info1 := p.2.seq, iat := 0, defer := false,
      sys := false, sup := sup }

/-- The matrix state of a core's array after a resume (R218, R331, R335): that of the record, which the context owns from its first
bundle on; or, after a recovery from a record with none, as reset, if the array is free. -/
def State.restoreArr (s : State) (n : Nat) (recovery : Bool) (r : Rec) : State :=
  if r.mlen = 0 then s.modCore n fun c => if recovery && c.arrFree then { c with arr := Arr.reset } else c
  else match (s.core n).neg.mat with
    | some m => s.modArr n fun _ => { m.arr with owner := none }
    | none => s

/-- Restore the context of a record, with its first bundle at cycle `x` (R110, R331). One that was saved while Stopped stays so.
LASTREL becomes SCENEBASE less the saved difference, as R331 says and R90 does not (log 78). `sup` is the privilege it begins at. -/
def State.restoreCtx (s : State) (t : Task) (itb : List ITEnt) (x : Nat) (sup : Bool) (p : Nat × Nat) (r : Rec) : State :=
  match r.pay with
  | none => s
  | some v =>
    let c := v.ctx
    let old := s.ctx p.1 p.2
    let base := x - r.srel
    let q : Seq := { c.q with
      st := if c.q.parked then .stopped else .ready, part := t.part, task := t.id, pc := v.resume, npc := v.resume, base := base,
      lastrel := base + c.q.lastrel - c.q.base, slip := false, span := 0, at_ := x, sup := sup, parked := false,
      owns := decide (r.mlen ≠ 0), itlb := itb }
    let torn := if t.key.isSome then (s.core p.1).tornTraps p.2 v.resume sup r else []
    let c := { c with q := q, relq := old.relq, pendF := c.pendF ++ torn }
    let s := (s.setCtx p.1 p.2 c).restoreArr p.1 t.key.isSome r
    let s := if t.key.isSome then s.restoreWins p.1 c else s
    if q.st = .stopped then s else s.placeCtx p.1 p.2 x

/-- The entries and the inbound hold that a shadow keeps, every entry unreserved, numbered from `id` on. -/
def Negative.queue (g : Negative) (id now : Nat) : List TqEnt × List TqIn :=
  match g.qNewest with
  | none => ([], [])
  | some r =>
    ((List.range r.count).map fun j =>
      let p := (r.head + j) % 64
      { id := id + j, data := agetD g.qents p 0, poison := r.pois.testBit p, resv := none },
     (List.range r.hcount).map fun j =>
      let p := (r.hhead + j) % 64
      { id := id + 64 + j, data := agetD g.qholds p 0, poison := r.hpois.testBit p, since := now, src := 0, seq := 0, copy := none })

/-- A queue of a lost die is rebuilt from its shadow (R337, R355): the partitions that hold it and the packages that sent to it are
told. Entries that have come since the loss, numbered from 0 again, follow (R357). -/
def State.rebuildTq (s : State) (d i : Nat) : State :=
  let t := 64 * d + i
  let q := s.tq t
  let g := (s.core t).neg
  let l := g.queue (s.seqNo + 1) s.cyc
  let s : State := { s with seqNo := s.seqNo + 128 }
  let s := s.setTq t { Tq.reset with
    ents := l.1, hold := l.2, head := g.qNewest.elim 0 (·.head), hhead := g.qNewest.elim 0 (·.hhead), next := q.next,
    early := q.early, srcs := q.srcs }
  let s := (q.ents.map (fun e => (⟨e.id, e.data, e.poison, s.cyc, 0, 0, none⟩ : TqIn)) ++ q.hold).foldl
    (fun s e => (s.tqInbound t e).1) s
  let s := s.setReg (offMgmt + 0x80 + 8 * d) (s.reg (offMgmt + 0x80 + 8 * d) ||| 2 ^ i)
  let s := ((List.range 16).filter fun p => s.holdsTq p t).foldl (fun s p => s.post (s.vbase p)) s
  (q.srcs.filter (0 < ·)).foldl (fun s src => s.reply [s.cyc, 512, 4, t] src (.queueReset d i)) s

/-- The queues of a die that was lost are rebuilt, once. -/
def State.rebuildDie (s : State) (d : Nat) : State :=
  if (s.die d).dark && (s.die d).up then
    let qs := (List.range 64).filter fun i => (aget (s.die d).tqs i).isSome || (s.core (64 * d + i)).neg.qrecs ≠ []
    let s := qs.foldl (fun s i => s.rebuildTq d i) s
    s.modDie d fun x => { x with dark := false }
  else s

/-- The task at the head of a queue resumes: each context from its record, all at one X and at user privilege (R110, R301, R331). -/
def State.resume (s : State) (i : Nat) (t : Task) : State :=
  let q := s.queue i
  let s := s.setQueue i { q.selected with back := q.back.filter (· ≠ t.id) }
  let recs := t.live.filterMap fun p => (s.resumeRec t p).map fun r => (p, r)
  match s.itb t.part (kdIpva t.kdesc.toNat) (kdNipg t.kdesc.toNat + 1) with
  | none => s
  | some itb =>
    if recs.length ≠ t.live.length then s.loseTask t
    else
      let x := s.cyc + 53 + (recs.map fun r => restoreTime t r.2).foldl max 0
      let s := t.dark.foldl (fun s d => s.rebuildDie d) s
      let s := recs.foldl (fun s r => r.2.pay.elim s fun v => s.darkWins t.dark v.ctx) s
      let s := recs.foldl (fun s r => s.restoreCtx t itb x false r.1 r.2) s
      s.modTask t.id fun t => { t with st := .running, pre := none, parked := [], key := none, dark := [] }

/-- The scheduler selects the head of a queue and launches it, or resumes a task that a pre-emption saved (R102, R110). -/
def execTaskLaunch (q : Nat) (s : State) : Host.Outcome State Fault Refusal :=
  .next (if s.head (s.queue q) ≠ .ready true then s
  else match (s.queue q).back with
    | id :: _ => match s.task? id with
      | some t => if t.st = .saved then (s.passOver q).resume q t else s
      | none => s
    | [] => (s.passOver q).launch q)

/-- The scheduler selects a task that waits for recovery, and its gang resumes from its stop key (R334, R335). -/
def execRecoveryResume (q : Nat) (s : State) : Host.Outcome State Fault Refusal :=
  .next (if s.head (s.queue q) ≠ .ready true then s
  else match (s.queue q).back with
    | id :: _ => match s.task? id with
      | some t => if t.st = .lost then (s.passOver q).resume q t else s
      | none => s
    | [] => s)

/-! ### Completion and trigger (R105, R106) -/

/-- A task completes, unless something of it other than a lazy store is still to perform; one that TKILL ended completes at once (R105,
R326). -/
def execTaskComplete (id : Nat) (s : State) : Host.Outcome State Fault Refusal :=
  .next (match s.task? id with
  | none => s
  | some t =>
    if t.st = .killed then s.finishTask t
    else if !t.allHalted || t.open_ ≠ 0 then s
    else if s.cyc ≤ t.last ∨ t.place.any fun p => (s.ctx p.1 p.2).relq.any fun h => h.task = id && h.kind ≠ .lazy then
      s.sched (max (t.last + 1) (s.cyc + 1)) phSched 0 0 id (.taskComplete id)
    else s.finishTask t)

/-- A task is triggered (R106). -/
def execTaskTrigger (id : Nat) (s : State) : Host.Outcome State Fault Refusal :=
  .next (match s.task? id with
  | none => s
  | some t =>
    match aget s.comp (compKey t.part t.taskid) with
    | some (n, .launched) => if n = t.taskid then s.setComp t .triggered else s
    | _ => s)

/-! ### Loss of a core's rail (R332) -/

/-- The entries that a core had sent and that were not yet receivable do not come. -/
def State.dropSent (s : State) (n : Nat) : State :=
  let d := dieOf n
  (s.die d).tqs.foldl (fun s p =>
    let t := 64 * d + p.1
    let q := s.tq t
    let gone := (q.sent.filter fun e => e.src = n).length
    let s := s.setTq t { q with sent := q.sent.filter (fun e => e.src ≠ n), busy := q.busy + gone }
    (List.range gone).foldl (fun s _ => s.tqFreed t) s) s

/-- The reads of copies that core `n` waits for do not come: entries that hold their places end no copy any more. -/
def State.dropReads (s : State) (n : Nat) : State :=
  { s with dies := s.dies.map fun d => (d.1, { d.2 with tqs := d.2.tqs.map fun q => (q.1, { q.2 with
      hold := q.2.hold.map fun e => if e.copy.any fun c => c.1 = n then { e with copy := none } else e }) }) }

/-- The rail of core `n` is down from this cycle on: its contexts, array, buffers and outstanding accesses are gone, requests that have
not left the package among them. What its negative holds of a record that was being written stands as it is. -/
def State.loseCore (s : State) (n : Nat) : State :=
  let s := (List.range 4).foldl (fun s k => s.withdraw n k) s
  let c := s.core n
  let outer := (c.copies.filter fun e => isOuter (regionOf e.src) || isOuter (regionOf e.dst)).map (·.task) ++
    (c.atoms.filter fun f => isOuter (regionOf f.addr)).map (·.task)
  let s := outer.foldl (fun s id => s.workDone id) ((s.dropSent n).dropReads n)
  let s : State := { s with wait := s.wait.filter fun o => o.key[1]? ≠ some n }
  s.modCore n fun c =>
    { Core.reset with holder := c.holder, neg := c.neg, up := c.up, gated := c.gated, gateCtx := c.gateCtx }

/-! ### Pre-emption (R109, R110, R330) -/

/-- The stop of a task at T' is requested; T' reaches the gang's cores in cycle `d`. -/
def State.askStop (s : State) (t : Task) (t' d : Nat) : State :=
  t.live.foldl (fun s p =>
    (s.sched d phCtx p.1 p.2 0 (.preemptStop p.1 p.2)).sched t' phCtx p.1 p.2 0 (.preemptStop p.1 p.2)) s

/-- A PREEMPT write (R109, R342, Table 17-8). A task that runs on towards an earlier request's T' is running still: the earlier of the
two T' stands (log 80). -/
def execPreemptWrite (s : State) : Host.Outcome State Fault Refusal :=
  let a := s.cw
  let part := bits a.val 27 24
  .next (if a.off ≠ 0x100 then s
  else if a.who < 16 ∧ part ≠ a.who then s.perr a.who 5 a.off
  else if s.negReady = false then s
  else match s.tasks.find? fun t => t.part = part && t.taskid = a.val % 2 ^ 24 && (t.st = .running || t.st = .saving) with
    | none => s
    | some t =>
      let d := s.cyc + 64
      let t' := max (s.reg (0x180 + 8 * part)) d
      if t.st = .saving && !(t.pre.any fun p => t' < p.1) then s
      else (s.modTask t.id fun t => { t with st := .saving, pre := some (t', d) }).askStop t t' d)

/-- The matrix state that a record keeps (R218, R330); the result queues only for a context that was Stopped. -/
def Arr.image (a : Arr) (stopped : Bool) : Arr :=
  let banks := a.banks.map fun b => (b.1, { b.2 with shd := Copy.reset, swapAt := none })
  { Arr.reset with
    banks := banks, tiles := a.tiles.filter (·.2.live), oq := if stopped then a.oq.filter (fun q => q.2 ≠ []) else [],
    tagrec := a.tagrec, lrec := a.lrec, k := a.k, ibase := a.ibase, lists := a.lists,
    tree := (a.treeNew.getLast?.map (·.2)).getD a.tree, conts := a.conts }

/-- The cycles that saving matrix state takes (R330). -/
def Arr.saveTime (a : Arr) : Nat := 328 + 2048 * a.tiles.length + 64 * a.oq.length

/-- Whether a context owns its core's array, or is to own it from its first bundle on after a resume (R218). -/
def Core.ownsArr (c : Core) (k : Nat) : Bool := c.arr.owner = some k || (c.arr.owner.isNone && (c.ctx k).q.owns)

/-- The first cycle in which the array has nothing on its way (R330): behind the last row, fill, gradient pass and drain. -/
def Arr.quietFrom (a : Arr) : Nat :=
  (a.passes.map Pass.lastLand ++ a.rows.map RowFl.due ++ a.fill.toList.map (fun f : Fill => f.iat + 260) ++
    a.drains.map fun d : Drain => d.fin).foldl (fun m t => max m (t + 1)) 0

/-- Save a context where it stands, with the array if it owns it: it is Stopped, and Free when the save completes. A restored context that
is stopped before its first bundle has its matrix state saved as one that owns the array (log 86). -/
def State.save (s : State) (n k kind : Nat) (stopped : Bool) : State :=
  let s := s.withdraw n k
  let x := s.ctx n k
  let mat := if (s.core n).ownsArr k then some ((s.core n).arr.image stopped) else none
  let m := mat.elim 0 Arr.saveTime
  let pay : Payload := { ctx := x.image s.cyc stopped, resume := x.q.pc, taskid := (s.task? x.q.task).elim 0 (·.taskid) }
  let r := s.shadow n k kind s.cyc m pay mat (1024 * m)
  let s := r.1.modSeq n k fun q => { q with st := .stopped, saving := some r.1.seqNo }
  s.sched r.2 phCtx n k 0 (.contextSaveComplete n k r.1.seqNo)

/-- A member of a stopping gang is out of the way. -/
def State.parkOne (s : State) (n : Nat) (t : Task) : State := s.modTask t.id fun t => { t with parked := t.parked ++ [n] }

/-- A gang context stops here (R109, R330): it is saved, or, for a recovery, its state is discarded (R334). A Stopped owner of the
array waits until the array is quiet. -/
def State.stopFor (s : State) (n k : Nat) (t : Task) : State :=
  let stopped := decide ((s.ctx n k).q.st = .stopped)
  let held := s.holds n k
  if t.st = .recovering then
    let s := (s.withdraw n k).modArr n fun a => if a.owner = some k then Arr.reset else a
    let s := (s.freeCtx n k).parkOne n t
    if held then s.switch n else s
  else if stopped ∧ (s.core n).arr.owner = some k ∧ s.cyc < (s.core n).arr.quietFrom then
    s.sched (s.core n).arr.quietFrom phCtx n k 0 (.preemptStop n k)
  else
    let s := s.save n k 2 stopped
    if held then s.switch n else s

/-- The stop of a gang context (R109): its request is delivered; at T' a context that is Blocked, Ready or Stopped stops where it
stands, a running one at its first slate from then on, where the issue of bundles calls this. One that becomes Stopped after T' and
before that slate is saved once a RESUME has brought it there (log 80). A context that lost its core, or whose core is gated, has
nothing to save. -/
def execPreemptStop (core ctx : Nat) (s : State) : Host.Outcome State Fault Refusal :=
  .next (match s.tasks.find? fun t => t.place.contains (core, ctx) && (t.st = .saving || t.st = .recovering) with
  | none => s
  | some t =>
    match t.pre with
    | none => s
    | some (t', d) =>
      let q := (s.ctx core ctx).q
      if t.halted.contains core || t.parked.contains core || decide (s.cyc < d) || q.saving.isSome && !(s.core core).gated then s
      else if q.task ≠ t.id ∨ q.st = .free ∨ (s.core core).gated then
        if s.cyc < t' then s
        else (s.modCore core fun c => { c with gateCtx := c.gateCtx.filter (· ≠ ctx) }).parkOne core t
      else
        let s := s.modSeq core ctx fun q => { q with preT := some t' }
        if s.cyc < t' then s
        else if q.st = .blocked ∨ q.st = .ready ∨ q.st = .stopped ∨ phIssue ≤ s.ph then s.stopFor core ctx t
        else s)

/-- A save completes (R330): the context is Free, with its array; after the last save of a gate the core's rail goes down
(R333). A core with a gate request whose last context a pre-emption has freed is gated then (R343). -/
def execContextSaveComplete (core ctx id : Nat) (s : State) : Host.Outcome State Fault Refusal :=
  let q := (s.ctx core ctx).q
  .next (if (s.core core).gated then
    if (s.core core).saves.any fun v => v.kind = 3 then s else s.loseCore core
  else if q.saving ≠ some id then s
  else
    let s := s.freeCtx core ctx
    let s := if (s.core core).gateReq && (s.core core).ctxs.all (fun x => x.2.q.st = .free) then
        s.sched s.cyc phSched 10 core 0 (.coreGate core) else s
    match s.task? q.task with
    | some t => s.parkOne core t
    | none => s)

/-- The greatest stop key (R328) of the valid records of a context for its task. -/
def Core.lastKey (c : Core) (k taskid : Nat) : Option (Nat × Nat) :=
  ((c.records k).filter fun p => c.valid p.2 && p.2.taskid = taskid).foldl (fun b p =>
    match b with
    | none => some (p.2.scn, p.2.srel)
    | some x => if x.1 < p.2.scn ∨ (x.1 = p.2.scn ∧ x.2 < p.2.srel) then some (p.2.scn, p.2.srel) else some x) none

/-- The lesser of two stop keys. -/
def keyMin (a b : Nat × Nat) : Nat × Nat := if a.1 < b.1 ∨ (a.1 = b.1 ∧ a.2 ≤ b.2) then a else b

/-- The stop key from which a gang can resume: the least of its contexts' greatest, if each context holds a valid record with it
(R334). -/
def State.gangKey (s : State) (t : Task) : Option (Nat × Nat) :=
  let ks := t.live.map fun p => (s.core p.1).lastKey p.2 t.taskid
  match ks.filterMap id with
  | [] => none
  | k :: r =>
    let m := r.foldl keyMin k
    if ks.all (·.isSome) && t.live.all fun p => (s.resumeRec { t with key := some m } p).isSome then some m else none

/-- A task whose live contexts have all been stopped returns to the head of its queue (R110), or to recovery (R334). -/
def State.parkTask (s : State) (t : Task) : State :=
  if t.live = [] ∨ t.live.any (fun p => !t.parked.contains p.1) then s
  else
    let q := s.queue t.q
    match t.st with
    | .saving =>
      (s.modTask t.id fun t => { t with st := .saved, pre := none }).setQueue t.q { q with back := t.id :: q.back, since := none }
    | .recovering =>
      match (if s.negReady then s.gangKey t else none) with
      | none => s.loseTask t
      | some k =>
        (s.modTask t.id fun t => { t with st := .lost, pre := none, key := some k }).setQueue t.q
          { q with back := t.id :: q.back, since := none }
    | _ => s

/-! ### The scheduler's part of a cycle (R101, R102) -/

/-- Stopped gangs return to their queues; queues whose heads hold an error stop; the others note the earliest cycle in which their
heads were launchable, which stands while they are not (R102, R104). -/
def State.lookQueues (s : State) : State :=
  let s := s.tasks.foldl (fun s t => s.parkTask t) s
  s.sq.foldl (fun s p =>
    match s.head p.2 with
    | .err c => s.setQueue p.1 (p.2.stop c)
    | .ready true => s.setQueue p.1 { p.2 with since := some (p.2.since.getD s.cyc) }
    | _ => s) s

/-- The queue that the scheduler selects: highest effective priority, then earliest launchable, then lowest number (R102). -/
def State.bestQueue (s : State) : Option (Nat × SQ) :=
  (s.sq.filter fun p => s.head p.2 = .ready true).foldl (fun b p =>
    match b with
    | none => some p
    | some x =>
      if x.2.eprio < p.2.eprio ∨ (x.2.eprio = p.2.eprio ∧ p.2.since.getD s.cyc < x.2.since.getD s.cyc) then some p else some x) none

/-- The row that the scheduler runs in this cycle, if any. -/
def State.selection (s : State) : Option Instr :=
  s.bestQueue.map fun p =>
    match p.2.back with
    | id :: _ => if (s.task? id).any fun t => t.st = .lost then .recoveryResume p.1 else .taskLaunch p.1
    | [] => .taskLaunch p.1

end Sys2Proof.Machine
end

