-- ==== Sys2Proof/Machine/Graph.lean ====
section
/-! DEFINITION. The command graphs (15_generation.md R284, R285) and the registers of the host rings (R286 to R288). -/

namespace Sys2Proof.Machine

/-! ### Nodes (Table 15-8) -/

def nodeKind (v : Nat) : Nat := bits v 3 0
def nodeAddr (v : Nat) : Nat := bits v 111 64

/-- An invalid node, but for a WAIT whose node has launched nothing (R285). -/
def nodeBad (v : Nat) : Bool :=
  3 < nodeKind v || bits v 63 4 ≠ 0 || bits v 127 112 ≠ 0 || bits v 191 136 ≠ 0 || bits v 511 352 ≠ 0
    || (nodeKind v = 3 && 1 < bits v 323 320)

/-- The graph stops with an error (Table 15-7). -/
def State.graphStop (s : State) (p err : Nat) : State :=
  let g := s.graph p
  s.setGraph p { g with st := 3, err := err, due := 0 }

/-- The graph goes on to a node, 641 cycles after this cycle, or falls through its last (R285). -/
def State.graphNext (s : State) (p node : Nat) : State :=
  let g := s.graph p
  if 4095 < node then s.graphStop p 5 else s.setGraph p { g with next := node, due := s.cyc + 641 }

/-- Whether a partition holds a range inside the package. -/
def State.graphReach (s : State) (p a n : Nat) : Bool := s.holdsRange p a n false && !isOuter (regionOf a)

/-- The node that partition `p` executes in this cycle. -/
def State.nodeDue (s : State) (p : Nat) : Option Nat :=
  let g := s.graph p
  if g.st = 1 ∧ g.due = s.cyc then some (s.load (g.base + 64 * g.next) 64) else none

/-- Execute the node that is due, if it is of a kind of this row: a node outside the partition or an invalid one stops the graph. -/
def State.runNode (s : State) (p : Nat) (kind : Nat → Bool) (f : State → Nat → State) : State :=
  match s.nodeDue p with
  | none => s
  | some v =>
    if !kind (nodeKind v) then s
    else
    let g := s.graph p
    let s := s.setGraph p { g with node := g.next }
    if !s.graphReach p ((s.graph p).base + 64 * (s.graph p).node) 64 then s.graphStop p 3
    else if nodeBad v then s.graphStop p 2
    else f s v

/-- The row of the node that a partition executes in this cycle. -/
def State.graphRow (s : State) (p : Nat) : Option Instr :=
  (s.nodeDue p).map fun v =>
    match nodeKind v with
    | 1 => .graphLaunch p
    | 2 => .graphWait p
    | 3 => .graphCond p
    | _ => .graphEnd p

/-! ### Rows -/

/-- A GNODE write (R284). -/
def execGnodeWrite (s : State) : Host.Outcome State Fault Refusal :=
  let a := s.cw
  .next (if inRange a.off 0x200 0x100 ∧ a.off % 16 = 0 then
    let p := (a.off - 0x200) / 16
    let g := s.graph p
    if g.st = 1 then s.setGraph p { g with err := 1 }
    else s.setGraph p { g with
      base := a.val / 64 * 64, st := 1, node := 0, err := 0, next := 0, due := s.cyc + 641, last := [], ended := [], taken := [] }
  else s)

/-- A LAUNCH node (R285): the template becomes the next task of its queue. Error 3, a queue of another partition, comes before error 4, a full
one (log 124). -/
def execGraphLaunch (part : Nat) (s : State) : Host.Outcome State Fault Refusal :=
  .next (s.runNode part (· = 1) fun s v =>
    let g := s.graph part
    let i := bits v 135 128
    let q := s.queue i
    if !s.graphReach part (nodeAddr v) 64 ∨ q.part ≠ part ∨ regionOf (q.place q.tail) = .unmapped then s.graphStop part 3
    else if 2 ^ q.size ≤ q.ahead q.tail then s.graphStop part 4
    else
      let d := setBits (s.load (nodeAddr v) 64) 87 64 g.gtid
      let d := (List.range 4).foldl (fun d j =>
        setBits d (151 + 32 * j) (128 + 32 * j) (g.gtid + 2 ^ 24 - descDep d j)) d
      let a := q.place q.tail
      let s := (s.store a 64 d).setPoison (granOf a) false
      let s := s.setGraph part { g with
        gtid := (g.gtid + 1) % 2 ^ 24, last := aset g.last g.node g.gtid, ended := g.ended.filter (· ≠ g.gtid) }
      (s.doorbell i ((q.tail + 1) % 2 ^ 32)).graphNext part (g.node + 1))

/-- A WAIT node (R285): it finishes in the cycle in which its task is complete. -/
def execGraphWait (part : Nat) (s : State) : Host.Outcome State Fault Refusal :=
  .next (s.runNode part (· = 2) fun s v =>
    let g := s.graph part
    match aget g.last (bits v 75 64) with
    | none => s.graphStop part 2
    | some tid =>
      if g.ended.contains tid then s.graphNext part (g.node + 1) else s.setGraph part { g with due := s.cyc + 1 })

/-- A COND node (R285). -/
def execGraphCond (part : Nat) (s : State) : Host.Outcome State Fault Refusal :=
  .next (s.runNode part (· = 3) fun s v =>
    let g := s.graph part
    if !s.graphReach part (nodeAddr v) 8 then s.graphStop part 3
    else
      let w := s.load (nodeAddr v) 8 &&& bits v 255 192
      let holds := if bits v 323 320 = 0 then w = bits v 319 256 else w ≠ bits v 319 256
      let n := agetD g.taken g.node 0
      let limit := bits v 351 336
      if holds ∧ (limit = 0 ∨ n < limit) then
        (s.setGraph part { g with taken := aset g.taken g.node (n + 1) }).graphNext part (bits v 335 324)
      else s.graphNext part (g.node + 1))

/-- An END node (R285); a node of no kind stops the graph here. -/
def execGraphEnd (part : Nat) (s : State) : Host.Outcome State Fault Refusal :=
  .next (s.runNode part (fun k => k = 0 || 3 < k) fun s v =>
    let g := s.graph part
    (s.post (bits v 74 64)).setGraph part { g with st := 2, due := 0 })

/-! ### Host ring registers (R286, R287) -/

/-- The contexts of partition `p` that are blocked on its host ring, in ascending core number, can try again in the next cycle. -/
def State.ringFreed (s : State) (p : Nat) : State :=
  s.cores.foldl (fun s c => c.2.ctxs.foldl (fun s x =>
    if x.2.q.block.any fun b => b.kind = .hring p then s.sched (s.cyc + 1) phQueue 3000 c.1 x.1 (.blockRelease c.1 x.1) else s) s) s

/-- The partition whose ring register at place `r` the access names. -/
def State.ringAt (s : State) (r : Nat) : Option Nat :=
  if inRange s.cw.off 0x400 0x400 ∧ s.cw.off % 64 = r then some ((s.cw.off - 0x400) / 64) else none

/-- An HRCFG write (R286): a write that sets EN clears HRTAIL and the position table; one that makes room lets blocked contexts try
again (R287). -/
def execHrcfgWrite (s : State) : Host.Outcome State Fault Refusal :=
  .next (match s.ringAt 8 with
  | none => s
  | some p =>
    let old := s.hring p
    let v := s.cw.val
    let en := v.testBit 4 && bits v 3 0 ≠ 0
    let fresh := en && !old.en
    let r := { old with
      size := bits v 3 0, en := en, vec := bits v 15 5, tail := if fresh then 0 else old.tail, pos := if fresh then [] else old.pos }
    let s := s.setHring p r
    if en then s.ringFreed p else s)

/-- An HRHEAD write (R287). -/
def execHrheadWrite (s : State) : Host.Outcome State Fault Refusal :=
  .next (match s.ringAt 0x18 with
  | none => s
  | some p =>
    let r := s.hring p
    (s.setHring p { r with head := s.cw.val % 2 ^ 32 }).ringFreed p)

end Sys2Proof.Machine
end

