-- ==== Sys2Proof/Machine/Partition.lean ====
section
/-! DEFINITION. Partitions and the registers of the control space (17_isolation.md R297 to R300, R305, R308, R315, R317; 08 R201, 20
R349): units are granted, zeroed and revoked, page tables are written, measurements extended and quoted. A row whose register the
access does not name has no effect. -/

namespace Sys2Proof.Machine

/-! ### Units and what uses them -/

/-- Physical base and size of a unit: core scratchpad, ring store, token queue (Table 12-2). -/
def unitRange (unit idx : Nat) : Nat × Nat :=
  match unit with
  | 0 => (spad idx, 0x400000)
  | 1 => (0x080100000000 + idx * 0x200000, 0x200000)
  | _ => (0x080200000000 + idx * 0x1000, 0x1000)

/-- The partitions that hold a unit. -/
def State.holders (s : State) (unit idx : Nat) : List Nat := (List.range 16).filter fun p => s.holdsUnit p unit idx

/-- Whether a unit may be granted (R298). -/
def State.grantOk (s : State) (unit idx : Nat) : Bool :=
  if unit = 2 then (s.holders unit idx).length < 2 else (s.holders unit idx).isEmpty

/-- Whether a unit may be revoked (R298): a task that has not completed may have saved state on each core of its gang, be it pre-empted,
gated or kept by PSAVE. -/
def State.revokeOk (s : State) (p unit idx : Nat) : Bool :=
  let r := unitRange unit idx
  (unit ≠ 0 || ((List.range 4).all fun k => (s.ctx idx k).q.st = .free) &&
    !(s.tasks.any fun t => t.part = p && t.live.any fun q => q.1 = idx)) &&
  !((s.partWins p).any fun w => overlap w.pbase w.size r.1 r.2)

/-! ### Zeroing (R299) -/

def zeroTime (unit : Nat) : Nat :=
  match unit with
  | 0 => 2048
  | 1 => 512
  | _ => 64

/-- A queue and its shadow hold nothing, and every count of it is 0 (Table 17-4). Entries on their way stay so, and what waits for the
queue goes on waiting; a read whose entry stood in the inbound hold is over with it (R238). -/
def State.clearTq (s : State) (t : Nat) : State :=
  let q := s.tq t
  let s := (s.setTq t { Tq.reset with sent := q.sent, recvs := q.recvs, sends := q.sends }).modCore t fun c =>
    { c with neg := { c.neg with qrecs := [], qents := [], qholds := [] } }
  q.hold.foldl (fun s e => match e.copy with
    | some c => s.copyLeft c.1 c.2
    | none => s) s

/-- A unit that has been granted begins to be zeroed in cycle `g`. The new holder of a queue finds nothing of the old one's from the grant
on (R296). -/
def State.beginZero (s : State) (unit idx g : Nat) : State :=
  let z : Zeroing := { unit := unit, idx := idx, from_ := g, till := g + zeroTime unit }
  let s : State := { s with zero := (s.zero.filter fun y => y.unit ≠ unit || y.idx ≠ idx) ++ [z] }
  let s := if unit = 2 then s.clearTq idx else s
  s.sched z.till 0 unit idx 0 (.zeroingEnd unit idx)

/-- A unit of a partition with a new tenant begins to be zeroed in this cycle (R300). Where a grant's zeroing of it is still to come, that
one stands, and the unit is out of use until its end (R299). -/
def State.rezero (s : State) (unit idx : Nat) : State :=
  match s.zero.find? fun z => z.unit = unit && z.idx = idx && decide (s.cyc < z.from_) with
  | some z => (s.beginZero unit idx z.from_).sched (s.cyc + zeroTime unit) 0 unit idx 0 (.zeroingEnd unit idx)
  | none => s.beginZero unit idx s.cyc

/-- The bytes from `a` on are 0, without tags or poison. -/
def State.clearMem (s : State) (a n : Nat) : State :=
  { s with
    mem := s.mem.filter fun c => c.1 < a || a + n ≤ c.1
    tags := s.tags.filter fun t => t.1 < a / 64 || (a + n) / 64 ≤ t.1
    pois := s.pois.filter fun g => g < a / 64 || (a + n) / 64 ≤ g
    rpois := s.rpois.filter fun g => g < a / 64 || (a + n) / 64 ≤ g }

/-- The contexts that are blocked on a queue try their bundles again. -/
def State.unblockTq (s : State) (t : Nat) : State :=
  s.cores.foldl (fun s c => c.2.ctxs.foldl (fun s x =>
    if x.2.q.block.any fun b => b.kind = .send t || b.kind = .recv t then
      let s := s.modSeq c.1 x.1 fun q => { q with block := none }
      if x.2.q.st = .blocked then s.wake c.1 x.1 else s
    else s) s) s

/-- A unit comes to hold the values of Table 17-4. What the core unit's share of the negative holds of contexts and of flushed granules
goes; the queue areas there belong to the queue unit of that number, whose shadow then records the empty queue. -/
def State.zeroUnit (s : State) (unit idx : Nat) : State :=
  let r := unitRange unit idx
  let s := s.clearMem r.1 r.2
  match unit with
  | 0 => s.modCore idx fun c =>
      { Core.reset with holder := c.holder, up := c.up, gated := c.gated, neg := { c.neg with recs := [], mat := none, mirror := [] } }
  | 1 => s
  | _ => s.clearTq idx

/-- Zeroing ends, and what waited for a queue tries again; an entry that was sent before and reaches the queue from now on joins it. The
end of a zeroing that a later one has followed (R299, R300) leaves the unit with the values of Table 17-4 and in the later one. -/
def execZeroingEnd (unit idx : Nat) (s : State) : Host.Outcome State Fault Refusal :=
  .next (if !s.zeroing unit idx then s
  else
    let t := s.zeroUnit unit idx
    if s.zero.any fun z => z.unit = unit && z.idx = idx && z.till = s.cyc then
      let t : State := { t with zero := s.zero.filter fun z => z.unit ≠ unit || z.idx ≠ idx }
      if unit = 2 then (t.setTq idx { t.tq idx with recvs := [], sends := [] }).unblockTq idx else t
    else t)

/-! ### Grants and revokes (R298) -/

/-- A write of a holdings register: partition, unit, the units it would grant and those it would revoke. -/
structure Holding where
  p : Nat
  unit : Nat
  more : List Nat
  less : List Nat
  deriving DecidableEq, Repr

/-- The write of the access, if it names a holdings register (Table 17-1). -/
def State.holding (s : State) : Option Holding :=
  let a := s.cw
  let r := a.off % 0x200
  if inRange a.off 0x8000 0x2000 ∧ inRange r 0x40 0xC0 then
    let old := s.reg a.off
    let idx (f : Nat → Bool) : List Nat := ((List.range 64).filter f).map fun k => 64 * (r % 0x40 / 8) + k
    some
      { p := (a.off - 0x8000) / 0x200, unit := (r - 0x40) / 0x40, more := idx fun k => a.val.testBit k && !old.testBit k,
        less := idx fun k => !a.val.testBit k && old.testBit k }
  else none

/-- The PERR code for which the whole write is discarded, if any. -/
def State.holdingErr (s : State) (h : Holding) : Option Nat :=
  if h.more.any fun i => !s.grantOk h.unit i then some 4
  else if h.less.any fun i => !s.revokeOk h.p h.unit i then some 1
  else none

/-- A write that grants units: each is zeroed, unless a holder remains (R298, R299). -/
def execPartitionGrant (s : State) : Host.Outcome State Fault Refusal :=
  .next (match s.holding with
  | none => s
  | some h =>
    match s.holdingErr h with
    | some e => s.perr h.p e s.cw.off
    | none =>
      let fresh := h.more.filter fun i => (s.holders h.unit i).isEmpty
      let s := s.setReg s.cw.off (s.reg s.cw.off ||| s.cw.val)
      fresh.foldl (fun s i =>
        s.beginZero h.unit i ((aget s.revoked (1024 * h.unit + i)).elim s.cyc fun r => max s.cyc (r + 4096))) s)

/-- A write that revokes units (R298). -/
def execPartitionRevoke (s : State) : Host.Outcome State Fault Refusal :=
  .next (match s.holding with
  | none => s
  | some h =>
    match s.holdingErr h with
    | some e => s.perr h.p e s.cw.off
    | none =>
      let s := s.setReg s.cw.off (s.reg s.cw.off &&& s.cw.val)
      { s with revoked := h.less.foldl (fun a i => aset a (1024 * h.unit + i) s.cyc) s.revoked })

/-- The bits of PCFG that are not reserved (Table 17-2). -/
def pcfgBits (v : Nat) : Nat := v % 2 + bits v 46 8 * 2 ^ 8

/-- What the old tenant of partition `p` has left in a core: its lazy stores to the units that `mine` names by their addresses, its copies,
atomics and requests, and its stores, those that are held too. None of it performs any more (R300, log 126). -/
def Core.disown (c : Core) (p : Nat) (mine : Nat → Bool) : Core :=
  { c with
    lazy := c.lazy.filter fun e => !mine (64 * e.gran)
    copies := c.copies.filter (·.part ≠ p)
    atoms := c.atoms.filter (·.part ≠ p)
    jobs := c.jobs.filter (·.part ≠ p)
    stores := c.stores.filter (·.part ≠ p) }

/-- Whether an address lies in a scratchpad or a ring store of partition `p`. -/
def State.ownUnit (s : State) (p a : Nat) : Bool :=
  match regionOf a with
  | .spad n => s.holdsUnit p 0 n
  | .ring j => s.holdsUnit p 1 j
  | _ => false

/-- A PCFG write; one that changes OWNER hands the partition to another tenant, who finds nothing of the old one (R300): a digest that
is half written, the barriers and the combine phases kept in the partition's name go with the rest, and so does what its cores still had
under way (log 126). -/
def State.pcfgWrite (s : State) (p v : Nat) : State :=
  let off := offPart p
  if bits v 23 8 = bits (s.reg off) 23 8 then s.setReg off (pcfgBits v)
  else if s.tasks.any fun t => t.part = p then s.perr p 3 off
  else
    let s := s.setReg off (pcfgBits v)
    let s := s.cores.foldl (fun s c => s.setCore c.1 (c.2.disown p (s.ownUnit p))) s
    let s := [0, 1, 2].foldl (fun s u => ((List.range 512).filter fun i => s.holdsUnit p u i).foldl (fun s i =>
      s.rezero u i) s) s
    let s := s.dies.foldl (fun s d => s.setDie d.1 { d.2 with
      slots := d.2.slots.filter (fun e => e.2.part ≠ p), pdir := d.2.pdir.filter (fun e => e.2.part ≠ p) }) s
    { s with
      comp := s.comp.filter fun c => c.1 / 4096 ≠ p
      graphs := adel s.graphs p
      rings := adel s.rings p
      sq := s.sq.map fun q => if q.2.part = p then (q.1, { SQ.reset with part := p }) else q
      meas := adel s.meas p
      ext := s.ext.filter fun e => e.1 / 4096 ≠ p
      bars := s.bars.filter fun b => b.1 / (8 * 1024 * 16) ≠ p
      combs := s.combs.filter fun c => c.1 / (16 * 2 ^ 32) ≠ p }

/-- A PCFG write that changes OWNER (R300). -/
def execOwnerChange (s : State) : Host.Outcome State Fault Refusal :=
  let a := s.cw
  .next (if inRange a.off 0x8000 0x2000 ∧ a.off % 0x200 = 0 then s.pcfgWrite ((a.off - 0x8000) / 0x200) a.val else s)

/-! ### Tables of the control space -/

/-- A write to the mirror area performs on every die, unless a window pins its entry (R306, R308). -/
def execMirrorWrite (s : State) : Host.Outcome State Fault Refusal :=
  .next (if inRange s.cw.off offMirror 0x100000 then s.mirror s.cw.off s.cw.val else s)

/-- A write of an expert slot, within the writer's rights (R201, Table 17-8). -/
def execExpertSlotWrite (s : State) : Host.Outcome State Fault Refusal :=
  let a := s.cw
  .next (if inRange a.off offSlot 0x4000 then
    let d := (a.off - offSlot) / 0x800
    let k := a.off % 0x800 / 8
    let e := agetD (s.die d).slots k Slot.reset
    if a.who < 16 ∧ e.part ≠ a.who ∧ ¬ (e.expert = 0xFFFFFFFF ∧ e.refs = 0) then s.perr a.who 5 a.off
    else s.modDie d fun x => { x with slots := aset x.slots k (Slot.ofBits a.val) }
  else s)

/-- A write of EXT (R315): the last word of a digest extends the measurement. The words of each writer, a context or the host, are kept
apart until then (R316). -/
def execExtWrite (s : State) : Host.Outcome State Fault Refusal :=
  let a := s.cw
  .next (if inRange a.off (offAtt + 0x500) 0x400 then
    let p := (a.off - offAtt - 0x500) / 64
    let j := a.off % 64 / 8
    let e := 4096 * p + (if a.who < 16 then a.src else 2048)
    let h := setWord (agetD s.ext e 0).toNat j a.val
    if j < 7 then { s with ext := aset s.ext e (BitVec.ofNat 512 h) }
    else
      let m := ofBytes (sha512 (bytesOf 64 (agetD s.meas p 0).toNat ++ bytesOf 64 h))
      { s with ext := adel s.ext e, meas := aset s.meas p (BitVec.ofNat 512 m) }
  else s)

/-! ### Quotes (R317) -/

/-- The message of a quote (Table 17-18). -/
def State.quoteMessage (s : State) (p : Nat) : Nat :=
  let nonce := (List.range 4).foldl (fun a j => a + s.reg (offAtt + 0x40 + 8 * j) * 2 ^ (64 * j)) 0
  nonce + Config.firmwareDigest.toNat * 2 ^ 256 + (agetD s.meas p 0).toNat * 2 ^ 768 + bits (s.pcfg p) 23 8 * 2 ^ 1280 + p * 2 ^ 1296

/-- A QREQ write starts a quote, unless one runs; the signature comes within 2^20 cycles, after a free number of them. -/
def execQreqWrite (s : State) : Host.Outcome State Fault Refusal :=
  let a := s.cw
  .next (if a.off ≠ offAtt + 0x60 ∨ s.quote.isSome then s
  else
    let p := a.val % 16
    let sig := quoteSignature (BitVec.ofNat 2048 (s.quoteMessage p))
    let s := (s.setReg (offAtt + 0x60) p).setReg (offAtt + 0xC0) 1
    let s : State := { s with quote := some sig, free := s.free + 1 }
    s.sched (s.cyc + 1 + (Config.freeValue s.free).toNat % 2 ^ 20) phSched 8 0 0 .quoteComplete)

/-- The signature of the quote under way appears in QSIG. -/
def execQuoteComplete (s : State) : Host.Outcome State Fault Refusal :=
  .next (match s.quote with
  | none => s
  | some sig =>
    let s : State := { s with quote := none }
    ((List.range 8).foldl (fun s j => s.setReg (offAtt + 0x80 + 8 * j) (word64 sig.toNat j)) s).setReg (offAtt + 0xC0) 0)

/-! ### Other registers -/

/-- A PKGNUM write (R349): discarded while a partition is enabled. -/
def execPkgnumWrite (s : State) : Host.Outcome State Fault Refusal :=
  .next (if s.cw.off ≠ offMgmt ∨ (List.range 16).any fun p => (s.pcfg p).testBit 0 then s
  else s.setReg offMgmt (s.cw.val % 2 ^ 20))

/-- A QRST write clears the bits it writes as 1 (R349). -/
def execQrstClear (s : State) : Host.Outcome State Fault Refusal :=
  let a := s.cw
  .next (if inRange a.off (offMgmt + 0x80) 0x40 then s.setReg a.off (s.reg a.off &&& (2 ^ 64 - 1 - a.val)) else s)

/-- A write of a partition register other than the holdings (Table 17-1, R298, R300, R354); only the host writes them. -/
def State.partWrite (s : State) (p r v : Nat) : State :=
  let off := offPart p + r
  let page := bits v 47 16 * 2 ^ 16
  if r = 0 then s.pcfgWrite p v
  else if inRange r 0x100 0x40 then
    let t := s.setReg off page
    if (s.partWins p).any fun w => (match regionOf w.pbase with
      | .hbm _ | .lpddr | .host | .pod => true
      | _ => false) && !t.inRanges p w.size 4 w.pbase then s.perr p 1 off
    else t
  else if r = 0x140 then s.setReg off (v % 2 ^ 24 / 16 * 16 + bits v 41 32 * 2 ^ 32)
  else if r = 0x148 then s.setReg off (v % 2 ^ 24 / 8 * 8 + bits v 40 32 * 2 ^ 32)
  else if r = 0x150 then s.setReg off (v / 32 * 32)
  else if r = 0x158 then s.setReg off (v % 8 + bits v 47 26 * 2 ^ 26)
  else if r = 0x160 ∨ r = 0x168 then s.setReg off page
  else if r = 0x1F8 then s.setReg off (v % 2 ^ 28)
  else s

/-- A queue register other than QCFG and QTAIL (R108). -/
def State.queueWrite (s : State) (i r v : Nat) : State :=
  let q := s.queue i
  if r = 8 ∨ inRange r 0x40 0x40 then
    if q.en then s.setQueue i (q.stop 5)
    else if r = 8 then s.setQueue i { q with base := v / 64 * 64 }
    else s.setQueue i { q with mask := BitVec.ofNat 512 (setWord q.mask.toNat ((r - 0x40) / 8) v) }
  else s

/-- A write of a page-directory entry, within the writer's rights (R279, Table 17-8). -/
def State.pdirWrite (s : State) (who off v : Nat) : State :=
  let d := (off - offPdir) / 0x20000
  let k := off % 0x20000 / 32
  let e := agetD (s.die d).pdir k PEnt.reset
  if who < 16 ∧ e.part ≠ who ∧ e.valid then s.perr who 5 off
  else s.modDie d fun x => { x with pdir := aset x.pdir k (PEnt.ofBits (setWord e.code (off % 32 / 8) v)) }

/-- The power controller looks at the temperatures (R350): when one has reached TRIP, every compute rail goes down behind the next
cycle. -/
def State.trip (s : State) : State :=
  let temp (d : Nat) : Nat := s.reg (offMgmt + 0x20 + 8 * d)
  match (List.range 8).find? fun d => decide (sint 16 (s.reg (offMgmt + 0x60)) ≤ sint 16 (temp d)) with
  | none => s
  | some d =>
    if s.cal.any fun e => match e.ev with | .supplyFailure true _ 2 => true | _ => false then s
    else
      let s := s.setReg (offMgmt + 0x68) (2 * 2 ^ 48 + 2 * 2 ^ 50 + d * 2 ^ 52)
      (List.range 8).foldl (fun s d => s.sched (s.cyc + 2) 0 0 d 0 (.supplyFailure true d 2)) s

/-- The ring that a loader's write declares: class, first register, length (R37, log 20). -/
def ringOf (v : Nat) : Ring :=
  { cls := if v % 4 = 0 then .s else .v, base := bits v 9 2, len := bits v 14 10 }

/-- The loader declares a register ring for the LOOP at a place (R37, log 20): `off` is the place, a value of 0 ends what stood
there. -/
def State.ringWrite (s : State) (off v : Nat) : State :=
  { s with rot := if v = 0 then adel s.rot off else aset s.rot off (agetD s.rot off [] ++ [ringOf v]) }

/-- The host reads a control register: bytes of its 8-byte word. What the manual states no value for is free (log 6). -/
def State.hostRead (s : State) : State :=
  let a := s.cw
  match s.ctlRead 16 (a.off / 8 * 8) with
  | some v => { s with readVal := v / 2 ^ (8 * (a.off % 8)) % 2 ^ (8 * a.len) }
  | none => { s with readVal := (Config.freeValue s.free).toNat % 2 ^ (8 * a.len), free := s.free + 1 }

/-- A write to a control register that has no row of its own (R305), and the host's reads through its control BAR (R352). Writes to
read-only registers, and to offsets that no table lists, are discarded. Writer 17 is the package's own measurement of PWR and TEMP, 18
the loader, which declares register rings. -/
def execControlRegisterWrite (s : State) : Host.Outcome State Fault Refusal :=
  let a := s.cw
  let off := a.off
  let v := a.val % 2 ^ 64
  .next (if a.who = 18 then s.ringWrite off v
  else if a.who = 17 then
    (if off = offMgmt + 8 then s.setReg off (v % 2 ^ 16)
    else if inRange off (offMgmt + 0x20) 0x40 then (s.setReg off (v % 2 ^ 16)).trip
    else s)
  else if a.dbgBad then s.dbgDiscard
  else if !a.wr then s.hostRead
  else if inRange off 0x180 0x80 then
    (if a.who < 16 ∧ (off - 0x180) / 8 ≠ a.who then s.perr a.who 5 off else s.setReg off v)
  else if inRange off 0x200 0x100 ∧ off % 16 = 8 then
    let p := (off - 0x200) / 16
    let g := s.graph p
    s.setGraph p (if g.st = 1 then { g with err := 1 } else { g with gtid := v % 2 ^ 24 })
  else if inRange off 0x400 0x400 ∧ off % 64 = 0 then
    let p := (off - 0x400) / 64
    let r := s.hring p
    s.setHring p { r with base := v / 32 * 32 }
  else if inRange off 0x8000 0x2000 then s.partWrite ((off - 0x8000) / 0x200) (off % 0x200) v
  else if off = offMgmt + 0x10 then s.setReg off (v % 2 ^ 16)
  else if off = offMgmt + 0x60 then (s.setReg off (v % 2 ^ 16)).trip
  else if off = offMgmt + 0x18 then s.setReg off (v % 2 ^ 32)
  else if off = offMgmt + 0x70 then s.setReg off (v % 2 ^ 61)
  else if inRange off 0x10000 0x10000 then s.queueWrite ((off - 0x10000) / 256) (off % 256) v
  else if inRange off (offAtt + 0x40) 0x20 ∧ a.who = 16 then s.setReg off v
  else if off = offDbg then (if v % 2 ^ 10 < 512 then s.setReg off (v % 2 ^ 12) else s)
  else if off = offDbg + 0x18 then s.setReg off (bits v 21 16 * 2 ^ 16)
  else if inRange off offPdir 0x100000 then s.pdirWrite a.who off v
  else if inRange off 0xF00000 0x100000 then s.setReg off v
  else s)

end Sys2Proof.Machine
end

