-- ==== Sys2Proof/Machine/Debug.lean ====
section
/-! DEFINITION. The debugger (18_recovery.md R325, 20_package.md R360), the end of a task by TKILL (R326) and poisoned arrivals (R341).
A row whose register the access does not name has no effect. -/

namespace Sys2Proof.Machine

/-! ### Attaching, stopping, resuming -/

/-- A DBGCTL write sets or clears ATTACH, and sets CORE and CTX; RESUME and the reserved bits read 0 (Table 18-5). -/
def execDebugAttach (s : State) : Host.Outcome State Fault Refusal :=
  let v := s.cw.val
  .next (if inRange s.cw.off 0xB000 0x80 then s.setReg s.cw.off (v % 2 + bits v 19 8 * 2 ^ 8) else s)

/-- A DBGCTL write with RESUME makes the named Stopped context Ready (R325); its first bundle counts as slip (R76), and its stop record,
which lasts while it is Stopped (R360), is zero again (log 98). One whose save by a pre-emption or a gate is under way takes no RESUME
(log 116). -/
def execDebugResume (s : State) : Host.Outcome State Fault Refusal :=
  let a := s.cw
  .next (if inRange a.off 0xB000 0x80 ∧ a.val.testBit 1 then
    let n := bits a.val 17 8
    let k := bits a.val 19 18
    let q := (s.ctx n k).q
    let p := (a.off - 0xB000) / 8
    if q.st = .stopped ∧ q.part = p ∧ s.attached p ∧ q.saving.isNone then
      (s.modCtx n k fun x => { x with q := { x.q with slip := true, parked := false }, tr := x.tr.noStop }).makeReady n k
    else s
  else s)

/-- A DBGSTOP write requests a debugger stop of the selected context (R360). -/
def execDbgstopWrite (s : State) : Host.Outcome State Fault Refusal :=
  let a := s.cw
  let q := s.dbgX.q
  .next (if a.dbgBad then s.dbgDiscard
  else if a.off = offDbg + 0x10 ∧ a.val.testBit 0 ∧ q.st ≠ .free ∧ s.attached q.part then
    s.modSeq s.dbgCore s.dbgCtx fun q => { q with dbg := true }
  else s)

/-- A context with a debugger stop pending stops at its slate, where the issue of bundles calls this; its stop record is written
(R360). -/
def execDebugStop (core ctx : Nat) (s : State) : Host.Outcome State Fault Refusal :=
  let q := (s.ctx core ctx).q
  .next (if q.st = .holder ∧ q.dbg ∧ s.attached q.part ∧ phIssue ≤ s.ph then
    let s := s.modSeq core ctx fun q => { q with dbg := false }
    let cause : Word := BitVec.ofNat 64 (0x0E + 2 * 2 ^ 8 + q.sup.toNat * 2 ^ 24)
    s.stopHere core ctx cause q.pc 0 0
  else s)

/-! ### The window (R360, Tables 20-7 and 18-8) -/

/-- The bits of a cause and of a bundle address that are not reserved (Tables 18-3, 18-4). -/
def causeBits (v : Word) : Word := v &&& 0x0777FFFF
def pcBits (v : Word) : Word := v &&& ~~~0x1F

/-- Write word `i` of the trap CSRs and the stop record; reserved bits stay 0 (R6). -/
def TrapRegs.setWord (t : TrapRegs) (i : Nat) (v : Word) : TrapRegs :=
  match i with
  | 0 => { t with tcause := causeBits v }
  | 1 => { t with tpc := pcBits v }
  | 2 => { t with tfpc := pcBits v }
  | 3 => { t with tinfo0 := v }
  | 4 => { t with tinfo1 := v }
  | 5 => { t with tscr0 := v }
  | 6 => { t with tscr1 := v }
  | 7 => { t with tscr2 := v }
  | 8 => { t with tscr3 := v }
  | 9 => { t with stopCause := causeBits v }
  | 10 => { t with stopPc := pcBits v }
  | 11 => { t with stopFpc := pcBits v }
  | 12 => { t with stopInfo0 := v }
  | _ => { t with stopInfo1 := v }

/-- Write field `i` of the sequencer area of the image. -/
def Ctx.setImageField (x : Ctx) (i v : Nat) : Ctx :=
  match i with
  | 0 => { x with g := (List.range 15).foldl (fun a j => aset a (j + 1) ⟨v.testBit (j + 1), none⟩) x.g }
  | 1 => { x with q := { x.q with
      pc := v / 32 * 32, npc := v / 32 * 32, away := if x.q.away = some x.q.pc then some (v / 32 * 32) else x.q.away } }
  | 2 => { x with q := { x.q with sup := v.testBit 0 } }
  | 3 => { x with ar := { x.ar with c4 := v.testBit 0 } }
  | 4 => { x with ar := { x.ar with srkey := BitVec.ofNat 64 v } }
  | 5 => { x with ar := { x.ar with srctr := BitVec.ofNat 48 v } }
  | 6 => { x with ar := x.ar.setAstat (BitVec.ofNat 64 v) }
  | 7 => { x with q := { x.q with lastrel := ((x.q.base : Int) - sint 64 v).toNat } }
  | 8 => { x with q := { x.q with scn := v } }
  | _ => { x with q := { x.q with span := v } }

/-- A write of a word where the levels stand gives the image other levels; the bodies stay (log 98). -/
def Ctx.setLevels (x : Ctx) (o v : Nat) : Ctx :=
  let f (i : Nat) : List Loop := (Config.imageLevels o v x.levels i).map Loop.ofContents
  { x with q := { x.q with loops := f 0, aside := x.q.aside.mapIdx fun i a => { a with loops := f (i + 1) } } }

/-- A write of a word where the deferred traps and the pending faults stand gives the image other ones; every one has a true cube
(Table 18-8, log 98). -/
def Ctx.setTraps (x : Ctx) (o v : Nat) : Ctx :=
  let f (i : Nat) : List Trap := (Config.imageTraps o v x.traps i).map Trap.ofContents
  { x with
    defer := x.defer.filter (·.trap.isNone) ++ (f 0).map fun t => { cube := Cube.tt, ev := 0, trap := some t, due := true, kept := false },
    pendF := f 1 }

/-- Write the 8-byte word at offset `o` of the image; only the port, handle and window areas discard it (R360). The word of a scalar
register is the whole of it and clears its poison (R338). -/
def Ctx.setImageWord (x : Ctx) (o v : Nat) : Ctx :=
  let part (c : RCls) (r j : Nat) : Ctx := x.setTakes c r (oneTake (BitVec.ofNat 2048 (setWord (x.regVal c r) j v)))
  if o < 0x200 then (part .s (o / 8) 0).cure .s (o / 8) Cube.tt
  else if o < 0x400 then part .m ((o - 0x200) / 64) (o % 64 / 8)
  else if o < 0x800 then (match fieldAt o with
    | some i => x.setImageField i v
    | none => x.setLevels o v)
  else if o < 0x1800 then x
  else if inRange o 0x1800 0x70 then { x with tr := x.tr.setWord ((o - 0x1800) / 8) (BitVec.ofNat 64 v) }
  else if o < 0x2000 then x.setTraps o v
  else part .v ((o - 0x2000) / 256) (o % 256 / 8)

/-- The host writes a Stopped context's image. -/
def execDebugImageWrite (s : State) : Host.Outcome State Fault Refusal :=
  let a := s.cw
  .next (if inRange a.off (offDbg + 0x2000) 0xA000 then
    if a.dbgBad then s.dbgDiscard
    else if !a.wr then s.hostRead
    else if s.imageOk then s.modCtx s.dbgCore s.dbgCtx fun x => x.setImageWord (a.off - offDbg - 0x2000) (a.val % 2 ^ 64)
    else s
  else s)

/-- The host reads or writes the selected core's scratchpad through the aperture. -/
def execDebugApertureAccess (s : State) : Host.Outcome State Fault Refusal :=
  let a := s.cw
  .next (if inRange a.off (offDbg + 0x10000) 0x10000 then
    if a.dbgBad then s.dbgDiscard
    else
      let pa := s.apertureAddr (a.off - offDbg - 0x10000)
      if a.wr then (if s.apertureOk then s.store pa 8 (a.val % 2 ^ 64) else s)
      else { s with readVal := if s.apertureOk then s.load pa 8 else 0 }
  else s)

/-! ### TKILL (R326) -/

/-- A context of a killed task is Free: nothing it has not yet done happens; rows of its array that have entered land. -/
def State.killCtx (s : State) (n k : Nat) : State :=
  let held := s.holds n k
  let s := ((s.withdraw n k).modArr n fun a =>
    if a.owner = some k then { a with passes := [], fill := none, drains := [] } else a).leaveArr n k
  let s := s.setCtx n k Ctx.reset
  if held then s.switch n else s

/-- A TKILL write ends a task. -/
def execTkill (s : State) : Host.Outcome State Fault Refusal :=
  let a := s.cw
  .next (if inRange a.off 0xB100 0x80 then
    let p := (a.off - 0xB100) / 8
    match s.tasks.find? fun t => t.part = p && t.taskid = a.val % 2 ^ 24 && t.st ≠ .killed with
    | none => s
    | some t =>
      let s := t.place.foldl (fun s c =>
        let s := s.modCore c.1 fun x => { x with gateCtx := x.gateCtx.filter (· ≠ c.2) }
        if (s.ctx c.1 c.2).q.task = t.id then s.killCtx c.1 c.2 else s) s
      let q := s.queue t.q
      let s := s.setQueue t.q { q with back := q.back.filter (· ≠ t.id) }
      let s : State := { s with banks := s.banks.filter (·.2 ≠ t.id) }
      (s.modTask t.id fun t => { t with st := .killed, pre := none }).sched (s.cyc + 1) phSched 0 0 t.id (.taskComplete t.id)
  else s)

/-! ### Poisoned arrivals (R341) -/

/-- The partition whose POISONARR the access names. -/
def State.poisonarr (s : State) : Option Nat := if inRange s.cw.off 0xB080 0x80 then some ((s.cw.off - 0xB080) / 8) else none

/-- Whether a partition holds a core of a scope instance. -/
def State.holdsScope (s : State) (p sc inst : Nat) : Bool :=
  match sc with
  | 1 => s.holdsCore p inst && inst < 512
  | 2 => 0 < s.coresIn p (4 * inst) 4 && inst < 128
  | 3 => 0 < s.coresIn p (64 * inst) 64 && inst < 8
  | 4 => 0 < s.coresIn p 0 512 && inst = 0
  | _ => false

/-- A POISONARR write makes one poisoned arrival at a barrier. -/
def execPoisonarrBar (s : State) : Host.Outcome State Fault Refusal :=
  .next (match s.poisonarr with
  | none => s
  | some p =>
    let v := s.cw.val
    let sc := v % 8
    let inst := bits v 12 4
    let num := bits v 16 13
    let b := agetD s.bars (barKey p sc inst num) Barrier.reset
    if s.holdsScope p sc inst ∧ b.isOpen then s.barClose p sc inst num { b with pois := b.pois + 1 }
    else s.perr p 5 s.cw.off)

/-- A POISONARR write makes one poisoned arrival at a combine phase; its W is a free value (log 6). -/
def execPoisonarrCombine (s : State) : Host.Outcome State Fault Refusal :=
  .next (match s.poisonarr with
  | none => s
  | some p =>
    let v := s.cw.val
    let grp := bits v 16 13
    let i := bits v 19 17
    match aget s.combs (combKey p grp (bits v 63 32)) with
    | none => s.perr p 5 s.cw.off
    | some c =>
      if c.closed.isSome ∨ c.arrs.any fun a => !a.late && a.index = i then s.perr p 5 s.cw.off
      else
        let a : CArr :=
          { who := 2048, index := i, rows := [], w := (Config.freeValue s.free).setWidth 32, drop := false, rn := false, off := 0,
            late := false, poison := true, bad := false }
        ({ s with free := s.free + 1 } : State).combClose p grp { c with arrs := c.arrs ++ [a] })

end Sys2Proof.Machine
end

