-- ==== Sys2Proof/Machine/Power.lean ====
section
/-! DEFINITION. Power (18_recovery.md R332 to R335, 20_package.md R349 to R351): rails fail and return, cores are gated, the package is
reset and comes into full service (R342, R356). -/

namespace Sys2Proof.Machine

/-! ### Loss of a rail -/

/-- The granules of a die's ring stores are poisoned, as a restore finds them (R335). -/
def State.poisonRange (s : State) (lo n : Nat) : State :=
  let put (l : List Nat) : List Nat := l.filter (· < lo) ++ (List.range n).map (lo + ·) ++ l.filter (lo + n ≤ ·)
  { s with pois := put s.pois, rpois := put s.rpois }

/-- The rail of die `d` is down from this cycle on: its cores, scratchpads, ring stores and token queues are gone (R332). What the
shadows of the queues hold remains, and which packages have sent to them (R355). -/
def State.loseDie (s : State) (d : Nat) : State :=
  let s := (s.cores.filter fun c => dieOf c.1 = d).foldl (fun s c => s.loseCore c.1) s
  let s := (s.clearMem (spad (64 * d)) 0x10000000).clearMem (0x080100000000 + d * 0x8000000) 0x8000000
  let s := s.poisonRange (granOf (0x080100000000 + d * 0x8000000)) 0x200000
  s.modDie d fun x => { x with
    up := false, dark := true, flits := [],
    tqs := x.tqs.map fun q => (q.1, { Tq.reset with srcs := q.2.srcs }) }

/-- A loss of the package's supply undoes every post of a host ring that had not persisted (R287). -/
def HRing.undo (r : HRing) (b : Nat) : HRing :=
  let gone := r.posts.filter fun x => b < x.due
  { r with
    tail := (r.tail + 2 ^ 32 - gone.length) % 2 ^ 32, posts := r.posts.filter (fun x => x.due ≤ b),
    pos := gone.foldl (fun a x => aset a x.seqid (agetD a x.seqid 0 - 1)) r.pos }

/-- A rail loses power at the end of a cycle (R332): of a core, of a die, or (die 8) the supply of the whole package. In the last
powered cycle this puts the loss before the next one. It is reported 20 cycles after that cycle (R350). -/
def execSupplyFailure (dieRail : Bool) (place cause : Nat) (s : State) : Host.Outcome State Fault Refusal :=
  .next (if s.ph ≠ 0 then s.sched (s.cyc + 1) 0 0 place 0 (.supplyFailure dieRail place cause)
  else
    let s := if !dieRail then (s.loseCore place).modCore place fun c => { c with up := false }
      else if place < 8 then s.loseDie place
      else
        let s : State := { s with rings := s.rings.map fun r => (r.1, r.2.undo (s.cyc - 1)) }
        (List.range 8).foldl (fun s d => s.loseDie d) s
    s.sched (s.cyc + 19) phSched 9 place 0 (.lossReport dieRail place cause))

/-- Whether a core lies on a rail. -/
def onRail (dieRail : Bool) (place n : Nat) : Bool := if !dieRail then n = place else dieOf n = place || 8 ≤ place

/-- The power controller reports a loss (R350), and the scheduler stops each task that had a context on a lost core (R334); one that is
stopped for a recovery already has one more die to recover from (R335). -/
def execLossReport (dieRail : Bool) (place cause : Nat) (s : State) : Host.Outcome State Fault Refusal :=
  let reg := offMgmt + 0x68
  let at_ := if cause = 2 then bits (s.reg reg) 61 52 else place
  let s := s.setReg reg (s.cyc % 2 ^ 48 + (if dieRail then 2 else 1) * 2 ^ 48 + cause % 4 * 2 ^ 50 + at_ % 2 ^ 10 * 2 ^ 52)
  let dark := if !dieRail then [] else if place < 8 then [place] else List.range 8
  let hit := s.tasks.filter fun t =>
    (t.st = .running || t.st = .saving || t.st = .recovering || t.st = .lost) && t.live.any fun p => onRail dieRail place p.1
  .next (hit.foldl (fun s t =>
    if t.st = .recovering ∨ t.st = .lost then s.modTask t.id fun t => { t with dark := t.dark ++ dark }
    else
      let d := s.cyc + 64
      let s := s.modTask t.id fun t => { t with st := .recovering, pre := some (d, d), parked := [], dark := dark }
      t.live.foldl (fun s p => s.sched d phCtx p.1 p.2 0 (.preemptStop p.1 p.2)) s) s)

/-- A rail has power again. -/
def State.powerUp (s : State) (kind place : Nat) : State :=
  match kind with
  | 0 => (List.range 8).foldl (fun s d => s.modDie d fun x => { x with up := true }) s
  | 1 => s.modCore place fun c => { c with up := true }
  | _ => s.modDie place fun x => { x with up := true }

/-- Power returns to the package (kind 0), a core's rail (1) or a die's (2), numbered as PWRLOSS.KIND. -/
def execPowerRestored (kind place : Nat) (s : State) : Host.Outcome State Fault Refusal := .next (s.powerUp kind place)

/-- The hottest sensor of a die reads `temp`; at the trip temperature every compute rail goes down (R350). -/
def execThermalTrip (die temp : Nat) (s : State) : Host.Outcome State Fault Refusal :=
  .next (if die < 8 then (s.setReg (offMgmt + 0x20 + 8 * die) (temp % 2 ^ 16)).trip else s)

/-! ### The test hook (R351) -/

/-- A SUPTEST write that arms a failure after cycle B. -/
def execSuptestArm (s : State) : Host.Outcome State Fault Refusal :=
  let a := s.cw
  .next (if a.off = offMgmt + 0x70 ∧ a.val.testBit 48 then
    let b := a.val % 2 ^ 48
    let die := a.val.testBit 49
    let n := bits a.val 60 51
    match if n < 512 then s.partOf n else none with
    | none => s
    | some p =>
      let others := die && (List.range 16).any fun q => q ≠ p && 0 < s.coresIn q (64 * dieOf n) 64
      if !s.attached p || others || decide (b < s.cyc) then s
      else (s.setReg a.off (a.val % 2 ^ 61)).sched (b + 1) 0 0 0 0 (.supplyFailure die (if die then dieOf n else n) 1)
  else s)

/-- A SUPTEST write that powers the rail it names again. -/
def execSuptestRestore (s : State) : Host.Outcome State Fault Refusal :=
  let a := s.cw
  .next (if a.off = offMgmt + 0x70 ∧ a.val.testBit 50 then
    let n := bits a.val 60 51
    let s := s.setReg a.off (a.val % 2 ^ 61)
    if 512 ≤ n then s else if a.val.testBit 49 then s.powerUp 2 (dieOf n) else s.powerUp 1 n
  else s)

/-! ### Gating (R333, R349) -/

/-- The first cycle in which the array of a core lets its contexts be saved: one that a Stopped context owns must be quiet (R330). -/
def Core.arrSaves (c : Core) : Nat :=
  if c.ctxs.any fun x => x.2.q.st = .stopped && c.arr.owner = some x.1 then c.arr.quietFrom else 0

/-- Whether a core whose gating is asked for, and still allowed on its die (R349), may be gated where it stands: its holder at a slate, every
other context Free, Blocked, Ready or Stopped (R333); or every context Free (R343). -/
def State.canGate (s : State) (n : Nat) : Bool :=
  let c := s.core n
  let q := (c.ctx c.holder).q
  c.up && !c.gated && s.negReady && c.gateReq && (s.reg (offMgmt + 0x18)).testBit (dieOf n) && c.ctxs.all (fun x => x.2.q.saving.isNone) &&
    (c.ctxs.all (fun x => x.2.q.st = .free) ||
      (c.switchTo.isNone && decide (c.arrSaves ≤ s.cyc) &&
        (q.st == .blocked || (q.st == .holder && phIssue ≤ s.ph && s.ph < phOut))))

/-- The power controller asks to gate an idle core (R349); a core whose holder is blocked stands at a slate. -/
def execGateRequest (core : Nat) (s : State) : Host.Outcome State Fault Refusal :=
  .next (if (s.reg (offMgmt + 0x18)).testBit (dieOf core) ∧ (s.core core).up ∧ !(s.core core).gated then
    let s := s.modCore core fun c => { c with gateReq := true }
    s.sched (max s.cyc (s.core core).arrSaves) phSched 10 core 0 (.coreGate core)
  else s)

/-- A core is gated: its contexts are saved one after another, and its rail goes down after the last header (R333), or at once if all
are Free. -/
def execCoreGate (core : Nat) (s : State) : Host.Outcome State Fault Refusal :=
  .next (if !s.canGate core then s
  else
    let ks := (List.range 4).filter fun k => (s.ctx core k).q.st ≠ .free
    let s := ks.foldl (fun s k => s.save core k 3 (decide ((s.ctx core k).q.st = .stopped))) s
    let s := s.modCore core fun c => { c with gated := true, gateReq := false, gateCtx := ks }
    if ks = [] then s.loseCore core else s)

/-- A gated core is powered again: its contexts are restored at the privilege they had, Ready, and the holder issues first (R333). -/
def execCoreUngate (core : Nat) (s : State) : Host.Outcome State Fault Refusal :=
  let c := s.core core
  .next (if !c.gated || c.saves.any fun v => v.kind = 3 then s
  else
    let h := c.holder
    let ks := (c.gateCtx.filter (· = h)) ++ c.gateCtx.filter (· ≠ h)
    let recs := ks.filterMap fun k =>
      (s.tasks.find? fun t => t.live.contains (core, k)).bind fun t =>
        (c.newest k t.taskid fun r => r.kind = 3).map fun r => (k, t, r)
    let x := s.cyc + (recs.map fun r => r.2.2.mlen / 1024 + 48).foldl (· + ·) 0
    let s := s.modCore core fun c => { c with gated := false, gateCtx := [], idleAt := s.cyc }
    recs.foldl (fun s r =>
      let t : Task := { r.2.1 with key := none }
      let itb := (s.itb t.part (kdIpva t.kdesc.toNat) (kdNipg t.kdesc.toNat + 1)).getD []
      let sup := r.2.2.pay.elim false fun v => v.ctx.q.sup
      (s.restoreCtx t itb x sup (core, r.1) r.2.2).modSeq core r.1 fun q => { q with slip := true }) s)

/-! ### Reset and service (R342, R356) -/

/-- The dies that come into service at bring-up: those of the first `n` that train (R356). -/
def trained (n : Nat) : Nat := (List.range n).foldl (fun a d => a + (if Config.dieTrains d then 2 ^ d else 0)) 0

/-- Whether the check of the boot firmware passes (Table 20-5): a free value, since the flash is outside the package (log 101). -/
def State.bootOk (s : State) : Bool := (Config.freeValue s.free).toNat % 2 = 0

/-- A package reset (Table 20-5). If the check of the boot firmware fails, the package stays in reset. Otherwise it runs to the step at
which the clock starts: CYC is 0 and the first two dies are in service. The negative keeps what it held; the tasks that were
running wait for their recovery in full service. Everything else is as after reset. -/
def execPackageReset (s : State) : Host.Outcome State Fault Refusal :=
  let cores : Assoc Core := s.cores.map fun c => (c.1, { Core.reset with neg := c.2.neg })
  let dies : Assoc Die := s.dies.map fun d =>
    (d.1, { Die.reset with dark := true, tqs := d.2.tqs.map fun q => (q.1, Tq.reset) })
  let tasks := (s.tasks.filter fun t => t.st ≠ .killed && !t.allHalted).map fun t =>
    { t with st := .lost, pre := none, parked := [], key := none, dark := List.range 8 }
  .next (({ State.reset with
    seqNo := s.seqNo, free := s.free + 1, inputs := s.inputs, out := s.out, cores := cores, dies := dies, tasks := tasks } : State).setReg
      offSvc (if s.bootOk then 1 + trained 2 * 2 ^ 2 + 2 ^ 11 else 0))

/-- The package comes into full service, once every context is Free; tasks with records written before the reset are resumed by
recovery, the others are lost (R342). A die that fails to train stays out of DIES (R356). -/
def execFullServiceChange (s : State) : Host.Outcome State Fault Refusal :=
  .next (if s.svcMode ≠ 1 ∨ s.cores.any (fun c => c.2.ctxs.any fun x => x.2.q.st ≠ .free) then s
  else
    let s := s.setReg offSvc (2 + trained 8 * 2 ^ 2 + 7 * 2 ^ 10)
    (s.tasks.filter fun t => t.st = .lost && t.key.isNone).foldl (fun s t =>
      match s.gangKey t with
      | none => s.loseTask t
      | some k =>
        let q := s.queue t.q
        (s.modTask t.id fun t => { t with key := some k }).setQueue t.q { q with back := q.back ++ [t.id] }) s)

end Sys2Proof.Machine
end

