-- ==== Sys2Proof/Machine/Outside.lean ====
section
/-! DEFINITION. What reaches the package from outside (20_package.md R352 to R355): host accesses, queue entries, pod requests, links; and
uncorrectable errors (18_recovery.md R338). -/

namespace Sys2Proof.Machine

/-! ### Entries from outside the package (R239) -/

/-- The number that an error-log entry gives a source: 0xFFFFF for the host, else the package (Table 18-11). -/
def sourceNo (src : Nat) : Nat := if src = 0 then 0xFFFFF else src - 1

/-- An outside entry that finds the hold full is discarded: one log entry for each partition that holds the queue, and the count of
HLERR for the host. -/
def State.discardOutside (s : State) (t : Nat) (e : TqIn) : State :=
  let s := (s.holders 2 t).foldl (fun s p => s.log (t / 64) 8 0x3FF p 0 0 e.seq (sourceNo e.src)) s
  if e.src = 0 then s.hlerr else s

/-- Early entries whose turn has come become receivable, at most `n` of them. -/
def State.drainEarly (s : State) (t src : Nat) : Nat → State
  | 0 => s
  | n + 1 =>
    let q := s.tq t
    let next := agetD q.next src 0
    match q.early.find? fun e => e.src = src && e.seq = next with
    | none => s
    | some e =>
      let q := { q with early := q.early.filter (·.id ≠ e.id), next := aset q.next src ((next + 1) % 2 ^ 32) }
      let r := (s.setTq t q).tqInbound t { e with since := s.cyc }
      (if r.2 then r.1 else r.1.discardOutside t e).drainEarly t src n

/-- An entry of source `src` (0 the host, else package + 1) arrives; it waits until its predecessor has arrived. -/
def State.tqOutside (s : State) (t src data : Nat) (poison : Bool) : State :=
  let s := s.fresh
  let q := s.tq t
  let e : TqIn :=
    { id := s.seqNo, data := BitVec.ofNat 512 data, poison := poison, since := s.cyc, src := src, seq := bits data 511 480,
      copy := none }
  let s := s.setTq t { q with early := q.early ++ [e], srcs := if q.srcs.contains src then q.srcs else q.srcs ++ [src] }
  s.drainEarly t src (q.early.length + 1)

/-- Whether a queue takes entries from outside: some partition holds it, and it is not being zeroed (R299, R352). -/
def State.tqServed (s : State) (t : Nat) : Bool := (s.holders 2 t) ≠ [] && !s.zeroing 2 t

/-- Whether a write names one whole block of the queue aperture (R352). -/
def isBlock (off len : Nat) : Bool := len = 64 && off % 64 = 0 && off < 0x200000

/-! ### The host (R352, R353) -/

/-- An outside write of memory: the granules it covers whole take its poison; others keep theirs unless it is poisoned. -/
def State.writeOutside (s : State) (a n data : Nat) (poison : Bool) : State :=
  let gs := (List.range ((a + n - 1) / 64 + 1 - a / 64)).map (a / 64 + ·)
  let s := s.store a n data
  gs.foldl (fun s g => if poison then s.setPoison g true
    else if a ≤ 64 * g && 64 * g + 64 ≤ a + n then s.setPoison g false else s) s

/-- A host access through BAR2 performs (R352). What no region covers reads as zero. -/
def execHostMemoryAccess (wr : Bool) (addr len data : Nat) (s : State) : Host.Outcome State Fault Refusal :=
  let n := min len (0x050000000000 - addr)
  .next (if 0x080000000000 ≤ addr ∨ len = 0 then s
  else if wr then
    let s := if n < len then s.hlerr else s
    if n = 0 then s else s.writeOutside addr n (data % 2 ^ (8 * n)) false
  else { s with readVal := s.load addr n })

/-- A host write through BAR4 (R352). -/
def execQueueApertureWrite (off len data : Nat) (poison : Bool) (s : State) : Host.Outcome State Fault Refusal :=
  .next (if isBlock off len && s.tqServed (off / 0x1000) then s.tqOutside (off / 0x1000) 0 data poison else s.hlerr)

/-- An AtomicOp of the host is completed with Unsupported Request (R353). -/
def execHostAtomicop (addr : Nat) (s : State) : Host.Outcome State Fault Refusal :=
  .next (s.send [s.cyc, 512, 5, 0] 0 (.unsupported addr))

/-! ### The pod (R354, R355) -/

/-- The physical address of a pod request in the export range of a partition that covers it. -/
def State.exported (s : State) (off len : Nat) : Option Nat :=
  (List.range 16).findSome? fun p =>
    let a := s.reg (offPart p + 0x160) + (off - 0x800000)
    let ok := match regionOf a with
      | .hbm _ | .lpddr | .spad _ | .ring _ => true
      | _ => false
    if 0x800000 ≤ off && a + len ≤ s.reg (offPart p + 0x168) && ok then some a else none

/-- A pod request of package `src` is refused: logged as kind 9, with the copy or atomic sequence number that it carries and the
partition of the queue it names, and answered with zero entries or a marked reply. -/
def State.refusePod (s : State) (src kind die len part seq : Nat) : State :=
  let s := s.log die 9 0x3FF part 0 0 seq src
  match kind with
  | 0 => s
  | 1 => (List.range ((len + 63) / 64)).foldl (fun s i => s.reply [s.cyc, 512, 6, i] (src + 1) (.answer 0)) s
  | _ => s.reply [s.cyc, 512, 6, 0] (src + 1) (.answer (0xFFFFFFFF * 2 ^ 96))

/-- The atomic operation of a pod request kind: 2 FetchAdd, 3 Swap, 4 CAS (R246). -/
def podOp (kind : Nat) : Nat :=
  match kind with
  | 2 => 0
  | 3 => 3
  | _ => 4

/-- A pod request arrives (R354): a write (0), a read (1) or an atomic (2 to 4; operand in the low 8 bytes of the data, the compared
value in the next 8). Its kind is the low 3 bits of `head`, and the sequence number of the sender's copy or atomic stands above. -/
def execZieshRequest (src head addr len data : Nat) (poison : Bool) (s : State) : Host.Outcome State Fault Refusal :=
  let kind := head % 8
  let seq := head / 8
  let off := addr % 2 ^ 24
  .next (if off < 0x200000 then
    let t := off / 0x1000
    if kind = 0 && isBlock off len && s.tqServed t then s.tqOutside t (src + 1) data poison
    else s.refusePod src kind (t / 64) len ((s.holders 2 t).headD 0) seq
  else match s.exported off len with
    | none => s.refusePod src kind 0 len 0 seq
    | some a =>
      if len = 0 then s
      else match kind with
      | 0 => s.writeOutside a len (data % 2 ^ (8 * len)) poison
      | 1 => (List.range ((len + 63) / 64)).foldl (fun s i =>
          s.reply [s.cyc, 512, 6, i] (src + 1) (.answer (s.load (a + 64 * i) (min 64 (len - 64 * i))))) s
      | _ =>
        let old := s.load a len
        (s.store a len (atomNew (podOp kind) (8 * len) old (data % 2 ^ 64) (data / 2 ^ 64 % 2 ^ 64))).reply [s.cyc, 512, 6, 0] (src + 1)
          (.answer old))

/-- A queue-reset message: this package begins again at sequence number 0 for the queue of package `src` (R355). -/
def execQueueResetMessage (src die q : Nat) (s : State) : Host.Outcome State Fault Refusal :=
  .next { s with oseq := adel s.oseq (src * 0x1000 + 64 * die + q) }

/-- The address and the sequence number of a request that its link can lose with it: a write, an atomic with no reply, or a read of which
nothing has come back. What has been answered has been acknowledged (log 99). -/
def State.losable (s : State) (o : Out) : Option (Nat × Nat) :=
  match o.msg with
  | .write a _ _ n _ _ => some (a, n)
  | .atomic a _ _ _ _ n => if s.unanswered o then some (a, n) else none
  | .read a _ n =>
    if s.unanswered o ∧ (s.core (o.key.getD 1 0)).copies.any (fun e => e.seq = n && decide (e.src + 64 * e.back ≤ a)) then some (a, n)
    else none
  | _ => none

/-- The link of a sent request goes down. Whether the request had been acknowledged is a free value (log 6, log 99); if not, it is lost
and logged (R354). One that had been stays with the link until it is answered. -/
def State.loseOn (s : State) (o : Out) : State × Out :=
  match s.losable o with
  | none => (s, if s.unanswered o then o else { o with link := none })
  | some (a, n) =>
    let t : State := { s with free := s.free + 1 }
    let core := o.key.getD 1 0
    if (Config.freeValue s.free).toNat % 2 = 1 then
      (t.log (dieOf core % 8) 1 core ((s.partOf core).getD 0) 0 0 n a, { o with link := none })
    else (t, if s.unanswered o then o else { o with link := none })

/-- A link goes down (R354): requests sent on it that are not acknowledged are lost and logged; traffic is mapped to the other links when
those that were acknowledged have drained. -/
def execLinkDown (link : Nat) (s : State) : Host.Outcome State Fault Refusal :=
  .next (if !(s.linksUp.contains link) then s
  else
    let r := s.out.foldl (fun r o =>
      if o.link = some link then let q := r.1.loseOn o; (q.1, r.2 ++ [q.2]) else (r.1, r.2 ++ [o])) (s, ([] : List Out))
    let s : State := { r.1 with out := r.2, remap := true }
    let r := offMgmt + 0xC8 + 8 * link
    s.setReg r (s.reg r / 4 * 4))

/-- A link comes up and trains, with a package at its far end (R354, Table 20-2); traffic is mapped anew if it was down (log 99). -/
def execZieshLinkUp (link pkg : Nat) (s : State) : Host.Outcome State Fault Refusal :=
  .next (if link < 12 then
    ({ s with remap := s.remap || !(s.linksUp.contains link) } : State).setReg (offMgmt + 0xC8 + 8 * link) (3 + pkg % 2 ^ 16 * 2 ^ 16)
  else s)

/-! ### Uncorrectable errors (R338, R339) -/

/-- The register that an error's index names: s0 to s63, then v0 to v127, then m0 to m7. -/
def errReg (i : Nat) : RCls × Nat := if i < 64 then (.s, i) else if i < 192 then (.v, i - 64) else (.m, (i - 192) % 8)

/-- An uncorrectable error strikes (R338). Its kind is that of the log entry: 1 a granule of a copy in flight (place: core + 512 × the
die where the error is found, idx: copy sequence number × 65536 + granule; the first of a copy alone is logged, R339), 2 scratchpad (core, granule), 3 a register (4 × core + context; index of `errReg`) or a tile
(index 200 + acc), 4 the flush mirror (core, granule), 7 a ring store (store, granule); 0 a record payload of the negative
(core, slot; from slot 8 on the state slots of the queue of that number), which it makes torn. -/
def execUncorrectableError (kind place idx : Nat) (s : State) : Host.Outcome State Fault Refusal :=
  let part (n : Nat) : Nat := (s.partOf n).getD 0
  .next (match kind with
  | 0 => s.modCore place fun c =>
    if idx < 8 then match aget c.neg.recs idx with
      | some r => { c with neg := { c.neg with recs := aset c.neg.recs idx { r with torn := true } } }
      | none => c
    else match aget c.neg.qrecs (idx - 8) with
      | some r => { c with neg := { c.neg with qrecs := aset c.neg.qrecs (idx - 8) { r with torn := true } } }
      | none => c
  | 1 =>
    let n := place % 512
    match (s.core n).copies.find? fun e => e.seq = idx / 65536 with
    | none => s
    | some e =>
      let i := idx % 65536
      let s := s.modCore n fun c => c.setCopy
        { e with poison := if e.poison.contains i then e.poison else e.poison ++ [i], logged := true }
      if e.logged then s else s.log (place / 512 % 8) 1 n e.part e.ctx 0 e.seq (e.src + 64 * i)
  | 2 => (s.setPoison (granOf (spad place) + idx) true).log (dieOf place) 2 place (part place) 0 0 0 (spad place + 64 * idx)
  | 3 =>
    let n := place / 4
    let k := place % 4
    let s := if idx < 200 then s.modCtx n k fun x => x.strike (errReg idx).1 (errReg idx).2
      else s.modArr n fun a => a.setTile (idx - 200) { a.tile (idx - 200) with poison := true }
    s.log (dieOf n) 3 n (part n) k 0 0 0
  | 4 =>
    let s := s.modCore place fun c =>
      let g := (aget c.neg.mirror idx).getD (0, 0, false)
      { c with neg := { c.neg with mirror := aset c.neg.mirror idx (g.1, g.2.1, true) } }
    s.log (dieOf place) 4 place (part place) 0 0 0 (spad place + 64 * idx)
  | 7 =>
    let a := 0x080100000000 + place * 0x200000 + 64 * idx
    (s.setPoison (granOf a) true).log (place / 64) 7 0 (((s.holders 1 place).head?).getD 0) 0 0 0 a
  | _ => s)

end Sys2Proof.Machine
end

