-- ==== Sys2Proof/Machine/Scalar.lean ====
section
/-! DEFINITION. The scalar instructions (06_scalar_vector.md R138 to R146, 07_takes.md R182, R183, R191): one meaning each over
the shapes of Operands.lean. -/

namespace Sys2Proof.Machine

/-- A function of two operands. -/
def bin (f : Nat → Nat → Nat) : List Nat → Nat
  | [a, b] => f a b
  | _ => 0

/-- A function of one operand. -/
def un (f : Nat → Nat) : List Nat → Nat
  | [a] => f a
  | _ => 0

/-- The 64-bit result of integer arithmetic, wrapping (R138). -/
def w64 (x : Int) : Nat := wrapInt 64 x
def s64 (x : Nat) : Int := sint 64 x

/-- Shifts and rotations by the low 6 bits (Table 06-2). -/
def shl64 (a b : Nat) : Nat := a * 2 ^ (b % 64) % 2 ^ 64
def shr64 (a b : Nat) : Nat := a / 2 ^ (b % 64)
def sar64 (a b : Nat) : Nat := w64 (s64 a / 2 ^ (b % 64))
def rol64 (a b : Nat) : Nat := a * 2 ^ (b % 64) % 2 ^ 64 + a / 2 ^ (64 - b % 64)
def ror64 (a b : Nat) : Nat := rol64 a (64 - b % 64)

/-- Leading zeros, trailing zeros and set bits of a 64-bit value; 64 for zero under the first two (Table 06-2). -/
def clz64 (a : Nat) : Nat := if a = 0 then 64 else 63 - Nat.log2 a
def ctz64 (a : Nat) : Nat := ((List.range 64).find? fun i => a / 2 ^ i % 2 = 1).getD 64
def popc64 (a : Nat) : Nat := ((List.range 64).filter fun i => a / 2 ^ i % 2 = 1).length

/-- The quotient and remainder of R143: truncated towards zero. -/
def divS64 (a b : Nat) : Nat := w64 ((s64 a).tdiv (s64 b))
def remS64 (a b : Nat) : Nat := w64 ((s64 a).tmod (s64 b))

/-- A register form on sa and sb (R138). -/
def State.rrr (s : State) (g : Lit) (h : Bool) (lat sd sa sb : Nat) (f : Nat → Nat → Nat) : Except Flt State :=
  s.opS g h lat sd [s.src .s sa, s.src .s sb] (bin f)

/-- A form on sa alone, or on sa and an immediate that `f` holds (R138 to R140). -/
def State.rr (s : State) (g : Lit) (h : Bool) (sd sa : Nat) (f : Nat → Nat) : Except Flt State :=
  s.opS g h 1 sd [s.src .s sa] (un f)

/-- The division family (R143): for a zero divisor no value lands, DZ is recorded and the arithmetic fault of subcode 1 is
raised whatever the enables hold. -/
def State.division (s : State) (g : Lit) (h : Bool) (sd sa sb : Nat) (f : Nat → Nat → Nat) : Except Flt State :=
  match s.wlit g with
  | none => .ok s
  | some w => do
    let srcs := [s.src .s sa, s.src .s sb]
    checkPoison srcs
    let pairs := (product (srcs.map (·.ts))).map fun p =>
      let v := p.2.map fun v => (toWord v).toNat
      if v.getD 1 0 = 0 then
        (⟨p.1, 0, evDZ, some (s.mkTrap 0x0D 1 (s.me.phys .s sd) 0)⟩ : Pair)
      else ⟨p.1, ofWord (BitVec.ofNat 64 (bin f v)), 0, none⟩
    s.writeBack w h true 12 .s sd pairs

/-- ADD (R138). -/
def execAdd (g : Lit) (h : Bool) (sd sa sb : Nat) (s : State) :
    Host.Outcome State Fault Refusal :=
  s.finish (s.rrr g h 1 sd sa sb fun a b => w64 (a + b))

/-- SUB (R138). -/
def execSub (g : Lit) (h : Bool) (sd sa sb : Nat) (s : State) :
    Host.Outcome State Fault Refusal :=
  s.finish (s.rrr g h 1 sd sa sb fun a b => w64 ((a : Int) - b))

/-- AND (R138). -/
def execAndS (g : Lit) (h : Bool) (sd sa sb : Nat) (s : State) :
    Host.Outcome State Fault Refusal :=
  s.finish (s.rrr g h 1 sd sa sb fun a b => a &&& b)

/-- OR (R138). -/
def execOrS (g : Lit) (h : Bool) (sd sa sb : Nat) (s : State) :
    Host.Outcome State Fault Refusal :=
  s.finish (s.rrr g h 1 sd sa sb fun a b => a ||| b)

/-- XOR (R138). -/
def execXorS (g : Lit) (h : Bool) (sd sa sb : Nat) (s : State) :
    Host.Outcome State Fault Refusal :=
  s.finish (s.rrr g h 1 sd sa sb fun a b => a ^^^ b)

/-- ANDN: sa AND NOT sb (R138). -/
def execAndn (g : Lit) (h : Bool) (sd sa sb : Nat) (s : State) :
    Host.Outcome State Fault Refusal :=
  s.finish (s.rrr g h 1 sd sa sb fun a b => a &&& (2 ^ 64 - 1 - b))

/-- SHL (R138). -/
def execShl (g : Lit) (h : Bool) (sd sa sb : Nat) (s : State) :
    Host.Outcome State Fault Refusal :=
  s.finish (s.rrr g h 1 sd sa sb fun a b => shl64 a b)

/-- SHR: fills with 0 (R138). -/
def execShr (g : Lit) (h : Bool) (sd sa sb : Nat) (s : State) :
    Host.Outcome State Fault Refusal :=
  s.finish (s.rrr g h 1 sd sa sb fun a b => shr64 a b)

/-- SAR: fills with the sign (R138). -/
def execSar (g : Lit) (h : Bool) (sd sa sb : Nat) (s : State) :
    Host.Outcome State Fault Refusal :=
  s.finish (s.rrr g h 1 sd sa sb fun a b => sar64 a b)

/-- MIN, signed (R141). -/
def execMinS (g : Lit) (h : Bool) (sd sa sb : Nat) (s : State) :
    Host.Outcome State Fault Refusal :=
  s.finish (s.rrr g h 1 sd sa sb fun a b => if s64 b < s64 a then b else a)

/-- MAX, signed (R141). -/
def execMaxS (g : Lit) (h : Bool) (sd sa sb : Nat) (s : State) :
    Host.Outcome State Fault Refusal :=
  s.finish (s.rrr g h 1 sd sa sb fun a b => if s64 a < s64 b then b else a)

/-- MIN.n (R141). -/
def execMinN (g : Lit) (h : Bool) (sd sa sb : Nat) (s : State) :
    Host.Outcome State Fault Refusal :=
  s.finish (s.rrr g h 1 sd sa sb fun a b => min a b)

/-- MAX.n (R141). -/
def execMaxN (g : Lit) (h : Bool) (sd sa sb : Nat) (s : State) :
    Host.Outcome State Fault Refusal :=
  s.finish (s.rrr g h 1 sd sa sb fun a b => max a b)

/-- ROL (R138). -/
def execRol (g : Lit) (h : Bool) (sd sa sb : Nat) (s : State) :
    Host.Outcome State Fault Refusal :=
  s.finish (s.rrr g h 1 sd sa sb fun a b => rol64 a b)

/-- ROR (R138). -/
def execRor (g : Lit) (h : Bool) (sd sa sb : Nat) (s : State) :
    Host.Outcome State Fault Refusal :=
  s.finish (s.rrr g h 1 sd sa sb fun a b => ror64 a b)

/-- ADDX.1: sa + sb × 2^1 (R138). -/
def execAddx1 (g : Lit) (h : Bool) (sd sa sb : Nat) (s : State) :
    Host.Outcome State Fault Refusal :=
  s.finish (s.rrr g h 1 sd sa sb fun a b => w64 (a + b * 2 ^ 1))

/-- ADDX.2: sa + sb × 2^2 (R138). -/
def execAddx2 (g : Lit) (h : Bool) (sd sa sb : Nat) (s : State) :
    Host.Outcome State Fault Refusal :=
  s.finish (s.rrr g h 1 sd sa sb fun a b => w64 (a + b * 2 ^ 2))

/-- ADDX.3: sa + sb × 2^3 (R138). -/
def execAddx3 (g : Lit) (h : Bool) (sd sa sb : Nat) (s : State) :
    Host.Outcome State Fault Refusal :=
  s.finish (s.rrr g h 1 sd sa sb fun a b => w64 (a + b * 2 ^ 3))

/-- ADDX.8: sa + sb × 2^8 (R138). -/
def execAddx8 (g : Lit) (h : Bool) (sd sa sb : Nat) (s : State) :
    Host.Outcome State Fault Refusal :=
  s.finish (s.rrr g h 1 sd sa sb fun a b => w64 (a + b * 2 ^ 8))

/-- MUL: the low half of the product (R142). -/
def execMul (g : Lit) (h : Bool) (sd sa sb : Nat) (s : State) :
    Host.Outcome State Fault Refusal :=
  s.finish (s.rrr g h 3 sd sa sb fun a b => w64 (a * b))

/-- MULH: the high half of the signed product (R142). -/
def execMulh (g : Lit) (h : Bool) (sd sa sb : Nat) (s : State) :
    Host.Outcome State Fault Refusal :=
  s.finish (s.rrr g h 3 sd sa sb fun a b => w64 (s64 a * s64 b / 2 ^ 64))

/-- MULH.n: the high half of the unsigned product (R142). -/
def execMulhN (g : Lit) (h : Bool) (sd sa sb : Nat) (s : State) :
    Host.Outcome State Fault Refusal :=
  s.finish (s.rrr g h 3 sd sa sb fun a b => a * b / 2 ^ 64)

/-- DIV (R143). -/
def execDivS (g : Lit) (h : Bool) (sd sa sb : Nat) (s : State) :
    Host.Outcome State Fault Refusal :=
  s.finish (s.division g h sd sa sb fun a b => divS64 a b)

/-- DIV.n (R143). -/
def execDivN (g : Lit) (h : Bool) (sd sa sb : Nat) (s : State) :
    Host.Outcome State Fault Refusal :=
  s.finish (s.division g h sd sa sb fun a b => a / b)

/-- REM (R143). -/
def execRem (g : Lit) (h : Bool) (sd sa sb : Nat) (s : State) :
    Host.Outcome State Fault Refusal :=
  s.finish (s.division g h sd sa sb fun a b => remS64 a b)

/-- REM.n (R143). -/
def execRemN (g : Lit) (h : Bool) (sd sa sb : Nat) (s : State) :
    Host.Outcome State Fault Refusal :=
  s.finish (s.division g h sd sa sb fun a b => a % b)

/-- CLZ (R138). -/
def execClz (g : Lit) (h : Bool) (sd sa : Nat) (s : State) :
    Host.Outcome State Fault Refusal :=
  s.finish (s.rr g h sd sa fun a => clz64 a)

/-- POPC (R138). -/
def execPopc (g : Lit) (h : Bool) (sd sa : Nat) (s : State) :
    Host.Outcome State Fault Refusal :=
  s.finish (s.rr g h sd sa fun a => popc64 a)

/-- CTZ (R138). -/
def execCtz (g : Lit) (h : Bool) (sd sa : Nat) (s : State) :
    Host.Outcome State Fault Refusal :=
  s.finish (s.rr g h sd sa fun a => ctz64 a)

/-- ADDI: sa plus the immediate (R140). -/
def execAddi (g : Lit) (sd sa : Nat) (imm : Int) (s : State) :
    Host.Outcome State Fault Refusal :=
  s.finish (s.rr g false sd sa fun a => w64 (a + imm))

/-- SHLI (R139). -/
def execShli (g : Lit) (sd sa : Nat) (amt : Nat) (s : State) :
    Host.Outcome State Fault Refusal :=
  s.finish (s.rr g false sd sa fun a => shl64 a amt)

/-- SHRI (R139). -/
def execShri (g : Lit) (sd sa : Nat) (amt : Nat) (s : State) :
    Host.Outcome State Fault Refusal :=
  s.finish (s.rr g false sd sa fun a => shr64 a amt)

/-- SARI (R139). -/
def execSari (g : Lit) (sd sa : Nat) (amt : Nat) (s : State) :
    Host.Outcome State Fault Refusal :=
  s.finish (s.rr g false sd sa fun a => sar64 a amt)

/-- ROLI (R139). -/
def execRoli (g : Lit) (sd sa : Nat) (amt : Nat) (s : State) :
    Host.Outcome State Fault Refusal :=
  s.finish (s.rr g false sd sa fun a => rol64 a amt)

/-- ANDI with the sign-extended immediate (R139). -/
def execAndi (g : Lit) (sd sa : Nat) (imm : Int) (s : State) :
    Host.Outcome State Fault Refusal :=
  s.finish (s.rr g false sd sa fun a => a &&& w64 imm)

/-- ORI (R139). -/
def execOri (g : Lit) (sd sa : Nat) (imm : Int) (s : State) :
    Host.Outcome State Fault Refusal :=
  s.finish (s.rr g false sd sa fun a => a ||| w64 imm)

/-- XORI (R139). -/
def execXori (g : Lit) (sd sa : Nat) (imm : Int) (s : State) :
    Host.Outcome State Fault Refusal :=
  s.finish (s.rr g false sd sa fun a => a ^^^ w64 imm)

/-- LIH: the immediate times 2^12, sign-extended from bit 31 (R70, R140). It has no guard field; a BRD's literal applies. -/
def execLih (sd imm : Nat) (s : State) :
    Host.Outcome State Fault Refusal :=
  s.finish (s.opS Lit.always false 1 sd [] fun _ => w64 (signed 32 (imm * 2 ^ 12 % 2 ^ 32)))

/-- SEL: sa where the literal is true, sb where it is false; under an open guard both, each under its condition (R145). -/
def execSel (l : Lit) (h : Bool) (sd sa sb : Nat) (s : State) : Host.Outcome State Fault Refusal :=
  s.finish (match s.wlit Lit.always with
  | none => .ok s
  | some w => do
    let srcs := [s.src .s sa, s.src .s sb]
    checkPoison srcs
    let pairs := (product (srcs.map (·.ts))).flatMap fun p =>
      let t := p.2.getD 0 0
      let u := p.2.getD 1 0
      match s.me.lit s.cyc l with
      | .const b => [(⟨p.1, if b then t else u, 0, none⟩ : Pair)]
      | .opn k =>
        ((p.1.conj k).map fun c => (⟨c, t, 0, none⟩ : Pair)).toList ++
        ((p.1.conj (Cube.lit l.idx !l.neg)).map fun c => (⟨c, u, 0, none⟩ : Pair)).toList
    s.writeBack w h true 1 .s sd pairs)

/-- CMP: the guard lands at issue + 2 with the truth of the condition (R144). -/
def execCmp (g : Lit) (cond gd sa sb : Nat) (s : State) : Host.Outcome State Fault Refusal :=
  s.finish (match s.openLit g with
  | none => .ok s
  | some w => do
    let a ← s.singleS sa
    let b ← s.singleS sb
    s.openGuard w gd (s.cyc + 2) .value [GArg.ofBool (testInt 64 cond a b)])

/-- CMPI: as CMP, with imm10 zero-extended for the unsigned conditions and sign-extended for the others (R56, R144). -/
def execCmpi (g : Lit) (cond gd sa imm : Nat) (s : State) : Host.Outcome State Fault Refusal :=
  s.finish (match s.openLit g with
  | none => .ok s
  | some w => do
    let a ← s.singleS sa
    let b := if cond = 4 ∨ cond = 5 then imm else w64 (signed 10 imm)
    s.openGuard w gd (s.cyc + 2) .value [GArg.ofBool (testInt 64 cond a b)])

/-- An operand literal of guard logic at issue: what it reads, or the open guard it waits for (R191). -/
def State.garg (s : State) (l : Lit) : GArg :=
  if l.idx = 0 then ⟨some true, 0, l.neg⟩
  else if s.me.gopen s.cyc l.idx then ⟨none, l.idx, l.neg⟩
  else ⟨some (s.me.guard l.idx).val, l.idx, l.neg⟩

/-- The landing cycle of guard logic: not before issue + 1, nor before an open operand lands (R191). -/
def State.gdue (s : State) (ls : List Lit) : Nat :=
  ls.foldl (fun n l =>
    if l.idx ≠ 0 ∧ s.me.gopen s.cyc l.idx then max n ((s.me.guard l.idx).opn.elim 0 (·.due)) else n) (s.cyc + 1)

/-- Guard logic on operand literals (R191). -/
def State.guardLogic (s : State) (g : Lit) (gd : Nat) (op : GOp) (ls : List Lit) : Except Flt State :=
  match s.openLit g with
  | none => .ok s
  | some w => s.openGuard w gd (s.gdue ls) op (ls.map s.garg)

/-- GAND (R191). -/
def execGand (g : Lit) (gd : Nat) (la lb : Lit) (s : State) :
    Host.Outcome State Fault Refusal :=
  s.finish (s.guardLogic g gd .and [la, lb])

/-- GOR (R191). -/
def execGor (g : Lit) (gd : Nat) (la lb : Lit) (s : State) :
    Host.Outcome State Fault Refusal :=
  s.finish (s.guardLogic g gd .or [la, lb])

/-- GNOT (R191). -/
def execGnot (g : Lit) (gd : Nat) (la : Lit) (s : State) :
    Host.Outcome State Fault Refusal :=
  s.finish (s.guardLogic g gd .not [la])

/-- GCOPY (R191). -/
def execGcopy (g : Lit) (gd : Nat) (la : Lit) (s : State) :
    Host.Outcome State Fault Refusal :=
  s.finish (s.guardLogic g gd .value [la])

/-- TAKE.WAIT: while the guard is open the bundle is held; otherwise nothing. Its guard field is ignored (R182). -/
def execTakeWait (_g : Lit) (k : Nat) (s : State) : Host.Outcome State Fault Refusal :=
  .next (if k ≠ 0 ∧ s.me.gopen s.cyc k then { s with iss := { s.iss with hold := true } } else s)

/-- TKCNT: the number of takes of sa (R183). -/
def execTkcnt (g : Lit) (sd sa : Nat) (s : State) : Host.Outcome State Fault Refusal :=
  s.finish (match s.wlit g with
  | none => .ok s
  | some w => do
    let x := s.src .s sa
    checkPoison [x]
    s.writeBack w false true 1 .s sd [⟨Cube.tt, ofWord (BitVec.ofNat 64 x.ts.length), 0, none⟩])

/-! ### CSRs (R15, R146, R302) -/

/-- The value of LOC (Table 01-3). -/
def State.loc (s : State) : Nat :=
  s.iss.ctx + s.iss.core * 4 + s.me.q.part * 2 ^ 12 + s.reg offMgmt % 2 ^ 20 * 2 ^ 16

/-- The value a CSR reads as (Table 06-3, Tables 17-5 and 18-2); none for a number that no table lists. -/
def State.csrVal (s : State) (n : Nat) : Option Word :=
  let x := s.me
  match n with
  | 0x001 => some (BitVec.ofNat 64 s.cyc)
  | 0x002 => some (BitVec.ofNat 64 x.q.base)
  | 0x003 => some (BitVec.ofNat 64 s.loc)
  | 0x010 => some x.ar.srkey
  | 0x011 => some (x.ar.srctr.setWidth 64)
  | 0x012 => some x.ar.astat
  | 0x100 => some (if x.q.sup then 1 else 0)
  | 0x101 => some (if x.ar.c4 then 1 else 0)
  | 0x180 => some x.tr.tcause
  | 0x181 => some x.tr.tpc
  | 0x182 => some x.tr.tfpc
  | 0x183 => some x.tr.tinfo0
  | 0x184 => some x.tr.tinfo1
  | 0x185 => some x.tr.tscr0
  | 0x186 => some x.tr.tscr1
  | 0x187 => some x.tr.tscr2
  | 0x188 => some x.tr.tscr3
  | _ => none

/-- Whether a CSR is read only at every privilege that may reach it (R15, R302). -/
def csrReadOnly (n : Nat) : Bool := [0x001, 0x002, 0x003, 0x100, 0x182, 0x183, 0x184].contains n

/-- The checks of a CSR access (R146, R302): open guard, privilege, reserved number, read only. `w` is the write
literal, `word` the instruction word. -/
def State.csrCheck (s : State) (w : Cube) (n word : Nat) (wr : Bool) : Except Flt Word :=
  if !w.isTrue then .error ⟨0x08, 3, 0, 0⟩
  else if 0x100 ≤ n ∧ s.me.q.sup = false then .error ⟨0x02, 0, n, 0⟩
  else match s.csrVal n with
  | none => .error ⟨0x01, 4, word, 0⟩
  | some v => if wr && csrReadOnly n then .error ⟨0x02, 0, n, 0⟩ else .ok v

/-- CSRR (R146): the value at issue lands at issue + 1. -/
def execCsrr (g : Lit) (sd n : Nat) (s : State) : Host.Outcome State Fault Refusal :=
  s.finish (match s.openLit g with
  | none => .ok s
  | some w => do
    let v ← s.csrCheck w n (encode (.csrr g sd n)) false
    s.writeBack w false true 1 .s sd [⟨Cube.tt, ofWord v, 0, none⟩])

/-- CSRW (R146): the write lands at issue + 1. -/
def execCsrw (g : Lit) (sa n : Nat) (s : State) : Host.Outcome State Fault Refusal :=
  s.finish (match s.openLit g with
  | none => .ok s
  | some w => do
    if !w.isTrue then .error ⟨0x08, 3, 0, 0⟩
    let v ← s.single .s sa
    let _ ← s.csrCheck w n (encode (.csrw g sa n)) true
    .ok (s.flight w (s.cyc + 1) .csr n [⟨Cube.tt, v, 0, none⟩]))

end Sys2Proof.Machine
end

