-- ==== Sys2Proof/Machine/VectorInt.lean ====
section
/-! DEFINITION. The integer, logic, comparison, selection and rearranging vector instructions (06_scalar_vector.md R147, R149 to R154, R156) -/

namespace Sys2Proof.Machine

/-- A lane function of sources a and b. -/
def lane2 (f : Nat → Nat → Nat × Nat) : List Nat → Nat × Nat
  | a :: b :: _ => f a b
  | _ => (0, 0)

/-- A lane function of source a. -/
def lane1 (f : Nat → Nat × Nat) : List Nat → Nat × Nat
  | a :: _ => f a
  | _ => (0, 0)

/-- A lane function of sources a, b and the old lane of vd. -/
def lane3 (f : Nat → Nat → Nat → Nat × Nat) : List Nat → Nat × Nat
  | [a, b, d] => f a b d
  | _ => (0, 0)

/-- An integer lane operation of type column `ty` on va and a source-b code, latency 2 (R147). -/
def State.vint (s : State) (g : Lit) (ty vd va vb : Nat) (f : Nat → Nat → Nat → Nat × Nat) : Except Flt State := do
  let w := intWidth ty
  let p ← s.srcB g vb (immInt w)
  p.1.opLanes g 2 w vd [p.1.src .v va, p.2] false 0 (lane2 (f w))

/-- A saturating result of type .iN (R117, R147). -/
def satI (w : Nat) (x : Int) : Nat × Nat :=
  let r := clampInt (-(2 ^ (w - 1))) (2 ^ (w - 1) - 1) x
  (wrapInt w r.1, r.2)

/-- A saturating result of type .nN. -/
def satN (w : Nat) (x : Int) : Nat × Nat :=
  let r := clampInt 0 (2 ^ w - 1) x
  (wrapInt w r.1, r.2)

/-- VADD.iN, wrapping (R147). -/
def execVaddInt (g : Lit) (ty vd va vb : Nat) (s : State) :
    Host.Outcome State Fault Refusal :=
  s.finish (s.vint g ty vd va vb fun w a b => ((a + b) % 2 ^ w, 0))

/-- VSUB.iN, wrapping (R147). -/
def execVsubInt (g : Lit) (ty vd va vb : Nat) (s : State) :
    Host.Outcome State Fault Refusal :=
  s.finish (s.vint g ty vd va vb fun w a b => (wrapInt w ((a : Int) - b), 0))

/-- VMUL.iN, the low half (R147). -/
def execVmulInt (g : Lit) (ty vd va vb : Nat) (s : State) :
    Host.Outcome State Fault Refusal :=
  s.finish (s.vint g ty vd va vb fun w a b => (a * b % 2 ^ w, 0))

/-- VMIN.iN, signed (R147). -/
def execVminInt (g : Lit) (ty vd va vb : Nat) (s : State) :
    Host.Outcome State Fault Refusal :=
  s.finish (s.vint g ty vd va vb fun w a b => (if sint w b < sint w a then b else a, 0))

/-- VMAX.iN, signed (R147). -/
def execVmaxInt (g : Lit) (ty vd va vb : Nat) (s : State) :
    Host.Outcome State Fault Refusal :=
  s.finish (s.vint g ty vd va vb fun w a b => (if sint w a < sint w b then b else a, 0))

/-- VMIN.nN, unsigned (R147). -/
def execVminN (g : Lit) (ty vd va vb : Nat) (s : State) :
    Host.Outcome State Fault Refusal :=
  s.finish (s.vint g ty vd va vb fun _ a b => (min a b, 0))

/-- VMAX.nN, unsigned (R147). -/
def execVmaxN (g : Lit) (ty vd va vb : Nat) (s : State) :
    Host.Outcome State Fault Refusal :=
  s.finish (s.vint g ty vd va vb fun _ a b => (max a b, 0))

/-- VADD.sat.iN (R147). -/
def execVaddSatI (g : Lit) (ty vd va vb : Nat) (s : State) :
    Host.Outcome State Fault Refusal :=
  s.finish (s.vint g ty vd va vb fun w a b => satI w (sint w a + sint w b))

/-- VSUB.sat.iN (R147). -/
def execVsubSatI (g : Lit) (ty vd va vb : Nat) (s : State) :
    Host.Outcome State Fault Refusal :=
  s.finish (s.vint g ty vd va vb fun w a b => satI w (sint w a - sint w b))

/-- VADD.sat.nN (R147). -/
def execVaddSatN (g : Lit) (ty vd va vb : Nat) (s : State) :
    Host.Outcome State Fault Refusal :=
  s.finish (s.vint g ty vd va vb fun w a b => satN w ((a : Int) + b))

/-- VSUB.sat.nN (R147). -/
def execVsubSatN (g : Lit) (ty vd va vb : Nat) (s : State) :
    Host.Outcome State Fault Refusal :=
  s.finish (s.vint g ty vd va vb fun w a b => satN w ((a : Int) - b))

/-- VSHL; a count of w or more gives 0 (R147). -/
def execVshl (g : Lit) (ty vd va vb : Nat) (s : State) :
    Host.Outcome State Fault Refusal :=
  s.finish (s.vint g ty vd va vb fun w a b => (if w ≤ b then 0 else a * 2 ^ b % 2 ^ w, 0))

/-- VSHR; a count of w or more gives 0 (R147). -/
def execVshr (g : Lit) (ty vd va vb : Nat) (s : State) :
    Host.Outcome State Fault Refusal :=
  s.finish (s.vint g ty vd va vb fun w a b => (if w ≤ b then 0 else a / 2 ^ b, 0))

/-- VSAR; a count of w or more gives the sign (R147). -/
def execVsar (g : Lit) (ty vd va vb : Nat) (s : State) :
    Host.Outcome State Fault Refusal :=
  s.finish (s.vint g ty vd va vb fun w a b => (wrapInt w (sint w a / 2 ^ (min b w)), 0))

/-- A bitwise operation, masked in 32-bit lanes; an immediate is sign-extended to 32-bit lanes (R59, R147). -/
def State.vlogic (s : State) (g : Lit) (vd va vb : Nat) (f : Nat → Nat → Nat) : Except Flt State := do
  let p ← s.srcB g vb (immInt 32)
  p.1.opLanes g 2 32 vd [p.1.src .v va, p.2] false 0 (lane2 fun a b => (f a b, 0))

/-- VAND (R147). -/
def execVand (g : Lit) (vd va vb : Nat) (s : State) :
    Host.Outcome State Fault Refusal :=
  s.finish (s.vlogic g vd va vb fun a b => a &&& b)

/-- VOR (R147). -/
def execVor (g : Lit) (vd va vb : Nat) (s : State) :
    Host.Outcome State Fault Refusal :=
  s.finish (s.vlogic g vd va vb fun a b => a ||| b)

/-- VXOR (R147). -/
def execVxor (g : Lit) (vd va vb : Nat) (s : State) :
    Host.Outcome State Fault Refusal :=
  s.finish (s.vlogic g vd va vb fun a b => a ^^^ b)

/-- VANDN: a AND NOT b (R147). -/
def execVandn (g : Lit) (vd va vb : Nat) (s : State) :
    Host.Outcome State Fault Refusal :=
  s.finish (s.vlogic g vd va vb fun a b => a &&& (2 ^ 32 - 1 - b))

/-- VCMP: bits of active lanes become the truth of the condition, all other bits of m keep their values, so m is a source
(R149). -/
def State.vcmp (s : State) (g : Lit) (w m va vb : Nat) (imm : Int → Vec) (test : Nat → Nat → Bool) : Except Flt State := do
  let p ← s.srcB g vb imm
  let s := p.1
  let n := 2048 / w
  s.opWhole g 2 .m m [s.src .v va, p.2, s.src .m 0, s.src .m m] fun vs =>
    let ls := zipLanes w n (vs.take 2)
    let q := (vs.getD 2 0).toNat
    let old := (vs.getD 3 0).toNat
    let bit (i : Nat) (l : List Nat) : Nat :=
      if q / 2 ^ i % 2 = 1 then ofFlag (test (l.getD 0 0) (l.getD 1 0)) else old / 2 ^ i % 2
    (BitVec.ofNat 2048 (packNat 1 (ls.mapIdx bit) + old / 2 ^ n * 2 ^ n), 0)

/-- VCMP on integer lanes (R149). -/
def execVcmpInt (g : Lit) (ty cond m va vb : Nat) (s : State) : Host.Outcome State Fault Refusal :=
  let w := intWidth ty
  s.finish (s.vcmp g w m va vb (immInt w) (testInt w cond))

/-- VCMP on floating-point lanes; it sets no event (R149). -/
def execVcmpFp (g : Lit) (ty cond m va vb : Nat) (s : State) : Host.Outcome State Fault Refusal :=
  let f := fpFmt ty
  s.finish (s.vcmp g f.width m va vb (immFp f) (f.test s.me.ar.c4 cond))

/-- VSEL: va's lane where the bit of m is 1, vd's lane where it is 0; not masked by m0 (R150). -/
def execVsel (g : Lit) (ty vd va m : Nat) (s : State) : Host.Outcome State Fault Refusal :=
  let w := intWidth ty
  let n := 2048 / w
  s.finish (s.opWhole g 2 .v vd [s.src .v va, s.src .v vd, s.src .m m] fun vs =>
    let q := (vs.getD 2 0).toNat
    (pack w ((zipLanes w n (vs.take 2)).mapIdx fun i l =>
      if q / 2 ^ i % 2 = 1 then l.getD 0 0 else l.getD 1 0), 0))

/-- A permutation of lanes of width `w` (R152): lane i of the result is lane `ix i b` of va, where b is lane i of source b; an
immediate n gives lane i + n. -/
def State.vperm (s : State) (g : Lit) (w vd va vb : Nat) : Except Flt State := do
  let n := 2048 / w
  if 40 ≤ vb then
    s.opWhole g 2 .v vd [s.src .v va] fun vs =>
      let a := lanesOf w n (vs.getD 0 0)
      (pack w ((List.range n).map fun (i : Nat) => a.getD ((((i : Int) + vb - 48) % n).toNat) 0), 0)
  else
    let p ← s.srcB g vb (immInt w)
    p.1.opWhole g 2 .v vd [p.1.src .v va, p.2] fun vs =>
      let a := lanesOf w n (vs.getD 0 0)
      (pack w ((lanesOf w n (vs.getD 1 0)).map fun b => a.getD (b % n) 0), 0)

/-- VPERMB (R152). -/
def execVpermb (g : Lit) (vd va vb : Nat) (s : State) : Host.Outcome State Fault Refusal :=
  s.finish (s.vperm g 8 vd va vb)

/-- VSHUF (R152): bits [5:0] of a lane of source b select. -/
def execVshuf (g : Lit) (vd va vb : Nat) (s : State) : Host.Outcome State Fault Refusal :=
  s.finish (s.vperm g 32 vd va vb)

/-- VBCAST: every lane becomes lane j of va (R152). -/
def execVbcast (g : Lit) (ty vd va vb : Nat) (s : State) : Host.Outcome State Fault Refusal :=
  let w := intWidth ty
  let n := 2048 / w
  s.finish (do
    if 40 ≤ vb then
      let j := (((vb : Int) - 48) % n).toNat
      s.opWhole g 2 .v vd [s.src .v va] fun vs => (pack w (List.replicate n ((lanesOf w n (vs.getD 0 0)).getD j 0)), 0)
    else
      let p ← s.srcB g vb (immInt w)
      p.1.opWhole g 2 .v vd [p.1.src .v va, p.2] fun vs =>
        let j := (vs.getD 1 0).toNat % 2 ^ 32 % n
        (pack w (List.replicate n ((lanesOf w n (vs.getD 0 0)).getD j 0)), 0))

/-- VDOT4: four byte products added to each 32-bit lane of vd, wrapping; an immediate fills every byte (R59, R153). -/
def execVdot4 (g : Lit) (uns : Bool) (vd va vb : Nat) (s : State) : Host.Outcome State Fault Refusal :=
  s.finish (do
    let p ← s.srcB g vb (immInt 8)
    let byte (x k : Nat) : Int := if uns then ((x / 2 ^ (8 * k) % 256 : Nat) : Int) else sint 8 (x / 2 ^ (8 * k))
    p.1.opLanes g 2 32 vd [p.1.src .v va, p.2] true 0 (lane3 fun a b d =>
      (wrapInt 32 ((d : Int) + byte a 0 * byte b 0 + byte a 1 * byte b 1 + byte a 2 * byte b 2 + byte a 3 * byte b 3), 0)))

/-- VPACK: the lanes of va, then those of vb, clamped to half their width (R154). -/
def execVpack (g : Lit) (ty vd va vb : Nat) (s : State) : Host.Outcome State Fault Refusal :=
  let w := intWidth ty
  let n := 2048 / w
  s.finish (do
    let p ← s.srcB g vb (immInt w)
    p.1.opWhole g 2 .v vd [p.1.src .v va, p.2] fun vs =>
      let r := (lanesOf w n (vs.getD 0 0) ++ lanesOf w n (vs.getD 1 0)).map fun x => satI (w / 2) (sint w x)
      (pack (w / 2) (r.map (·.1)), r.foldl (fun e x => evOr e x.2) 0))

/-- VUNPK: half of va's lanes, sign- or zero-extended to twice their width (R154). -/
def execVunpk (g : Lit) (ty vd va : Nat) (hi zx : Bool) (s : State) : Host.Outcome State Fault Refusal :=
  let w := intWidth (ty + 1)
  let n := 1024 / w
  s.finish (s.opWhole g 2 .v vd [s.src .v va] fun vs =>
    let ls := (lanesOf w (2 * n) (vs.getD 0 0)).drop (if hi then n else 0)
    (pack (2 * w) ((ls.take n).map fun x => if zx then x else wrapInt (2 * w) (sint w x)), 0))

/-- VSAT.iN: each signed lane clamped to the signed range of half its width (R154). -/
def execVsat (g : Lit) (ty vd va : Nat) (s : State) : Host.Outcome State Fault Refusal :=
  let w := intWidth ty
  s.finish (s.opLanes g 2 w vd [s.src .v va] false 0 (lane1 fun x =>
    let r := clampInt (-(2 ^ (w / 2 - 1))) (2 ^ (w / 2 - 1) - 1) (sint w x)
    (wrapInt w r.1, r.2)))

/-- VSAT.nN: each unsigned lane clamped to the unsigned range of half its width (R154). -/
def execVsatN (g : Lit) (ty vd va : Nat) (s : State) : Host.Outcome State Fault Refusal :=
  let w := intWidth ty
  s.finish (s.opLanes g 2 w vd [s.src .v va] false 0 (lane1 fun x =>
    if 2 ^ (w / 2) ≤ x then (2 ^ (w / 2) - 1, evSA) else (x, 0)))

/-- VMOV, masked in 32-bit lanes (R156). -/
def execVmov (g : Lit) (vd va : Nat) (s : State) : Host.Outcome State Fault Refusal :=
  s.finish (s.opLanes g 2 32 vd [s.src .v va] false 0 (lane1 fun x => (x, 0)))

/-- The value of VANY and VALL (R151): the bits of the mask below 2048/N. -/
def State.maskTest (s : State) (g : Lit) (ty gd m : Nat) (f : Nat → Nat → Bool) : Except Flt State :=
  match s.openLit g with
  | none => .ok s
  | some w => do
    let v ← s.single .m m
    let n := 2048 / intWidth ty
    s.openGuard w gd (s.cyc + 8) .value [GArg.ofBool (f n (v.toNat % 2 ^ n))]

/-- VANY: true if any bit is 1 (R151). -/
def execVany (g : Lit) (ty gd m : Nat) (s : State) : Host.Outcome State Fault Refusal :=
  s.finish (s.maskTest g ty gd m fun _ x => x != 0)

/-- VALL: true if all bits are 1 (R151). -/
def execVall (g : Lit) (ty gd m : Nat) (s : State) : Host.Outcome State Fault Refusal :=
  s.finish (s.maskTest g ty gd m fun n x => x == 2 ^ n - 1)

/-- VRNG: lane i is Gen(K, C + i), unmasked (R160). -/
def execVrng (g : Lit) (vd va : Nat) (s : State) : Host.Outcome State Fault Refusal :=
  s.finish (s.opWhole g 4 .v vd [s.src .v va] fun vs =>
    let x := (vs.getD 0 0).toNat
    (pack 32 ((List.range 64).map fun i => gen x (x / 2 ^ 64 + i)), 0))

/-- The rank of a lane in VCOMPRESS (R161): NaN, then the infinities, then by magnitude. -/
def rankKey (c4 : Bool) (ty x : Nat) : Nat :=
  if ty = 3 then (sint 32 x).natAbs
  else
    let f := fpFmt ty
    if f.isNan x then 2 ^ 64
    else
      let a := x % 2 ^ (f.width - 1)
      if c4 ∧ f = .f32 ∧ a < 2 ^ 23 then 0 else a

/-- Keep the `k` lanes of greatest rank of a group; equal ranks go to the lower lane (R161). -/
def keepTop (c4 : Bool) (ty k : Nat) (grp : List Nat) : List Nat :=
  let keys := grp.map (rankKey c4 ty)
  grp.mapIdx fun i x =>
    let a := keys.getD i 0
    let above := (keys.zipIdx.filter fun p => a < p.1 || (a == p.1 && p.2 < i)).length
    if above < k then x else 0

/-- VCOMPRESS in groups of `gsz` lanes (R161). -/
def State.vcompress (s : State) (g : Lit) (gsz k ty vd va : Nat) : Except Flt State :=
  let w := if ty = 3 then 32 else (fpFmt ty).width
  let n := 2048 / w
  s.opWhole g 6 .v vd [s.src .v va] fun vs =>
    let ls := lanesOf w n (vs.getD 0 0)
    (pack w ((List.range (n / gsz)).flatMap fun j => keepTop s.me.ar.c4 ty k ((ls.drop (j * gsz)).take gsz)), 0)

/-- VCOMPRESS.g16.k8 (R161). -/
def execVcompressG16 (g : Lit) (ty vd va : Nat) (s : State) : Host.Outcome State Fault Refusal :=
  s.finish (s.vcompress g 16 8 ty vd va)

/-- VCOMPRESS.g8.kk (R161). -/
def execVcompressG8 (g : Lit) (k ty vd va : Nat) (s : State) : Host.Outcome State Fault Refusal :=
  s.finish (s.vcompress g 8 k ty vd va)

/-- VMOV from a result queue, masked in 32-bit lanes; the events of the segment are recorded (R135, R162). Its vb field is not
read. -/
def execVmovOq (g : Lit) (vd oq _vb : Nat) (s : State) : Host.Outcome State Fault Refusal :=
  s.finish (do
    let p ← s.popOq g oq
    p.1.opLanes g 2 32 vd [Src.const p.2.data] false p.2.status (lane1 fun x => (x, 0)))

/-- An integer result-queue form (R162). -/
def State.oqInt (s : State) (g : Lit) (ty vd oq vb : Nat) (f : Nat → Nat → Nat → Nat × Nat) : Except Flt State := do
  let w := intWidth ty
  let p ← s.popOq g oq
  let b ← p.1.srcB g vb (immInt w)
  b.1.opLanes g 2 w vd [Src.const p.2.data, b.2] false p.2.status (lane2 (f w))

/-- VADD.iN from a result queue (R162). -/
def execVaddOqInt (g : Lit) (ty vd oq vb : Nat) (s : State) : Host.Outcome State Fault Refusal :=
  s.finish (s.oqInt g ty vd oq vb fun w a b => ((a + b) % 2 ^ w, 0))

/-- VMUL.iN from a result queue (R162). -/
def execVmulOqInt (g : Lit) (ty vd oq vb : Nat) (s : State) : Host.Outcome State Fault Refusal :=
  s.finish (s.oqInt g ty vd oq vb fun w a b => (a * b % 2 ^ w, 0))

end Sys2Proof.Machine
end

