-- ==== Sys2Proof/Machine/VectorFp.lean ====
section
/-! DEFINITION. The floating-point vector instructions, conversion, the transcendentals, reductions and scans (06_scalar_vector.md R148, R155, R157 to R159, R162) -/

namespace Sys2Proof.Machine

/-- A floating-point lane operation of type column `ty` on va and a source-b code (R148). -/
def State.vfp (s : State) (g : Lit) (lat ty vd va vb : Nat) (useVd : Bool) (op : Fmt → List Nat → Nat × Nat) :
    Except Flt State := do
  let f := fpFmt ty
  let p ← s.srcB g vb (immFp f)
  p.1.opLanes g lat f.width vd [p.1.src .v va, p.2] useVd 0 (op f)

/-- A floating-point result-queue form (R162). -/
def State.oqFp (s : State) (g : Lit) (lat ty vd oq vb : Nat) (useVd : Bool) (op : Fmt → List Nat → Nat × Nat) :
    Except Flt State := do
  let f := fpFmt ty
  let p ← s.popOq g oq
  let b ← p.1.srcB g vb (immFp f)
  b.1.opLanes g lat f.width vd [Src.const p.2.data, b.2] useVd p.2.status (op f)

/-- VADD on floating-point lanes (R148). -/
def execVaddFp (g : Lit) (ty vd va vb : Nat) (s : State) :
    Host.Outcome State Fault Refusal :=
  s.finish (s.vfp g 3 ty vd va vb false fun f => lane2 (f.add s.me.ar.c4))

/-- VSUB on floating-point lanes (R148). -/
def execVsubFp (g : Lit) (ty vd va vb : Nat) (s : State) :
    Host.Outcome State Fault Refusal :=
  s.finish (s.vfp g 3 ty vd va vb false fun f => lane2 (f.sub s.me.ar.c4))

/-- VMUL on floating-point lanes (R148). -/
def execVmulFp (g : Lit) (ty vd va vb : Nat) (s : State) :
    Host.Outcome State Fault Refusal :=
  s.finish (s.vfp g 3 ty vd va vb false fun f => lane2 (f.mul s.me.ar.c4))

/-- VFMA: va × vb + vd, rounded once on floating-point lanes (R148). -/
def execVfma (g : Lit) (ty vd va vb : Nat) (s : State) :
    Host.Outcome State Fault Refusal :=
  s.finish (s.vfp g 4 ty vd va vb true fun f => lane3 (f.fma s.me.ar.c4))

/-- VMIN; no event on floating-point lanes (R148). -/
def execVminFp (g : Lit) (ty vd va vb : Nat) (s : State) :
    Host.Outcome State Fault Refusal :=
  s.finish (s.vfp g 3 ty vd va vb false fun f => lane2 (f.pick s.me.ar.c4 false))

/-- VMAX; no event on floating-point lanes (R148). -/
def execVmaxFp (g : Lit) (ty vd va vb : Nat) (s : State) :
    Host.Outcome State Fault Refusal :=
  s.finish (s.vfp g 3 ty vd va vb false fun f => lane2 (f.pick s.me.ar.c4 true))

/-- VADD from a result queue (R162). -/
def execVaddOqFp (g : Lit) (ty vd oq vb : Nat) (s : State) :
    Host.Outcome State Fault Refusal :=
  s.finish (s.oqFp g 3 ty vd oq vb false fun f => lane2 (f.add s.me.ar.c4))

/-- VMUL from a result queue (R162). -/
def execVmulOqFp (g : Lit) (ty vd oq vb : Nat) (s : State) :
    Host.Outcome State Fault Refusal :=
  s.finish (s.oqFp g 3 ty vd oq vb false fun f => lane2 (f.mul s.me.ar.c4))

/-- VFMA from a result queue (R162). -/
def execVfmaOq (g : Lit) (ty vd oq vb : Nat) (s : State) :
    Host.Outcome State Fault Refusal :=
  s.finish (s.oqFp g 4 ty vd oq vb true fun f => lane3 (f.fma s.me.ar.c4))

/-- VMAX from a result queue (R162). -/
def execVmaxOq (g : Lit) (ty vd oq vb : Nat) (s : State) :
    Host.Outcome State Fault Refusal :=
  s.finish (s.oqFp g 3 ty vd oq vb false fun f => lane2 (f.pick s.me.ar.c4 true))

/-- VEXP: e^x, correctly rounded (R157, Table 06-6). -/
def execVexp (g : Lit) (ty vd va : Nat) (s : State) :
    Host.Outcome State Fault Refusal :=
  let f := fpFmt ty
  s.finish (s.opLanes g 12 f.width vd [s.src .v va] false 0 (lane1 (f.unary s.me.ar.c4 FVal.exp)))

/-- VRCP: 1/x, correctly rounded (R157, Table 06-6); of a negative subnormal whose reciprocal is beyond range, −∞ with OF (log 93). -/
def execVrcp (g : Lit) (ty vd va : Nat) (s : State) :
    Host.Outcome State Fault Refusal :=
  let f := fpFmt ty
  s.finish (s.opLanes g 12 f.width vd [s.src .v va] false 0 (lane1 (f.unary s.me.ar.c4 FVal.rcp)))

/-- VRSQ: 1/√x, correctly rounded (R157, Table 06-6). -/
def execVrsq (g : Lit) (ty vd va : Nat) (s : State) :
    Host.Outcome State Fault Refusal :=
  let f := fpFmt ty
  s.finish (s.opLanes g 12 f.width vd [s.src .v va] false 0 (lane1 (f.unary s.me.ar.c4 FVal.rsq)))

/-- VLOG: ln x, correctly rounded (R157, Table 06-6). -/
def execVlog (g : Lit) (ty vd va : Nat) (s : State) :
    Host.Outcome State Fault Refusal :=
  let f := fpFmt ty
  s.finish (s.opLanes g 12 f.width vd [s.src .v va] false 0 (lane1 (f.unary s.me.ar.c4 FVal.ln)))

/-- VCVT: element by element, latency 3 (R155). Mask bit i governs element i; a narrowing conversion fills the lowest lanes
and all higher bits of vd become zero. Each issue of a `.rsr` form at the D8 level advances SRCTR (R119, R120): of two in one
bundle the one in slot 4 takes the value after that in slot 3 (log 81), and one whose literal has landed false counts as an issue
like any other (log 92). -/
def execVcvt (g : Lit) (dst rnd src vd va : Nat) (s : State) : Host.Outcome State Fault Refusal :=
  let c4 := s.me.ar.c4
  let ws := cvtWidth src
  let wd := cvtWidth dst
  let n := 2048 / max ws wd
  let key := s.me.ar.srkey.toNat
  let ctr := s.me.ar.srctr.toNat
  let mode (i : Nat) : RMode := match rnd with
    | 0 => .rne
    | 1 => .rtz
    | _ => .rsr (if c4 then 0 else gen key (ctr * 2 ^ 16 + i) % 2 ^ 16)
  let s := if rnd = 2 ∧ c4 = false then s.modMe fun x => { x with ar := { x.ar with srctr := x.ar.srctr + 1 } } else s
  s.finish (match s.wlit g with
  | none => s.noWrite g .v vd
  | some w => do
    let a := s.src .v va
    let m := s.src .m 0
    let d := s.src .v vd
    let part (q : Vec) : Bool := q.toNat % 2 ^ n != 2 ^ n - 1
    let rdVd := m.ts.any fun t => part t.x
    checkPoison ([a, m] ++ (if rdVd then [d] else []))
    let pairs := (product [a.ts, m.ts]).flatMap fun p =>
      let q := (p.2.getD 1 0).toNat
      let res := ((lanesOf ws n (p.2.getD 0 0)).mapIdx fun i x => convert c4 (mode i) src dst x)
      let run (k : Cube) (old : Vec) : Pair :=
        let ls := List.zip res (lanesOf wd n old)
        ⟨k, pack wd (ls.mapIdx fun i r => if q / 2 ^ i % 2 = 1 then r.1.1 else r.2),
          (ls.zipIdx.foldl (fun e r => if q / 2 ^ r.2 % 2 = 1 then evOr e r.1.1.2 else e) 0), none⟩
      if part (p.2.getD 1 0) then d.ts.filterMap fun t => (p.1.conj t.cube).map fun k => run k t.x
      else [run p.1 0]
    s.writeBack w false true (3 + coldAdd ([a] ++ (if rdVd then [d] else []))) .v vd pairs)

/-- A lane widened to FP32 exactly (R158); a NaN keeps sign and payload at the C4 level (Table 05-13). -/
def widen (c4 : Bool) (f : Fmt) (x : Nat) : Nat :=
  if f = .f32 then x
  else if f.isNan x then (if c4 then carryNan f .f32 x else Fmt.nan .f32)
  else (Fmt.round .f32 false .rne (f.val x)).1

/-- A running FP32 value rounded with `.rne` to a lane type (R159). -/
def narrow (c4 : Bool) (f : Fmt) (x : Nat) : Nat × Nat :=
  if Fmt.isNan .f32 x then (if c4 then carryNan .f32 f x else f.nan, 0)
  else f.round c4 .rne (Fmt.val .f32 x)

/-- One level of a reduction: adjacent values are combined (R158). -/
def pairUp (f : Nat → Nat → Nat × Nat) : List Nat → List Nat × Nat
  | a :: b :: r =>
    let v := f a b
    let t := pairUp f r
    (v.1 :: t.1, evOr v.2 t.2)
  | l => (l, 0)

/-- A fixed binary tree over the lanes, level by level; `n` bounds the levels (R158). -/
def reduceTree (f : Nat → Nat → Nat × Nat) : Nat → List Nat → Nat × Nat
  | 0, l => (l.headD 0, 0)
  | n + 1, l =>
    if l.length ≤ 1 then (l.headD 0, 0)
    else
      let p := pairUp f l
      let r := reduceTree f n p.1
      (r.1, evOr p.2 r.2)

/-- VRED (R158): `fi` combines .i32 lanes, `ff` FP32 values. The result goes to sd[31:0], sign-extended for .i32. A
BF16 subnormal, widened, is read as zero by the nodes at the C4 level (log 113). -/
def State.vred (s : State) (g : Lit) (ty sd va : Nat) (fi : Nat → Nat → Nat) (ff : Nat → Nat → Nat × Nat) :
    Except Flt State :=
  let c4 := s.me.ar.c4
  s.opWhole g 10 .s sd [s.src .v va] fun vs =>
    if ty = 3 then
      let r := reduceTree (fun a b => (fi a b, 0)) 11 (lanesOf 32 64 (vs.getD 0 0))
      (BitVec.ofNat 2048 (wrapInt 64 (sint 32 r.1)), 0)
    else
      let f := fpFmt ty
      let r := reduceTree ff 11 ((lanesOf f.width (2048 / f.width) (vs.getD 0 0)).map (widen c4 f))
      (BitVec.ofNat 2048 r.1, r.2)

/-- VRED.add (R158). -/
def execVredAdd (g : Lit) (ty sd va : Nat) (s : State) : Host.Outcome State Fault Refusal :=
  s.finish (s.vred g ty sd va (fun a b => (a + b) % 2 ^ 32) (Fmt.add .f32 s.me.ar.c4))

/-- VRED.max (R158). -/
def execVredMax (g : Lit) (ty sd va : Nat) (s : State) : Host.Outcome State Fault Refusal :=
  s.finish (s.vred g ty sd va (fun a b => if sint 32 a < sint 32 b then b else a) (Fmt.pick .f32 s.me.ar.c4 true))

/-- VRED.min (R158). -/
def execVredMin (g : Lit) (ty sd va : Nat) (s : State) : Host.Outcome State Fault Refusal :=
  s.finish (s.vred g ty sd va (fun a b => if sint 32 b < sint 32 a then b else a) (Fmt.pick .f32 s.me.ar.c4 false))

/-- An inclusive prefix over lanes in ascending order: `f` takes the running value on, `out` makes a lane of it (R159). -/
def scanLanes (f : Nat → Nat → Nat × Nat) (out : Nat → Nat × Nat) : Nat → List Nat → List Nat × Nat
  | _, [] => ([], 0)
  | p, x :: r =>
    let q := f p x
    let v := out q.1
    let t := scanLanes f out q.1 r
    (v.1 :: t.1, evOr (evOr q.2 v.2) t.2)

/-- VSCAN (R159), unmasked. -/
def State.vscan (s : State) (g : Lit) (w vd va : Nat) (first : Nat → Nat) (f : Nat → Nat → Nat × Nat)
    (out : Nat → Nat × Nat) : Except Flt State :=
  s.opWhole g 10 .v vd [s.src .v va] fun vs =>
    match lanesOf w (2048 / w) (vs.getD 0 0) with
    | [] => (0, 0)
    | x :: r =>
      let p := first x
      let v := out p
      let t := scanLanes f out p r
      (pack w (v.1 :: t.1), evOr v.2 t.2)

/-- VSCAN.add: a running FP32 sum, each lane rounded to its type; .i32 wraps (R159). At the C4 level a BF16 subnormal in
lane 0 is lane 0's result, and the additions behind it read it as zero (log 113). -/
def execVscanAdd (g : Lit) (ty vd va : Nat) (s : State) : Host.Outcome State Fault Refusal :=
  let c4 := s.me.ar.c4
  s.finish (
    if ty = 3 then s.vscan g 32 vd va id (fun a b => ((a + b) % 2 ^ 32, 0)) (fun x => (x, 0))
    else
      let f := fpFmt ty
      s.vscan g f.width vd va (widen c4 f) (fun p x => Fmt.add .f32 c4 p (widen c4 f x)) (narrow c4 f))

/-- VSCAN.max: the running maximum (R159); at the C4 level it keeps a BF16 subnormal (log 113). -/
def execVscanMax (g : Lit) (ty vd va : Nat) (s : State) : Host.Outcome State Fault Refusal :=
  let c4 := s.me.ar.c4
  s.finish (
    if ty = 3 then s.vscan g 32 vd va id (fun a b => (if sint 32 a < sint 32 b then b else a, 0)) (fun x => (x, 0))
    else
      let f := fpFmt ty
      s.vscan g f.width vd va (fun x => (f.pick c4 true x x).1) (f.pick c4 true) (fun x => (x, 0)))

end Sys2Proof.Machine
end

