-- ==== Sys2Proof/Machine/Dispatch.lean ====
section
/-! DEFINITION. Every instruction and event has its meaning. -/

namespace Sys2Proof.Machine

def exec (i : Instr) (s : State) : Host.Outcome State Fault Refusal :=
  match i with
  | .br off => Sys2Proof.Machine.execBr off s
  | .brc l off => Sys2Proof.Machine.execBrc l off s
  | .brd l off => Sys2Proof.Machine.execBrd l off s
  | .jt sa sb => Sys2Proof.Machine.execJt sa sb s
  | .call off => Sys2Proof.Machine.execCall off s
  | .callg sa => Sys2Proof.Machine.execCallg sa s
  | .loopReg sa => Sys2Proof.Machine.execLoopReg sa s
  | .loopImm n => Sys2Proof.Machine.execLoopImm n s
  | .trap n => Sys2Proof.Machine.execTrap n s
  | .brk n => Sys2Proof.Machine.execBrk n s
  | .syscall n => Sys2Proof.Machine.execSyscall n s
  | .waitc sa => Sys2Proof.Machine.execWaitc sa s
  | .slateQ sd => Sys2Proof.Machine.execSlateQ sd s
  | .slateT sd => Sys2Proof.Machine.execSlateT sd s
  | .scene d => Sys2Proof.Machine.execScene d s
  | .add g h sd sa sb => Sys2Proof.Machine.execAdd g h sd sa sb s
  | .sub g h sd sa sb => Sys2Proof.Machine.execSub g h sd sa sb s
  | .andS g h sd sa sb => Sys2Proof.Machine.execAndS g h sd sa sb s
  | .orS g h sd sa sb => Sys2Proof.Machine.execOrS g h sd sa sb s
  | .xorS g h sd sa sb => Sys2Proof.Machine.execXorS g h sd sa sb s
  | .andn g h sd sa sb => Sys2Proof.Machine.execAndn g h sd sa sb s
  | .shl g h sd sa sb => Sys2Proof.Machine.execShl g h sd sa sb s
  | .shr g h sd sa sb => Sys2Proof.Machine.execShr g h sd sa sb s
  | .sar g h sd sa sb => Sys2Proof.Machine.execSar g h sd sa sb s
  | .minS g h sd sa sb => Sys2Proof.Machine.execMinS g h sd sa sb s
  | .maxS g h sd sa sb => Sys2Proof.Machine.execMaxS g h sd sa sb s
  | .minN g h sd sa sb => Sys2Proof.Machine.execMinN g h sd sa sb s
  | .maxN g h sd sa sb => Sys2Proof.Machine.execMaxN g h sd sa sb s
  | .sel l h sd sa sb => Sys2Proof.Machine.execSel l h sd sa sb s
  | .clz g h sd sa => Sys2Proof.Machine.execClz g h sd sa s
  | .popc g h sd sa => Sys2Proof.Machine.execPopc g h sd sa s
  | .mul g h sd sa sb => Sys2Proof.Machine.execMul g h sd sa sb s
  | .mulh g h sd sa sb => Sys2Proof.Machine.execMulh g h sd sa sb s
  | .mulhN g h sd sa sb => Sys2Proof.Machine.execMulhN g h sd sa sb s
  | .divS g h sd sa sb => Sys2Proof.Machine.execDivS g h sd sa sb s
  | .divN g h sd sa sb => Sys2Proof.Machine.execDivN g h sd sa sb s
  | .rem g h sd sa sb => Sys2Proof.Machine.execRem g h sd sa sb s
  | .remN g h sd sa sb => Sys2Proof.Machine.execRemN g h sd sa sb s
  | .cmp g cond gd sa sb => Sys2Proof.Machine.execCmp g cond gd sa sb s
  | .gand g gd la lb => Sys2Proof.Machine.execGand g gd la lb s
  | .gor g gd la lb => Sys2Proof.Machine.execGor g gd la lb s
  | .gnot g gd la => Sys2Proof.Machine.execGnot g gd la s
  | .gcopy g gd la => Sys2Proof.Machine.execGcopy g gd la s
  | .takeWait g k => Sys2Proof.Machine.execTakeWait g k s
  | .tkcnt g sd sa => Sys2Proof.Machine.execTkcnt g sd sa s
  | .csrr g sd n => Sys2Proof.Machine.execCsrr g sd n s
  | .csrw g sa n => Sys2Proof.Machine.execCsrw g sa n s
  | .rol g h sd sa sb => Sys2Proof.Machine.execRol g h sd sa sb s
  | .ror g h sd sa sb => Sys2Proof.Machine.execRor g h sd sa sb s
  | .ctz g h sd sa => Sys2Proof.Machine.execCtz g h sd sa s
  | .addx1 g h sd sa sb => Sys2Proof.Machine.execAddx1 g h sd sa sb s
  | .addx2 g h sd sa sb => Sys2Proof.Machine.execAddx2 g h sd sa sb s
  | .addx3 g h sd sa sb => Sys2Proof.Machine.execAddx3 g h sd sa sb s
  | .addx8 g h sd sa sb => Sys2Proof.Machine.execAddx8 g h sd sa sb s
  | .addi g sd sa imm => Sys2Proof.Machine.execAddi g sd sa imm s
  | .lih sd imm => Sys2Proof.Machine.execLih sd imm s
  | .cmpi g cond gd sa imm => Sys2Proof.Machine.execCmpi g cond gd sa imm s
  | .shli g sd sa amt => Sys2Proof.Machine.execShli g sd sa amt s
  | .shri g sd sa amt => Sys2Proof.Machine.execShri g sd sa amt s
  | .sari g sd sa amt => Sys2Proof.Machine.execSari g sd sa amt s
  | .andi g sd sa imm => Sys2Proof.Machine.execAndi g sd sa imm s
  | .ori g sd sa imm => Sys2Proof.Machine.execOri g sd sa imm s
  | .xori g sd sa imm => Sys2Proof.Machine.execXori g sd sa imm s
  | .roli g sd sa amt => Sys2Proof.Machine.execRoli g sd sa amt s
  | .vaddInt g ty vd va vb => Sys2Proof.Machine.execVaddInt g ty vd va vb s
  | .vsubInt g ty vd va vb => Sys2Proof.Machine.execVsubInt g ty vd va vb s
  | .vmulInt g ty vd va vb => Sys2Proof.Machine.execVmulInt g ty vd va vb s
  | .vminInt g ty vd va vb => Sys2Proof.Machine.execVminInt g ty vd va vb s
  | .vmaxInt g ty vd va vb => Sys2Proof.Machine.execVmaxInt g ty vd va vb s
  | .vminN g ty vd va vb => Sys2Proof.Machine.execVminN g ty vd va vb s
  | .vmaxN g ty vd va vb => Sys2Proof.Machine.execVmaxN g ty vd va vb s
  | .vaddSatI g ty vd va vb => Sys2Proof.Machine.execVaddSatI g ty vd va vb s
  | .vsubSatI g ty vd va vb => Sys2Proof.Machine.execVsubSatI g ty vd va vb s
  | .vaddSatN g ty vd va vb => Sys2Proof.Machine.execVaddSatN g ty vd va vb s
  | .vsubSatN g ty vd va vb => Sys2Proof.Machine.execVsubSatN g ty vd va vb s
  | .vshl g ty vd va vb => Sys2Proof.Machine.execVshl g ty vd va vb s
  | .vshr g ty vd va vb => Sys2Proof.Machine.execVshr g ty vd va vb s
  | .vsar g ty vd va vb => Sys2Proof.Machine.execVsar g ty vd va vb s
  | .vand g vd va vb => Sys2Proof.Machine.execVand g vd va vb s
  | .vor g vd va vb => Sys2Proof.Machine.execVor g vd va vb s
  | .vxor g vd va vb => Sys2Proof.Machine.execVxor g vd va vb s
  | .vandn g vd va vb => Sys2Proof.Machine.execVandn g vd va vb s
  | .vaddFp g ty vd va vb => Sys2Proof.Machine.execVaddFp g ty vd va vb s
  | .vsubFp g ty vd va vb => Sys2Proof.Machine.execVsubFp g ty vd va vb s
  | .vmulFp g ty vd va vb => Sys2Proof.Machine.execVmulFp g ty vd va vb s
  | .vfma g ty vd va vb => Sys2Proof.Machine.execVfma g ty vd va vb s
  | .vminFp g ty vd va vb => Sys2Proof.Machine.execVminFp g ty vd va vb s
  | .vmaxFp g ty vd va vb => Sys2Proof.Machine.execVmaxFp g ty vd va vb s
  | .vcmpInt g ty cond m va vb => Sys2Proof.Machine.execVcmpInt g ty cond m va vb s
  | .vcmpFp g ty cond m va vb => Sys2Proof.Machine.execVcmpFp g ty cond m va vb s
  | .vsel g ty vd va m => Sys2Proof.Machine.execVsel g ty vd va m s
  | .vpermb g vd va vb => Sys2Proof.Machine.execVpermb g vd va vb s
  | .vshuf g vd va vb => Sys2Proof.Machine.execVshuf g vd va vb s
  | .vdot4 g uns vd va vb => Sys2Proof.Machine.execVdot4 g uns vd va vb s
  | .vbcast g ty vd va vb => Sys2Proof.Machine.execVbcast g ty vd va vb s
  | .vpack g ty vd va vb => Sys2Proof.Machine.execVpack g ty vd va vb s
  | .vunpk g ty vd va hi zx => Sys2Proof.Machine.execVunpk g ty vd va hi zx s
  | .vcvt g dst rnd src vd va => Sys2Proof.Machine.execVcvt g dst rnd src vd va s
  | .vmov g vd va => Sys2Proof.Machine.execVmov g vd va s
  | .vexp g ty vd va => Sys2Proof.Machine.execVexp g ty vd va s
  | .vrcp g ty vd va => Sys2Proof.Machine.execVrcp g ty vd va s
  | .vrsq g ty vd va => Sys2Proof.Machine.execVrsq g ty vd va s
  | .vlog g ty vd va => Sys2Proof.Machine.execVlog g ty vd va s
  | .vredAdd g ty sd va => Sys2Proof.Machine.execVredAdd g ty sd va s
  | .vredMax g ty sd va => Sys2Proof.Machine.execVredMax g ty sd va s
  | .vredMin g ty sd va => Sys2Proof.Machine.execVredMin g ty sd va s
  | .vany g ty gd m => Sys2Proof.Machine.execVany g ty gd m s
  | .vall g ty gd m => Sys2Proof.Machine.execVall g ty gd m s
  | .vscanAdd g ty vd va => Sys2Proof.Machine.execVscanAdd g ty vd va s
  | .vscanMax g ty vd va => Sys2Proof.Machine.execVscanMax g ty vd va s
  | .vrng g vd va => Sys2Proof.Machine.execVrng g vd va s
  | .vsat g ty vd va => Sys2Proof.Machine.execVsat g ty vd va s
  | .vsatN g ty vd va => Sys2Proof.Machine.execVsatN g ty vd va s
  | .vcompressG16 g ty vd va => Sys2Proof.Machine.execVcompressG16 g ty vd va s
  | .vcompressG8 g k ty vd va => Sys2Proof.Machine.execVcompressG8 g k ty vd va s
  | .vmovOq g vd oq vb => Sys2Proof.Machine.execVmovOq g vd oq vb s
  | .vaddOqFp g ty vd oq vb => Sys2Proof.Machine.execVaddOqFp g ty vd oq vb s
  | .vmulOqFp g ty vd oq vb => Sys2Proof.Machine.execVmulOqFp g ty vd oq vb s
  | .vfmaOq g ty vd oq vb => Sys2Proof.Machine.execVfmaOq g ty vd oq vb s
  | .vmaxOq g ty vd oq vb => Sys2Proof.Machine.execVmaxOq g ty vd oq vb s
  | .vaddOqInt g ty vd oq vb => Sys2Proof.Machine.execVaddOqInt g ty vd oq vb s
  | .vmulOqInt g ty vd oq vb => Sys2Proof.Machine.execVmulOqInt g ty vd oq vb s
  | .mwload fmt bank p => Sys2Proof.Machine.execMwload fmt bank p s
  | .mswap mask => Sys2Proof.Machine.execMswap mask s
  | .mres bank sa => Sys2Proof.Machine.execMres bank sa s
  | .mmulTm init live acc p m n sl => Sys2Proof.Machine.execMmulTm init live acc p m n sl s
  | .mmulBank init live acc p bank n sl => Sys2Proof.Machine.execMmulBank init live acc p bank n sl s
  | .mdrain oq acc scale topk tree sp n => Sys2Proof.Machine.execMdrain oq acc scale topk tree sp n s
  | .mtopk k sa => Sys2Proof.Machine.execMtopk k sa s
  | .mtree sa => Sys2Proof.Machine.execMtree sa s
  | .mgrad bank acc p n => Sys2Proof.Machine.execMgrad bank acc p n s
  | .mlive sd acc => Sys2Proof.Machine.execMlive sd acc s
  | .mclr mask => Sys2Proof.Machine.execMclr mask s
  | .ld g ty sd sa off => Sys2Proof.Machine.execLd g ty sd sa off s
  | .st g ty sv sa off => Sys2Proof.Machine.execSt g ty sv sa off s
  | .stZ g ty sv sa off => Sys2Proof.Machine.execStZ g ty sv sa off s
  | .vld g vd sa off => Sys2Proof.Machine.execVld g vd sa off s
  | .vst g vv sa off => Sys2Proof.Machine.execVst g vv sa off s
  | .vgather g vd sa vi => Sys2Proof.Machine.execVgather g vd sa vi s
  | .vscatter g vv sa vi => Sys2Proof.Machine.execVscatter g vv sa vi s
  | .pset p sa => Sys2Proof.Machine.execPset p sa s
  | .ptag p t => Sys2Proof.Machine.execPtag p t s
  | .seal hd sa => Sys2Proof.Machine.execSeal hd sa s
  | .bind w sa => Sys2Proof.Machine.execBind w sa s
  | .copy rd ra rn rt => Sys2Proof.Machine.execCopy rd ra rn rt s
  | .atom op wide sd sa sb => Sys2Proof.Machine.execAtom op wide sd sa sb s
  | .fenceX sa => Sys2Proof.Machine.execFenceX sa s
  | .pflush sa sn => Sys2Proof.Machine.execPflush sa sn s
  | .pfence sc => Sys2Proof.Machine.execPfence sc s
  | .rtx lane v => Sys2Proof.Machine.execRtx lane v s
  | .rtap lane sa t => Sys2Proof.Machine.execRtap lane sa t s
  | .tqsend q v => Sys2Proof.Machine.execTqsend q v s
  | .tqrecv v q => Sys2Proof.Machine.execTqrecv v q s
  | .tqpeek sd q => Sys2Proof.Machine.execTqpeek sd q s
  | .bar sc b sp => Sys2Proof.Machine.execBar sc b sp s
  | .xslot sd sa => Sys2Proof.Machine.execXslot sd sa s
  | .xslotRel sd sa => Sys2Proof.Machine.execXslotRel sd sa s
  | .accept sd sa => Sys2Proof.Machine.execAccept sd sa s
  | .pkey sd sa sb => Sys2Proof.Machine.execPkey sd sa sb s
  | .plook sd sa => Sys2Proof.Machine.execPlook sd sa s
  | .combine rn sa => Sys2Proof.Machine.execCombine rn sa s
  | .hring sa => Sys2Proof.Machine.execHring sa s
  | .irq n => Sys2Proof.Machine.execIrq n s
  | .resultLanding core ctx id => Sys2Proof.Machine.execResultLanding core ctx id s
  | .guardLanding core ctx gi => Sys2Proof.Machine.execGuardLanding core ctx gi s
  | .brdEffect core ctx => Sys2Proof.Machine.execBrdEffect core ctx s
  | .heldStoreRelease core ctx => Sys2Proof.Machine.execHeldStoreRelease core ctx s
  | .heldStorePerform core ctx id => Sys2Proof.Machine.execHeldStorePerform core ctx id s
  | .storePerform core ctx id => Sys2Proof.Machine.execStorePerform core ctx id s
  | .handlerEntry core ctx => Sys2Proof.Machine.execHandlerEntry core ctx s
  | .faultStop core ctx => Sys2Proof.Machine.execFaultStop core ctx s
  | .contextSwitch core => Sys2Proof.Machine.execContextSwitch core s
  | .blockRelease core ctx => Sys2Proof.Machine.execBlockRelease core ctx s
  | .waitEnd core ctx => Sys2Proof.Machine.execWaitEnd core ctx s
  | .tqEntryReceivable tq id => Sys2Proof.Machine.execTqEntryReceivable tq id s
  | .tqPlaceFreed tq => Sys2Proof.Machine.execTqPlaceFreed tq s
  | .barrierRelease part sc inst num => Sys2Proof.Machine.execBarrierRelease part sc inst num s
  | .flitLeave die id => Sys2Proof.Machine.execFlitLeave die id s
  | .copyStart core id => Sys2Proof.Machine.execCopyStart core id s
  | .copyArrival core id => Sys2Proof.Machine.execCopyArrival core id s
  | .copyPostedWrite core id gran => Sys2Proof.Machine.execCopyPostedWrite core id gran s
  | .copyReadReturn core id gran data poison => Sys2Proof.Machine.execCopyReadReturn core id gran data poison s
  | .lazyDrain core id => Sys2Proof.Machine.execLazyDrain core id s
  | .atomPerform core id => Sys2Proof.Machine.execAtomPerform core id s
  | .atomReply core id old refused => Sys2Proof.Machine.execAtomReply core id old refused s
  | .bindComplete core ctx => Sys2Proof.Machine.execBindComplete core ctx s
  | .flushGranulePersist core id gran => Sys2Proof.Machine.execFlushGranulePersist core id gran s
  | .psaveHeaderWrite core id => Sys2Proof.Machine.execPsaveHeaderWrite core id s
  | .queueShadowPersist tq id => Sys2Proof.Machine.execQueueShadowPersist tq id s
  | .mmulRowEntry core id row => Sys2Proof.Machine.execMmulRowEntry core id row s
  | .mmulRowLand core id row => Sys2Proof.Machine.execMmulRowLand core id row s
  | .mwloadFillPop core id j => Sys2Proof.Machine.execMwloadFillPop core id j s
  | .mwloadFillLand core id => Sys2Proof.Machine.execMwloadFillLand core id s
  | .mgradLand core id => Sys2Proof.Machine.execMgradLand core id s
  | .drainRowRead core id row => Sys2Proof.Machine.execDrainRowRead core id row s
  | .drainScaleRead core id k => Sys2Proof.Machine.execDrainScaleRead core id k s
  | .segmentArrival core id k => Sys2Proof.Machine.execSegmentArrival core id k s
  | .treeApply core id => Sys2Proof.Machine.execTreeApply core id s
  | .xslotPerform core id => Sys2Proof.Machine.execXslotPerform core id s
  | .acceptRowRead core id k => Sys2Proof.Machine.execAcceptRowRead core id k s
  | .acceptComplete core id => Sys2Proof.Machine.execAcceptComplete core id s
  | .pkeyComplete core id => Sys2Proof.Machine.execPkeyComplete core id s
  | .plookPerform core id => Sys2Proof.Machine.execPlookPerform core id s
  | .hringDepart part id => Sys2Proof.Machine.execHringDepart part id s
  | .ringCoalesceTimeout part => Sys2Proof.Machine.execRingCoalesceTimeout part s
  | .combineRowRead core ctx k => Sys2Proof.Machine.execCombineRowRead core ctx k s
  | .combineCloseTimeout part grp phase => Sys2Proof.Machine.execCombineCloseTimeout part grp phase s
  | .combineRelease part grp phase => Sys2Proof.Machine.execCombineRelease part grp phase s
  | .taskLaunch q => Sys2Proof.Machine.execTaskLaunch q s
  | .taskComplete id => Sys2Proof.Machine.execTaskComplete id s
  | .taskTrigger id => Sys2Proof.Machine.execTaskTrigger id s
  | .preemptStop core ctx => Sys2Proof.Machine.execPreemptStop core ctx s
  | .contextSaveComplete core ctx id => Sys2Proof.Machine.execContextSaveComplete core ctx id s
  | .graphLaunch part => Sys2Proof.Machine.execGraphLaunch part s
  | .graphWait part => Sys2Proof.Machine.execGraphWait part s
  | .graphCond part => Sys2Proof.Machine.execGraphCond part s
  | .graphEnd part => Sys2Proof.Machine.execGraphEnd part s
  | .zeroingEnd unit idx => Sys2Proof.Machine.execZeroingEnd unit idx s
  | .debugStop core ctx => Sys2Proof.Machine.execDebugStop core ctx s
  | .thermalTrip die temp => Sys2Proof.Machine.execThermalTrip die temp s
  | .supplyFailure dieRail place cause => Sys2Proof.Machine.execSupplyFailure dieRail place cause s
  | .lossReport dieRail place cause => Sys2Proof.Machine.execLossReport dieRail place cause s
  | .gateRequest core => Sys2Proof.Machine.execGateRequest core s
  | .coreGate core => Sys2Proof.Machine.execCoreGate core s
  | .coreUngate core => Sys2Proof.Machine.execCoreUngate core s
  | .recoveryResume q => Sys2Proof.Machine.execRecoveryResume q s
  | .queueResetMessage src die q => Sys2Proof.Machine.execQueueResetMessage src die q s
  | .hostMemoryAccess wr addr len data => Sys2Proof.Machine.execHostMemoryAccess wr addr len data s
  | .queueApertureWrite off len data poison => Sys2Proof.Machine.execQueueApertureWrite off len data poison s
  | .hostAtomicop addr => Sys2Proof.Machine.execHostAtomicop addr s
  | .zieshRequest src head addr len data poison => Sys2Proof.Machine.execZieshRequest src head addr len data poison s
  | .linkDown link => Sys2Proof.Machine.execLinkDown link s
  | .definedNop cls w => Sys2Proof.Machine.execDefinedNop cls w s
  | .uncorrectableError kind place idx => Sys2Proof.Machine.execUncorrectableError kind place idx s
  | .powerRestored kind place => Sys2Proof.Machine.execPowerRestored kind place s
  | .zieshLinkUp link pkg => Sys2Proof.Machine.execZieshLinkUp link pkg s
  | .nop => Sys2Proof.Machine.execNop s
  | .ret => Sys2Proof.Machine.execRet s
  | .lend => Sys2Proof.Machine.execLend s
  | .halt => Sys2Proof.Machine.execHalt s
  | .trigger => Sys2Proof.Machine.execTrigger s
  | .yieldC => Sys2Proof.Machine.execYieldC s
  | .eret => Sys2Proof.Machine.execEret s
  | .mown => Sys2Proof.Machine.execMown s
  | .mrel => Sys2Proof.Machine.execMrel s
  | .fenceO => Sys2Proof.Machine.execFenceO s
  | .psave => Sys2Proof.Machine.execPsave s
  | .qtailDoorbell => Sys2Proof.Machine.execQtailDoorbell s
  | .qcfgWrite => Sys2Proof.Machine.execQcfgWrite s
  | .preemptWrite => Sys2Proof.Machine.execPreemptWrite s
  | .gnodeWrite => Sys2Proof.Machine.execGnodeWrite s
  | .hrcfgWrite => Sys2Proof.Machine.execHrcfgWrite s
  | .hrheadWrite => Sys2Proof.Machine.execHrheadWrite s
  | .expertSlotWrite => Sys2Proof.Machine.execExpertSlotWrite s
  | .partitionGrant => Sys2Proof.Machine.execPartitionGrant s
  | .partitionRevoke => Sys2Proof.Machine.execPartitionRevoke s
  | .ownerChange => Sys2Proof.Machine.execOwnerChange s
  | .mirrorWrite => Sys2Proof.Machine.execMirrorWrite s
  | .extWrite => Sys2Proof.Machine.execExtWrite s
  | .qreqWrite => Sys2Proof.Machine.execQreqWrite s
  | .quoteComplete => Sys2Proof.Machine.execQuoteComplete s
  | .debugAttach => Sys2Proof.Machine.execDebugAttach s
  | .debugResume => Sys2Proof.Machine.execDebugResume s
  | .dbgstopWrite => Sys2Proof.Machine.execDbgstopWrite s
  | .debugImageWrite => Sys2Proof.Machine.execDebugImageWrite s
  | .debugApertureAccess => Sys2Proof.Machine.execDebugApertureAccess s
  | .tkill => Sys2Proof.Machine.execTkill s
  | .poisonarrBar => Sys2Proof.Machine.execPoisonarrBar s
  | .poisonarrCombine => Sys2Proof.Machine.execPoisonarrCombine s
  | .pkgnumWrite => Sys2Proof.Machine.execPkgnumWrite s
  | .qrstClear => Sys2Proof.Machine.execQrstClear s
  | .suptestArm => Sys2Proof.Machine.execSuptestArm s
  | .suptestRestore => Sys2Proof.Machine.execSuptestRestore s
  | .packageReset => Sys2Proof.Machine.execPackageReset s
  | .fullServiceChange => Sys2Proof.Machine.execFullServiceChange s
  | .controlRegisterWrite => Sys2Proof.Machine.execControlRegisterWrite s

end Sys2Proof.Machine
end

