-- ==== Sys2Proof/Machine/Sequencer.lean ====
section
/-! DEFINITION. Issuing a bundle (03_encoding.md R47 to R50, R358, 02_execution.md R34, R38, R40, 04_progress.md R76 to R92): decode, the
checks in the order of R358, the instructions in slot order, and what follows a fault, a hold, a block or an issue. -/

namespace Sys2Proof.Machine

/-! ### Decode (R47, R49, R50) -/

/-- A fault of the bundle being issued in a slot. -/
def State.trapAt (s : State) (slot : Nat) (f : Flt) : Trap := { s.mkTrap f.code f.sub f.info0 f.info1 with slot := slot }

/-- Whether a header breaks R47 while `n` loop levels enclose its bundle. -/
def headerBad (h : Header) (n : Nat) : Bool := (h.ps && !h.sl) || h.fst = 7 || h.lst = 7 || n < h.fst || n < h.lst

/-- The instructions of a bundle's words from slot `k` on, or the fault of the first word that has none; the header of slot 0 is
checked with its word. It applies to a word that is a defined no-op too (log 75); a word with a fate of its own raises that fate,
whatever its header (log 77). -/
def State.decodeFrom (s : State) (levels : Nat) : Nat → List Nat → Except Trap (List Instr)
  | _, [] => .ok []
  | k, w :: r =>
    match decodeWord (slotCls k) w with
    | .reserved => .error (s.trapAt k ⟨0x01, 0, w, 0⟩)
    | .permanent => .error (s.trapAt k ⟨0x01, 1, w, 0⟩)
    | .instr i =>
      if k = 0 && headerBad (headerOf w) levels then .error (s.trapAt 0 ⟨0x01, 2, w, 0⟩)
      else (s.decodeFrom levels (k + 1) r).map (i :: ·)

/-! ### Destinations that collide (R34) -/

/-- A destination register; s0 and g0 are none. -/
inductive Dest where
  | s (r : Nat)
  | v (r : Nat)
  | m (r : Nat)
  | g (i : Nat)
  | csr (n : Nat)
  deriving DecidableEq, Repr

/-- The destination that an instruction names; CALL and CALLG name s55, which they write (log 106). -/
def destOf : Instr → Option Dest
  | .call _ | .callg _ => some (.s 55)
  | .slateQ d | .slateT d | .add _ _ d _ _ | .sub _ _ d _ _ | .andS _ _ d _ _ | .orS _ _ d _ _ | .xorS _ _ d _ _
  | .andn _ _ d _ _ | .shl _ _ d _ _ | .shr _ _ d _ _ | .sar _ _ d _ _ | .minS _ _ d _ _ | .maxS _ _ d _ _
  | .minN _ _ d _ _ | .maxN _ _ d _ _ | .sel _ _ d _ _ | .clz _ _ d _ | .popc _ _ d _ | .mul _ _ d _ _
  | .mulh _ _ d _ _ | .mulhN _ _ d _ _ | .divS _ _ d _ _ | .divN _ _ d _ _ | .rem _ _ d _ _ | .remN _ _ d _ _
  | .tkcnt _ d _ | .csrr _ d _ | .rol _ _ d _ _ | .ror _ _ d _ _ | .ctz _ _ d _ | .addx1 _ _ d _ _ | .addx2 _ _ d _ _
  | .addx3 _ _ d _ _ | .addx8 _ _ d _ _ | .addi _ d _ _ | .lih d _ | .shli _ d _ _ | .shri _ d _ _ | .sari _ d _ _
  | .andi _ d _ _ | .ori _ d _ _ | .xori _ d _ _ | .roli _ d _ _ | .vredAdd _ _ d _ | .vredMax _ _ d _
  | .vredMin _ _ d _ | .mlive d _ | .ld _ _ d _ _ | .atom _ _ d _ _ | .tqpeek d _ | .xslot d _ | .xslotRel d _
  | .accept d _ | .pkey d _ _ | .plook d _ => some (.s d)
  | .cmp _ _ d _ _ | .gand _ d _ _ | .gor _ d _ _ | .gnot _ d _ | .gcopy _ d _ | .cmpi _ _ d _ _ | .vany _ _ d _
  | .vall _ _ d _ => some (.g d)
  | .vaddInt _ _ d _ _ | .vsubInt _ _ d _ _ | .vmulInt _ _ d _ _ | .vminInt _ _ d _ _ | .vmaxInt _ _ d _ _
  | .vminN _ _ d _ _ | .vmaxN _ _ d _ _ | .vaddSatI _ _ d _ _ | .vsubSatI _ _ d _ _ | .vaddSatN _ _ d _ _
  | .vsubSatN _ _ d _ _ | .vshl _ _ d _ _ | .vshr _ _ d _ _ | .vsar _ _ d _ _ | .vand _ d _ _ | .vor _ d _ _
  | .vxor _ d _ _ | .vandn _ d _ _ | .vaddFp _ _ d _ _ | .vsubFp _ _ d _ _ | .vmulFp _ _ d _ _ | .vfma _ _ d _ _
  | .vminFp _ _ d _ _ | .vmaxFp _ _ d _ _ | .vsel _ _ d _ _ | .vpermb _ d _ _ | .vshuf _ d _ _ | .vdot4 _ _ d _ _
  | .vbcast _ _ d _ _ | .vpack _ _ d _ _ | .vunpk _ _ d _ _ _ | .vcvt _ _ _ _ d _ | .vmov _ d _ | .vexp _ _ d _
  | .vrcp _ _ d _ | .vrsq _ _ d _ | .vlog _ _ d _ | .vscanAdd _ _ d _ | .vscanMax _ _ d _ | .vrng _ d _ | .vsat _ _ d _
  | .vsatN _ _ d _ | .vcompressG16 _ _ d _ | .vcompressG8 _ _ _ d _ | .vmovOq _ d _ _ | .vaddOqFp _ _ d _ _
  | .vmulOqFp _ _ d _ _ | .vfmaOq _ _ d _ _ | .vmaxOq _ _ d _ _ | .vaddOqInt _ _ d _ _ | .vmulOqInt _ _ d _ _
  | .vld _ d _ _ | .vgather _ d _ _ | .tqrecv d _ => some (.v d)
  | .vcmpInt _ _ _ d _ _ | .vcmpFp _ _ _ d _ _ => some (.m d)
  | .csrw _ _ d => some (.csr d)
  | _ => none

/-- The physical destination in a context, without the registers that discard writes. -/
def Ctx.dest (x : Ctx) (i : Instr) : Option Dest :=
  match destOf i with
  | some (.s r) => if x.phys .s r = 0 then none else some (.s (x.phys .s r))
  | some (.g r) => if r = 0 then none else some (.g r)
  | some (.v r) => some (.v (x.phys .v r))
  | d => d

/-- The first two slots that name one destination, from slot `k` on. -/
def collide : Nat → List (Option Dest) → Option (Nat × Nat)
  | _, [] => none
  | k, d :: r =>
    match d, r.findIdx? (· = d) with
    | some _, some j => some (k, k + 1 + j)
    | _, _ => collide (k + 1) r

/-! ### Slates and flags (R38, R40) -/

/-- The conditions of a slate (R40): the number of an open guard or of an outstanding BRD, checked first; a result in flight, or an
operand held by a port or by the context's array. A BIND in flight is none of them (log 105). -/
def State.slateFlt (s : State) (n k w0 : Nat) : Option Flt :=
  let x := s.ctx n k
  let c := s.core n
  let a := c.arr
  match x.g.find? (fun p => p.2.opn.isSome), x.brd with
  | some p, _ => some ⟨0x08, 7, p.1, 0⟩
  | none, some b => some ⟨0x08, 7, b.lit.idx, 0⟩
  | none, none =>
    if x.fl ≠ [] || x.ports.any (fun p => p.2.set.isSome && s.cyc < p.2.at_ + 8) ||
        (c.ownsArr k && (a.oq.any (fun q => q.2 ≠ []) || s.cyc < a.pendingUntil)) then some ⟨0x01, 4, w0, 0⟩
    else none

/-- Whether a bundle with these flags acts, or issues as NOP: in the body of a level with count 0, and outside its first or last
iterations (R38, R83). -/
def Seq.acts (q : Seq) (h : Header) : Bool :=
  !(q.loops.head?.any (·.zero)) && (h.fst = 0 || q.loops[h.fst - 1]?.any (·.iter = 0)) &&
    (h.lst = 0 || q.loops[h.lst - 1]?.any fun l => l.iter + 1 = l.count)

/-! ### Rules of the bundle as a whole (R358 step 3) -/

/-- The first instruction that breaks a rule, with its slot. -/
def State.firstBreak (s : State) (rule : State → Instr → Except Flt Unit) (is : List Instr) : Except Trap Unit :=
  match (is.zipIdx).findSome? fun p => match rule { s with iss := { s.iss with slot := p.2 } } p.1 with
    | .error f => some (s.trapAt p.2 f)
    | .ok () => none with
  | some t => .error t
  | none => .ok ()

/-- The rules of a bundle whose instructions are `is`: placement, delay bundles and an outstanding BRD, loop limits, the buffer of
512 bundles, slate spacing. -/
def State.bundleRules (s : State) (is : List Instr) (w0 : Nat) : Except Trap Unit := do
  let q := s.me.q
  s.firstBreak State.rulePlace is
  if q.xfer.isSome && s.iss.hdr.sl then .error (s.trapAt 0 ⟨0x01, 4, w0, 0⟩)
  s.firstBreak State.ruleSeq is
  s.firstBreak State.ruleLoop is
  if q.loops ≠ [] && !q.body.contains q.pc && 512 ≤ q.body.length then .error (s.trapAt 0 ⟨0x01, 4, w0, 0⟩)
  if !s.iss.hdr.sl && 16384 ≤ q.span then .error (s.trapAt 0 ⟨0x09, 0, q.span + 1, 0⟩)

/-! ### The instructions -/

/-- The instructions of slot 0 whose effect on loop levels, transfers and contexts follows that of the other slots: those read the
levels, rings and base that their bundle began with (R34). -/
def lateS : Instr → Bool
  | .lend | .loopReg _ | .loopImm _ | .br _ | .brc _ _ | .halt | .scene _ => true
  | _ => false

/-- Run instructions in order, each in its slot; the first fault ends the bundle, and the first block stands, but that of YIELD gives way
to any other: the bundle's arrival is made when it first tries to issue (R97). -/
def runSlots : List (Instr × Nat) → State → Host.Outcome State Fault Refusal
  | [], s => .next s
  | (i, k) :: r, s =>
    match exec i { s with iss := { s.iss with slot := k } } with
    | .next t =>
      if t.iss.fault.isSome then .next t
      else runSlots r { t with iss := { t.iss with
        block := if s.iss.block = some .yield then t.iss.block.or s.iss.block else s.iss.block.or t.iss.block } }
    | o => o

/-- An instruction of slot 0 that acts after the others. SCENE uses the LASTREL with which its bundle began, whatever a BAR beside it has
set since (R34, log 90). -/
def runLate (i : Instr) (k rel : Nat) (s : State) : Host.Outcome State Fault Refusal :=
  match i with
  | .scene d =>
    let now := s.me.q.lastrel
    if now = rel then runSlots [(.scene d, k)] s
    else match runSlots [(.scene d, k)] (s.modMe fun x => { x with q := { x.q with lastrel := rel } }) with
    | .next t => .next (t.modMe fun x => { x with q := { x.q with lastrel := now } })
    | o => o
  | i => runSlots [(i, k)] s

/-- The instructions of a bundle: slots 0 to 7; where that of slot 0 acts after the others, its checks alone come first. -/
def runBundleOrder (is : List Instr) (s : State) : Host.Outcome State Fault Refusal :=
  match is.zipIdx with
  | (i, k) :: r =>
    if lateS i then
      match runSlots [(i, k)] s with
      | .next t =>
        if t.iss.fault.isSome then .next t
        else match runSlots r s with
        | .next u => if u.iss.fault.isSome then .next u else runLate i k s.me.q.lastrel u
        | o => o
      | o => o
    else runSlots ((i, k) :: r) s
  | [] => .next s

/-- The context as its bundle issues: the base that a SCENE has set (R90), or that of a slip (R76), the scene-relative cycle of the next
bundle, the next bundle in sequence, the distinct bundles of the outermost open body (R83). -/
def Seq.issuing (q : Seq) (c : Nat) : Seq :=
  { q with
    st := .holder
    base := if q.away.isSome then q.base else if q.slip then c - q.srel else q.newBase.getD q.base
    newBase := if q.away.isSome then q.newBase else none
    slip := false
    srel := if q.away.isNone then q.srel + 1 else q.srel
    npc := q.pc + 32
    body := if q.loops = [] ∨ q.body.contains q.pc then q.body else q.pc :: q.body }

/-- A bundle that issues as NOP in the body of a level with count 0 (R83): its LOOP nests, its LEND ends the body. -/
def Seq.passZero (q : Seq) (is : List Instr) : Seq :=
  match q.loops, is.head? with
  | l :: r, some .lend => if l.zero then { q with loops := r, body := if r = [] then [] else q.body } else q
  | l :: _, some (.loopReg _) | l :: _, some (.loopImm _) =>
    if l.zero then { q with loops := ⟨q.pc + 32, 0, 0, true, []⟩ :: q.loops } else q
  | _, _ => q

/-- The context in cycle `c` of its bundle: a port that a resume gave back is loaded from its first bundle on (R331). -/
def Ctx.issuing (x : Ctx) (c : Nat) : Ctx :=
  { x with
    q := { x.q.issuing c with owns := false }
    ports := x.ports.map fun p => if p.2.refetch then (p.1, { p.2 with at_ := c, refetch := false }) else p }

/-- Context `k` of core `n` issues in this cycle: with its first bundle after a resume it owns the array again, unless another context
has taken it meanwhile (R218, log 86). -/
def State.issuing (s : State) (n k : Nat) : State :=
  let c := s.cyc
  let owns := (s.ctx n k).q.owns
  (s.modArr n fun a => if owns && a.owner.isNone then { a with owner := some k } else a).modCtx n k fun x => x.issuing c

/-- Run the bundle in state `s`: its instructions, or its flags alone. -/
def State.runBundle (s : State) (is : List Instr) : Host.Outcome State Fault Refusal :=
  let acts := s.me.q.acts s.iss.hdr
  let t := s.issuing s.iss.core s.iss.ctx
  if acts then runBundleOrder is t
  else .next (t.modSeq s.iss.core s.iss.ctx fun q => q.passZero is)

/-! ### After the bundle -/

/-- The context returns from its handler to user privilege (R84, R88): the set-aside levels are restored, unless it enters a
routine with the stop point in s55, which RET will return to. -/
def Ctx.returned (x : Ctx) : Ctx :=
  match x.q.aside with
  | [] => x
  | a :: r =>
    if x.q.pc ≠ a.pc ∧ (toWord ((oneVal (x.takes .s 55)).getD 0)).toNat = a.pc then x
    else { x with q := { x.q with
      loops := a.loops, body := a.body, xfer := if x.q.pc = a.pc then a.xfer else none,
      block := if x.q.pc = a.pc then a.block else none, aside := r } }

/-- Where a context goes after its bundle: on, or nearer to the target of a transfer that was under way before it (R79, R88). -/
def Ctx.advance (x : Ctx) (before : Option Xfer) : Ctx :=
  match before with
  | none => { x with q := { x.q with pc := x.q.npc } }
  | some f =>
    if 1 < f.left then { x with q := { x.q with pc := x.q.npc, xfer := some { f with left := f.left - 1 } } }
    else
      let x := { x with q := { x.q with pc := f.target, xfer := none, sup := f.eret.getD x.q.sup } }
      if f.eret = some false then x.returned else x

/-- The bundle has issued: its block is over, the slate-spacing count goes on or starts again (R92), a fault of point A is taken
(R88). `before` is the transfer that was under way. -/
def State.issued (s : State) (before : Option Xfer) : State :=
  let n := s.iss.core
  let k := s.iss.ctx
  let sl := s.iss.hdr.sl
  let s := s.modCtx n k fun x =>
    let x := { x with q := { x.q with block := none, yielded := false, span := if sl then 0 else x.q.span + 1 } }
    x.advance before
  let c := s.cyc
  let s := s.modCore n fun y => { y with idleAt := c }
  match s.iss.post with
  | some t => s.takeFault n k t
  | none => s

/-- A fault of the bundle at point I: held behind an outstanding BRD (R323), else taken. -/
def State.bundleFault (s : State) (n k : Nat) (t : Trap) : State :=
  if (s.ctx n k).brdOut s.cyc then
    s.modCtx n k fun x => { x with heldF := some t, q := { x.q with st := .holder } }
  else s.takeFault n k t

/-- The bundle is held for a cycle at the take limit (R180, R182): the hold is scene time (R76). -/
def State.heldCycle (s : State) (n k : Nat) : State :=
  s.modSeq n k fun q => { q with st := .holding, srel := if q.away.isNone then q.srel + 1 else q.srel }

/-- A YIELD that blocks: the context is Ready behind the others (R87). -/
def State.yieldNow (s : State) (n k : Nat) : State :=
  (s.modSeq n k fun q => { q with st := .ready, yielded := true, slip := true }).switch n

/-- The context is blocked on its bundle, and the core goes to another (R93, R94); a YIELD beside it has had its block. -/
def State.blocked (s : State) (n k : Nat) (b : BKind) : State :=
  let c := s.cyc
  (s.modSeq n k fun q => { q with st := .blocked, slip := true, yielded := true, block := some ⟨b, c, false, none, false⟩ }).switch n

/-- The operation of a bundle that blocks, in slot 7, joins what it waits for: a queue (R96), a barrier (R97), a combine (R290). -/
def State.enterBlock (s : State) (n k : Nat) (b : BKind) (i : Instr) : State :=
  let who := whoOf n k
  let c := s.cyc
  match b, i with
  | .yield, _ => s.yieldNow n k
  | .send t, _ =>
    let q := s.tq t
    (s.setTq t { q with sends := insertWaiter who c q.sends }).blocked n k b
  | .recv t, _ =>
    let q := s.tq t
    (s.setTq t { q with recvs := insertWaiter who c q.recvs }).blocked n k b
  | .bar _, .bar sc num sp =>
    let p := s.me.q.part
    let inst := scopeInst sc n
    let m := match s.singleS sp with
      | .ok m => if m = 0 then s.scopeSize p sc inst else m
      | .error _ => 0
    (s.blocked n k b).barArrive p sc inst num who m
  | .combine _ _, .combine rn sa =>
    match (s.singleS sa).bind fun a => s.ownRw a 1280 256 with
    | .ok pa =>
      let s := s.addReqs n 11 (rowsOf [offOf pa])
      (s.blocked n k b).combArrive who (offOf pa) rn
    | .error _ => s.blocked n k b
  | _, _ => s.blocked n k b

/-! ### Continuations (R204) -/

/-- Whether a continuation begins with the bundle of context `k` that stands in `q`. -/
def Cont.due (c : Cont) (k : Nat) (q : Seq) : Bool := c.pass.ctx = k && c.stop = some q.pc && c.pass.sup = q.sup

/-- The continuations that begin with the bundle of context `k`, in the order of their instructions. -/
def State.contsDue (s : State) (n k : Nat) : List Pass :=
  ((s.core n).arr.conts.filter fun c => c.due k (s.ctx n k).q).map (·.pass)

/-- Passes follow on the entry path, the first of them in cycle `x`. -/
def State.follow (s : State) (n x : Nat) : List Pass → State
  | [] => s
  | p :: r => (s.startPass n { p with x0 := x }).follow n (x + (p.live - p.r0)) r

/-- The first row of the continuation `p` enters in this cycle, and the others follow; those of the later continuations `r` come behind
them (log 84). A row whose bank a fill or a drain of a later instruction reads in this cycle is the one that faults (log 111). -/
def State.beginCont (s : State) (n k : Nat) (p : Pass) (r : List Pass) : Except Flt State := do
  let (t, f, row, w) ← s.enterRow n p p.r0
  let q := (s.ctx n k).q
  let p := { p with x0 := s.cyc }
  let t := t.modArr n fun a => { a with passes := a.passes ++ [p], conts := a.conts.filter fun c => !c.due k q }
  .ok ((t.rowIn n p p.r0 f row w).follow n (s.cyc + (p.live - p.r0)) r)

/-- What the instructions of a bundle have come to in state `t`: a fault, a hold or a block leaves `s` as it stood before them. -/
def State.conclude (s t : State) (is : List Instr) (done : State → State) : State :=
  let n := s.iss.core
  let k := s.iss.ctx
  match t.iss.fault, t.iss.hold, t.iss.block with
  | some f, _, _ => s.bundleFault n k f
  | none, true, _ => s.heldCycle n k
  | none, false, some b => s.enterBlock n k b (is.getD 7 .nop)
  | none, false, none => done t

/-- Issue the bundle: its instructions run, and a continuation that waits for the bundle enters its row before them. -/
def State.issueBundle (s : State) (is : List Instr) : Host.Outcome State Fault Refusal :=
  let n := s.iss.core
  let k := s.iss.ctx
  let before := s.me.q.xfer
  match s.runBundle is with
  | .next t =>
    match s.contsDue n k with
    | [] => .next (s.conclude t is fun t => t.issued before)
    | p :: r =>
      if t.iss.fault.isSome || t.iss.hold || t.iss.block.isSome then .next (s.conclude t is id)
      else match s.beginCont n k p r with
      | .error e => .next (s.lateFault n k (p.trap e))
      | .ok u =>
        match u.runBundle is with
        | .next t => .next (s.conclude t is fun t => t.issued before)
        | o => o
  | o => o

/-! ### An attempt to issue (R358) -/

/-- The stop at a slate that is pending for the context (R358 step 2). -/
def State.stopRow (s : State) (n k : Nat) : Option Instr :=
  let q := (s.ctx n k).q
  if q.preT.any (· ≤ s.cyc) then some (.preemptStop n k)
  else if s.canGate n then some (.coreGate n)
  else if q.dbg && s.attached q.part then some (.debugStop n k)
  else none

/-- The bundle of words `ws` is tried in this cycle; the cursor names its context. -/
def State.tryWords (s : State) (ws : List Nat) : Host.Outcome State Fault Refusal :=
  let n := s.iss.core
  let k := s.iss.ctx
  let w0 := ws.headD 0
  let h := headerOf w0
  match s.decodeFrom s.me.q.loops.length 0 ws with
  | .error t => .next (s.bundleFault n k t)
  | .ok is =>
    match collide 0 (is.map s.me.dest) with
    | some (a, b) => .next (s.bundleFault n k { s.trapAt a ⟨0x01, 3, ws.getD a 0, 0⟩ with slot2 := b })
    | none =>
      match (if h.sl then s.slateFlt n k w0 else none) with
      | some f => .next (s.bundleFault n k (s.trapAt 0 f))
      | none =>
        let live := is.filter fun i => match i with
          | .nop | .definedNop _ _ => false
          | _ => true
        let s : State := { s with iss := { s.iss with hdr := h, count := live.length } }
        let go : Host.Outcome State Fault Refusal :=
          let on := if s.me.q.acts h then is else []
          match s.bundleRules on w0 with
          | .error t => .next (s.bundleFault n k t)
          | .ok () =>
            let tw := on.any fun i => match i with
              | .takeWait _ j => s.me.gopen s.cyc j
              | _ => false
            ({ s with iss := { s.iss with tw := tw } } : State).issueBundle is
        match (if h.sl then s.stopRow n k else none) with
        | none => go
        | some row =>
          match exec row s with
          | .next t => if (t.ctx n k).q.st = .stopped ∨ (t.ctx n k).q.st = .free then .next t else go
          | o => o

/-- The stop point of the context is reached at user privilege: what a handler set aside is restored (R84), and the base slips
(R76). -/
def Ctx.atStop (x : Ctx) : Ctx :=
  if x.q.sup then x
  else
    let x := if x.q.away = some x.q.pc then { x with q := { x.q with away := none, slip := true } } else x
    match x.q.aside with
    | a :: r => if a.pc = x.q.pc then
        { x with q := { x.q with loops := a.loops, body := a.body, xfer := a.xfer, block := a.block, aside := r } } else x
    | [] => x

/-- The trap of the deferred-event table that is taken before the next bundle (R190, R359), and the context without it. -/
def Ctx.dueTrap (x : Ctx) : Option (Trap × Ctx) :=
  let ts := x.defer.filterMap fun e => if e.due then e.trap.filter fun t => !x.q.sup || t.sup else none
  (firstTrap ts).map fun t => ({ t with defer := true }, { x with defer := x.defer.filter fun e => !(e.due && e.trap = some t) })

/-- Core `n` tries to issue the bundle of its holder: pending faults come first, then the fetch (R311). -/
def State.tryBundle (s : State) (n : Nat) : Host.Outcome State Fault Refusal :=
  let k := (s.core n).holder
  let s := s.modCtx n k Ctx.atStop
  let x := s.ctx n k
  if x.pendF ≠ [] then .next (s.takePending n k)
  else match x.dueTrap with
  | some (t, x) => .next ((s.setCtx n k x).takeFault n k t)
  | none =>
    let s : State := { s with iss := { Iss.reset with core := n, ctx := k, pc := x.q.pc } }
    match s.fetch x x.q.pc with
    | none => .next (s.bundleFault n k (s.trapAt 0 (fetchFlt x.q.pc)))
    | some b => s.tryWords (bundleWords b)

/-! ### The cycle -/

/-- A branch of the holder of core `n` whose effect waits for the end of a hold (R192). -/
def State.brdWaits (s : State) (n : Nat) : Option Brd :=
  let x := s.ctx n (s.core n).holder
  if x.q.st = .holding then x.brd.filter fun b => b.taken = some true && b.effect ≤ s.cyc else none

/-- Whether the holder of a core issues in this cycle, or tries to (R17, R93). No other context of the core does (R75). -/
def State.mayIssue (s : State) (n : Nat) (c : Core) : Bool :=
  let x := c.ctx c.holder
  c.up && !c.gated && (s.die (dieOf n)).up && c.switchTo.isNone && (x.q.st == .holder || x.q.st == .holding) &&
    decide (x.q.at_ ≤ s.cyc) && x.fault.isNone && x.heldF.isNone

/-- The turn of core `n`: its holder tries its bundle. While it holds at the effect cycle of a taken branch, the hold goes on for as long
as that of the held bundle does, and then the target issues in its place (R192). -/
def State.attempt (s : State) (n : Nat) : Host.Outcome State Fault Refusal :=
  match s.brdWaits n with
  | none => s.tryBundle n
  | some b =>
    let k := (s.core n).holder
    match s.tryBundle n with
    | .next t =>
      if (t.ctx n k).q.st = .holding then .next t
      else
        let u := s.takeBrd n k b
        if u.mayIssue n (u.core n) then u.tryBundle n else .next u
    | o => o

/-- The arrival in this cycle that leaves too many segments in a result queue of the holder of core `n` (R197, R210). -/
def State.oqOver (s : State) (n : Nat) : Option Entry :=
  let c := s.core n
  s.cal.find? fun e => e.at_ = s.cyc && match e.ev with
    | .segmentArrival m id _ => m = n && c.arr.drains.any fun d => d.id = id && d.ctx = c.holder && 256 < (agetD c.arr.oq d.oq []).length
    | _ => false

/-- The turn of core `n`, unless a result queue of its holder overflows in this cycle: the bundle due then does not issue (R197). -/
def State.coreTurn (s : State) (n : Nat) : Host.Outcome State Fault Refusal :=
  match s.attempt n with
  | .next t =>
    match t.oqOver n with
    | some e => exec e.ev { s with cal := s.cal.erase e }
    | none => .next t
  | o => o

/-- The core that issues next in this cycle, in ascending number; one that has had its turn and may issue after all comes at once (R93). -/
def State.nextCore (s : State) : Option Nat :=
  (s.cores.find? fun c => (decide (s.ph ≤ phIssue + c.1) || c.2.again == some s.cyc) && s.mayIssue c.1 c.2).map (·.1)

/-- The turn of core `n` begins. -/
def State.beginTurn (s : State) (n : Nat) : State :=
  if s.ph ≤ phIssue + n then { s with ph := phIssue + n } else s.modCore n fun c => { c with again := none }

/-- The core that the power controller asks to gate (R349): it has not issued for the idle cycles of GATECTL. A core that it has asked, and
that could not be gated while its die's bit was clear, is asked again. -/
def State.idleCore (s : State) : Option Nat :=
  let r := s.reg (offMgmt + 0x18)
  if bits r 31 8 < 256 then none
  else (s.cores.find? fun c => c.2.idleAt + bits r 31 8 ≤ s.cyc && r.testBit (dieOf c.1) && c.2.up && !c.2.gated &&
    (!c.2.gateReq || s.canGate c.1) && c.2.ctxs.any fun x => x.2.q.st ≠ .free).map (·.1)

/-- The graph whose node executes in this cycle (R285). -/
def State.dueGraph (s : State) : Option Instr := s.graphs.findSome? fun g => s.graphRow g.1

/-- Whether an entry of the calendar has come: work of a phase before the issue of bundles is never late. -/
def State.dueNow (s : State) (e : Entry) : Bool := e.at_ < s.cyc || (e.at_ == s.cyc && (e.ph < phIssue || e.ph ≤ s.ph))

/-- The ring place that the scheduler is about to read as the head of a queue, if it lies in no region (R108, R228). -/
def State.badHead (s : State) : Option Nat :=
  (s.sq.find? fun q => q.2.en && q.2.back.isEmpty && (q.2.bells.any fun b => b.2 + 641 ≤ s.cyc) &&
    regionOf (q.2.place q.2.head) == .unmapped).map fun q => q.2.place q.2.head

/-- The phase in which the graphs have executed, and that in which the scheduler has selected. -/
def phGate : Nat := 3100
def phDone : Nat := 3800

/-- Whether an input comes through a BAR of the host link or through the pod's links. A package in reset answers neither, only its
configuration space (Table 20-5). -/
def Entry.needsService (e : Entry) : Bool :=
  match e.ev with
  | .hostMemoryAccess _ _ _ _ | .queueApertureWrite _ _ _ _ | .hostAtomicop _ | .zieshRequest _ _ _ _ _ _ | .debugImageWrite
  | .debugApertureAccess => true
  | ev => e.cw.who = 16 && [Instr.qtailDoorbell, .qcfgWrite, .preemptWrite, .gnodeWrite, .hrcfgWrite, .hrheadWrite, .expertSlotWrite,
      .partitionGrant, .partitionRevoke, .ownerChange, .mirrorWrite, .extWrite, .qreqWrite, .debugAttach, .debugResume, .dbgstopWrite,
      .tkill, .poisonarrBar, .poisonarrCombine, .pkgnumWrite, .qrstClear, .suptestArm, .suptestRestore, .controlRegisterWrite].contains ev

/-- Memory as it stands, kept for the bundles that entries from outside let issue in this cycle (R227). -/
def State.look (s : State) : Seen := { mem := s.mem, tags := s.tags, pois := s.pois, rpois := s.rpois }

/-- The machine with memory as the accesses from outside found it in this cycle: what the cores access comes before them (R227). -/
def State.past (s : State) : State :=
  match s.seen with
  | some k => { s with mem := k.mem, tags := k.tags, pois := k.pois, rpois := k.rpois }
  | none => s

/-- State `t`, in which a bundle has issued that writes no memory in its issue cycle (Table 12-1), with memory as it stands in `s`. -/
def State.present (s t : State) : State := { t with mem := s.mem, tags := s.tags, pois := s.pois, rpois := s.rpois }

/-- Core `n` has its turn. -/
def State.turnOf (s : State) (n : Nat) : Host.Outcome State Fault Refusal :=
  match (s.beginTurn n).coreTurn n with
  | .next t => .next { t with ph := max s.ph (phIssue + n + 1) }
  | o => o

/-- What comes from outside in this cycle is over: a holder that it has let issue does so in this cycle (R93), and reads memory as it stood
before the accesses from outside (R227, log 104). -/
def State.afterOutside (s : State) : Host.Outcome State Fault Refusal :=
  match s.nextCore with
  | some n =>
    match s.past.turnOf n with
    | .next t => .next (s.present t)
    | o => o
  | none => .next { s with ph := phSched, seen := none }

/-- Whether an entry from outside comes in this cycle. -/
def State.inputDue (s : State) : Bool := s.inputs.any fun e => e.at_ ≤ s.cyc

/-- The step, once the calendar holds nothing that is due: bundles issue core by core, then the outside, the graphs, the power
controller and the scheduler, then the next cycle. -/
def State.turn (s : State) : Host.Outcome State Fault Refusal :=
  if s.ph < phIssue then .next { s with ph := phIssue }
  else if s.ph < phSeg then
    match s.nextCore with
    | some n => s.turnOf n
    | none => .next { s with ph := phSeg }
  else if s.ph < phOut then .next { s.leave with ph := phOut, seen := if s.inputDue then some s.look else none }
  else if s.ph < phSched then
    match s.inputs with
    | e :: r =>
      if e.at_ ≤ s.cyc then
        (if s.svcMode = 0 ∧ e.needsService then .next { s with inputs := r } else exec e.ev { s with inputs := r, cw := e.cw })
      else s.afterOutside
    | [] => s.afterOutside
  else if s.ph < phGate then
    match s.dueGraph with
    | some i => exec i s
    | none => .next { s with ph := phGate }
  else if s.ph < phDone then
    match s.idleCore with
    | some n => exec (.gateRequest n) s
    | none =>
      match s.badHead with
      | some a => .fault (.unmapped a)
      | none =>
        let s : State := { s.lookQueues with ph := phDone }
        match s.selection with
        | some i => exec i s
        | none => .next s
  else .next { s.leave with cyc := s.cyc + 1, ph := 0 }

/-- One step of the machine: the first due entry of the calendar, or the next turn of the cycle. -/
def State.advance (s : State) : Host.Outcome State Fault Refusal :=
  match s.cal with
  | e :: r => if s.dueNow e then exec e.ev { s with cal := r, cw := e.cw } else s.turn
  | [] => s.turn

/-! ### Placing a bundle -/

/-- The bundle that holds word `w` in slot `k`, NOP in the others; a header flag where the instruction must stand in a slate. -/
def bundleOf (i : Option Instr) (k w : Nat) : Nat :=
  let h : Nat := if k = 0 then 0
    else match i with
      | some .psave => 2 ^ 31 + 2 ^ 30
      | some i => if slateOnly i then 2 ^ 31 else 0
      | none => 0
  h + w * 2 ^ (32 * k)

/-- Store bundle `b` where the holder of core 0 fetches next, and make it the next to issue: the holder is issuing, with an
instruction page for its pc, and nothing is due before it. -/
def State.placeBundle (s : State) (b : Nat) : State :=
  let k := (s.core 0).holder
  let x := s.ctx 0 k
  let pc := x.q.pc
  let page : ITEnt := ⟨pc / 0x4000000, 0, x.q.sup⟩
  let x := if (x.fetchPa x.q.sup pc).isSome then x else { x with q := { x.q with itlb := page :: x.q.itlb } }
  let pa := (x.fetchPa x.q.sup pc).getD 0
  let x := { x with fault := none, heldF := none, pendF := [], q := { x.q with st := .holder, at_ := s.cyc } }
  let c := { (s.core 0).setCtx k x with switchTo := none, up := true, gated := false }
  let s := ((s.setCore 0 c).modDie 0 fun d => { d with up := true }).store pa 32 b
  let s : State := { s with ph := phIssue }
  { s with cal := s.cal.filter fun e => !s.dueNow e }

end Sys2Proof.Machine
end

