-- ==== Sys2Proof/Machine/Step.lean ====
section
/-! DEFINITION. One step of the machine, and the placing of an instruction where the step fetches next. -/

namespace Sys2Proof.Machine

/-- One step (`State.advance`): the first entry of the calendar that is due, or the next turn of the cycle; a bundle that issues is
one step. -/
def step (s : State) : Host.Outcome State Fault Refusal := s.advance

/-- The state with the instruction of `nbits` bits `w` stored where the step fetches next: in the bundle at the pc of the holder of
core 0, in the first slot of its class. It stands for the launch of a task (log 12). -/
def State.withFetchWord (s : State) (nbits w : Nat) : State :=
  let i := decodeTableWord nbits w
  s.placeBundle (bundleOf i (i.elim 0 tableSlot) w)

end Sys2Proof.Machine
end

