-- ==== Sys2Proof/Safety.lean ====
section
/-! DEFINITION. The terms in which claims are stated: the invariant of every run, what it means that an instruction completes, operands
that read as one value, results in flight, lanes, and what stays unchanged. -/

namespace Sys2Proof.Machine

/-! ### The invariant -/

/-- What every step keeps: memory is in its canonical form (log 2). -/
def State.Inv (s : State) : Prop := Memory.wf s.mem

/-! ### Completion -/

/-- Instruction `i` completes in state `s`: `exec` answers a next state, nothing is raised, held or blocked in the bundle being issued
that was not before, and the next state has property `P`. -/
def Completes (i : Instr) (s : State) (P : State → Prop) : Prop :=
  ∃ t, exec i s = .next t ∧ t.iss.fault = s.iss.fault ∧ t.iss.hold = s.iss.hold ∧ t.iss.block = s.iss.block ∧ P t

/-- Instruction `i` raises fault `f` at point I in state `s` and does nothing else (R358). -/
def Raises (i : Instr) (s : State) (f : Flt) : Prop := exec i s = .next (s.raiseFlt f)

/-- Event `i` happens in state `s`: the step performs it, and the next state has property `P`. -/
def Happens (i : Instr) (s : State) (P : State → Prop) : Prop := ∃ t, exec i s = .next t ∧ P t

/-! ### Operands -/

/-- The register that field `r` of class `c` names holds one take, of value `x`, and is not poisoned. -/
def State.Reads (s : State) (c : RCls) (r : Nat) (x : Vec) : Prop :=
  s.me.rd c r = oneTake x ∧ s.poisonReg c (s.me.phys c r) = false

/-- The guard literal of an instruction is landed true, with no deferred branch outstanding. -/
def State.Plain (s : State) (g : Lit) : Prop := s.wlit g = some Cube.tt

/-- The 2 cycles that cold registers among the vector fields `rs` add (R20). -/
def State.cold (s : State) (rs : List Nat) : Nat := if rs.any fun r => 32 ≤ s.me.phys .v r then 2 else 0

/-! ### Results -/

/-- Result `x` with events `ev` is in flight to the register that field `r` of class `c` names, and lands `lat` cycles after issue. -/
def State.lands (s : State) (lat : Nat) (c : RCls) (r : Nat) (x : Vec) (ev : Nat) : State :=
  s.flight Cube.tt (s.cyc + lat) c (s.me.phys c r) [⟨Cube.tt, x, ev, none⟩]

/-- A scalar result without events. -/
abbrev State.landsS (s : State) (lat sd : Nat) (x : Word) : State := s.lands lat .s sd (ofWord x) 0

/-! ### What the scalar instructions compute -/

/-- The register forms of scalar arithmetic, logic and shifts: instruction, latency, and result of the two 64-bit operands
(Table 06-2, R138, R141, R142). -/
def scalarForms : List ((Lit → Bool → Nat → Nat → Nat → Instr) × Nat × (Word → Word → Word)) :=
  [(.add, 1, fun a b => a + b), (.sub, 1, fun a b => a - b), (.andS, 1, fun a b => a &&& b), (.orS, 1, fun a b => a ||| b),
   (.xorS, 1, fun a b => a ^^^ b), (.andn, 1, fun a b => a &&& ~~~b), (.shl, 1, fun a b => a <<< (b.toNat % 64)),
   (.shr, 1, fun a b => a >>> (b.toNat % 64)), (.sar, 1, fun a b => a.sshiftRight (b.toNat % 64)),
   (.minS, 1, fun a b => if b.toInt < a.toInt then b else a), (.maxS, 1, fun a b => if a.toInt < b.toInt then b else a),
   (.minN, 1, fun a b => if b.toNat < a.toNat then b else a), (.maxN, 1, fun a b => if a.toNat < b.toNat then b else a),
   (.rol, 1, fun a b => a.rotateLeft (b.toNat % 64)), (.ror, 1, fun a b => a.rotateRight (b.toNat % 64)),
   (.addx1, 1, fun a b => a + b * 2), (.addx2, 1, fun a b => a + b * 4), (.addx3, 1, fun a b => a + b * 8),
   (.addx8, 1, fun a b => a + b * 256), (.mul, 3, fun a b => a * b),
   (.mulh, 3, fun a b => BitVec.ofInt 64 (a.toInt * b.toInt / 2 ^ 64)),
   (.mulhN, 3, fun a b => BitVec.ofNat 64 (a.toNat * b.toNat / 2 ^ 64))]

/-- The conditions of Table 03-9 on two scalar values. -/
def conditionHolds (cond : Nat) (a b : Word) : Bool :=
  match cond with
  | 0 => a == b
  | 1 => a != b
  | 2 => a.slt b
  | 3 => b.sle a
  | 4 => a.ult b
  | 5 => b.ule a
  | 6 => a.sle b
  | _ => b.slt a

/-! ### Lanes -/

/-- Lane `i` of width `w` of a register value. -/
def laneAt (w : Nat) (x : Vec) (i : Nat) : Nat := x.toNat / 2 ^ (w * i) % 2 ^ w

/-- The register value whose lane `i` of width `w` is `f i`. -/
def ofLanes (w : Nat) (f : Nat → Nat) : Vec := pack w ((List.range (2048 / w)).map f)

/-- The lanes of a masked operation (R134): `f i` where bit `i` of `q` is 1, the lane of `d` elsewhere. -/
def maskedValue (w : Nat) (q d : Vec) (f : Nat → Nat × Nat) : Vec :=
  ofLanes w fun i => if q.toNat.testBit i then (f i).1 else laneAt w d i

/-- The events of its active lanes. -/
def maskedEvents (w : Nat) (q : Vec) (f : Nat → Nat × Nat) : Nat :=
  (List.range (2048 / w)).foldr (fun i e => if q.toNat.testBit i then evOr (f i).2 e else e) 0

/-- Source b of an instruction with literal `g` is read: state `t` is `s` after a pop, if it is one, and `y` its one value (Table 03-11). -/
def State.ReadsB (s : State) (g : Lit) (vb : Nat) (imm : Int → Vec) (t : State) (y : Vec) : Prop :=
  ∃ b, s.srcB g vb imm = .ok (t, b) ∧ b.ts = oneTake y ∧ b.poison = false ∧ b.cold = false

/-- What a masked operation on va in lanes of width `w` reads: va, the mask m0, and where some lane is inactive the old vd. -/
structure State.LaneReady (s : State) (g : Lit) (w vd va : Nat) (x d q : Vec) : Prop where
  plain : s.Plain g
  src : s.Reads .v va x
  mask : s.Reads .m 0 q
  old : q.toNat % 2 ^ (2048 / w) ≠ 2 ^ (2048 / w) - 1 → s.Reads .v vd d

/-- The result of a masked operation of latency `lat` in lanes of width `w`: the registers `rs`, and vd where a lane is inactive, add
their cycles if they are cold; `ev` is recorded with the events of the active lanes. -/
def State.landsLanes (s : State) (lat w vd : Nat) (rs : List Nat) (d q : Vec) (ev : Nat) (f : Nat → Nat × Nat) : State :=
  let part := q.toNat % 2 ^ (2048 / w) ≠ 2 ^ (2048 / w) - 1
  s.lands (lat + s.cold (rs ++ if part then [vd] else [])) .v vd (maskedValue w q d f) (evOr ev (maskedEvents w q f))

/-! ### What the vector instructions compute, lane by lane -/

/-- A lane of `w` bits. -/
abbrev lane (w : Nat) (x : Vec) (i : Nat) : BitVec w := BitVec.ofNat w (laneAt w x i)

/-- An integer clamped to a range of `w`-bit lanes, with the event SA where it was outside. -/
def clampLane (w : Nat) (lo hi x : Int) : BitVec w × Nat :=
  if x < lo then (BitVec.ofInt w lo, evSA) else if hi < x then (BitVec.ofInt w hi, evSA) else (BitVec.ofInt w x, 0)

/-- The integer forms on va and source b: instruction, and the lane it gives of two lanes, with its events (R147). -/
def laneForms : List ((Lit → Nat → Nat → Nat → Nat → Instr) × ((w : Nat) → BitVec w → BitVec w → BitVec w × Nat)) :=
  [(.vaddInt, fun _ a b => (a + b, 0)), (.vsubInt, fun _ a b => (a - b, 0)), (.vmulInt, fun _ a b => (a * b, 0)),
   (.vminInt, fun _ a b => (if b.slt a then b else a, 0)), (.vmaxInt, fun _ a b => (if a.slt b then b else a, 0)),
   (.vminN, fun _ a b => (if b.ult a then b else a, 0)), (.vmaxN, fun _ a b => (if a.ult b then b else a, 0)),
   (.vaddSatI, fun w a b => clampLane w (-(2 ^ (w - 1))) (2 ^ (w - 1) - 1) (a.toInt + b.toInt)),
   (.vsubSatI, fun w a b => clampLane w (-(2 ^ (w - 1))) (2 ^ (w - 1) - 1) (a.toInt - b.toInt)),
   (.vaddSatN, fun w a b => clampLane w 0 (2 ^ w - 1) ((a.toNat : Int) + b.toNat)),
   (.vsubSatN, fun w a b => clampLane w 0 (2 ^ w - 1) ((a.toNat : Int) - b.toNat)),
   (.vshl, fun _ a b => (a <<< b.toNat, 0)), (.vshr, fun _ a b => (a >>> b.toNat, 0)),
   (.vsar, fun _ a b => (a.sshiftRight b.toNat, 0))]

/-- The bitwise forms. -/
def logicForms : List ((Lit → Nat → Nat → Nat → Instr) × (BitVec 32 → BitVec 32 → BitVec 32)) :=
  [(.vand, fun a b => a &&& b), (.vor, fun a b => a ||| b), (.vxor, fun a b => a ^^^ b), (.vandn, fun a b => a &&& ~~~b)]

/-! ### What stays unchanged -/

/-- The landed registers of a context, and its trap CSRs, windows and handles, are unchanged. -/
def Ctx.SameRegs (x y : Ctx) : Prop :=
  y.s = x.s ∧ y.v = x.v ∧ y.m = x.m ∧ y.hnd = x.hnd ∧ y.win = x.win ∧ y.tr = x.tr

/-- Every byte of memory reads as before, and so do the tags and the poison of its granules. -/
def State.SameMem (s t : State) : Prop :=
  (∀ a, memByte t.mem a = memByte s.mem a) ∧ t.tags = s.tags ∧ t.pois = s.pois

/-- Every byte outside the `n` bytes from `a` on reads as before. -/
def State.SameBut (s t : State) (a n : Nat) : Prop := ∀ b, (b < a ∨ a + n ≤ b) → memByte t.mem b = memByte s.mem b

/-- The `n` bytes from `a` on hold the value `v`, little-endian; every other byte of memory reads as before. -/
def State.Wrote (s t : State) (a n v : Nat) : Prop :=
  (∀ i < n, memByte t.mem (a + i) = BitVec.ofNat 8 (v / 2 ^ (8 * i))) ∧ s.SameBut t a n

/-- Every context of every core is as before. -/
def State.SameCtxs (s t : State) : Prop := ∀ n k : Nat, t.ctx n k = s.ctx n k

/-- Every context of every core but context `k` of core `n` is as before. -/
def State.SameOthers (s t : State) (n k : Nat) : Prop := ∀ m j : Nat, ¬ (m = n ∧ j = k) → t.ctx m j = s.ctx m j

end Sys2Proof.Machine
end

