-- ==== Sys2Proof/Certificates/Slice0/Obligations.lean ====
section
/-! DEFINITION. The statements about the model, for the provers: one `Obligations.<Name>` each, listed in OBLIGATIONS.json. -/

open Sys2Proof Sys2Proof.Machine

/-! ## Encoding -/

/-- A word decodes to the instruction it encodes: for every slot class and every well-formed instruction that class carries,
with every operand at every value its field can hold; NOP in every class; a defined no-operation to itself (Tables 03-4 to
03-19, R49). A slot-0 word carries its header beside the control instruction: both are read back (R46, Table 03-1). -/
def Obligations.DecodeEncode : Prop :=
  ((∀ (i : Instr) (k : Cls), i.WellFormed → (i.cls = some k ∨ i = .nop) → (∀ cl w, i ≠ .definedNop cl w) →
    decodeWord k (encode i) = .instr i) ∧
  ∀ (k : Cls) (w : Nat), definedNopWord k w = true → decodeWord k w = .instr (.definedNop k w)) ∧
  (∀ (h : Header) (i : Instr), h.wf → i.WellFormed → (i.cls = some .c ∨ i = .nop) → (∀ cl w, i ≠ .definedNop cl w) →
    encodeSlot0 h i < 2 ^ 32 ∧ headerOf (encodeSlot0 h i) = h ∧ decodeWord .c (encodeSlot0 h i) = .instr i)

/-- Words written out from the encoding tables decode to the instructions they stand for, one or two of each class; the
permanently illegal word and a word of a reserved range decode to none. -/
def Obligations.DecodeWords : Prop :=
  decodeWord .c 0x0004FFFF = .instr (.br 65535) ∧ decodeWord .c 0x00340012 = .instr (.trap 0x12) ∧
  decodeWord .s 0x00043085 = .instr (.add .always false 3 2 5) ∧
  decodeWord .s 0x5F003FFF = .instr (.addi ⟨true, 15⟩ 0 3 (-1)) ∧
  decodeWord .v 0x00104104 = .instr (.vaddInt .always 0 1 2 2) ∧
  decodeWord .m 0x04000000 = .instr .mown ∧ decodeWord .l 0x10008405 = .instr (.ld .always 3 1 2 5) ∧
  decodeWord .q 0x04418000 = .instr (.rtx 1 3) ∧
  decodeWord .s 0xFFFFFFFF = .permanent ∧ decodeWord .m 0x34000000 = .reserved

/-! ## The step -/

/-- A step runs the decoded bundle: where nothing in the calendar is due and the holder of core `n` issues next, in the cores'
turn or behind what came from outside and let it, the 32 bytes at its pc are fetched, each word is decoded, and where the checks
of R358 pass the instructions run in it, in slot order; the context then stands at the next pc that the bundle left, and the
turn goes on to the next core. Where an instruction raises a fault, the bundle does not issue: the state stands as it did before
the instructions, the fault is taken or held (`bundleFault`), and the turn goes on. A bundle that something from outside let
issue reads memory as it stood before the accesses from outside of its cycle, which then stand (R227). Shut out: a hold at the
effect cycle of a taken branch (R192), a continuation (R204), and a result queue that overflows in this cycle (R197). A bundle
that holds one instruction beside NOPs runs that instruction in its slot: what the bundle comes to is what `exec` answers there.
A fault ends the bundle: it comes to the state of the fault, and no instruction behind it runs. Points that the spec leaves to a
reading stand as the model’s log entries 13, 19, 25, 37, 60, 104 and 106 say. -/
def Obligations.StepRunsDecodedBundle : Prop :=
  (∀ (s r s1 s2 s3 s4 t : State) (n k b w0 : Nat) (x : Ctx) (h : Header) (is on : List Instr),
    (∀ e, s.cal.head? = some e → s.dueNow e = false) → phIssue ≤ s.ph →
    s.ph < phSeg ∨ (phOut ≤ s.ph ∧ s.ph < phSched ∧ ∀ e, s.inputs.head? = some e → s.cyc < e.at_) → s.nextCore = some n →
    r = (match if s.ph < phSeg then none else s.seen with
      | some k => { s with mem := k.mem, tags := k.tags, pois := k.pois, rpois := k.rpois }
      | none => s) →
    (r.beginTurn n).brdWaits n = none → k = (s.core n).holder → s1 = (r.beginTurn n).modCtx n k Ctx.atStop →
    x = s1.ctx n k → x.pendF = [] → x.dueTrap = none →
    s2 = { s1 with iss := { Iss.reset with core := n, ctx := k, pc := x.q.pc } } →
    s2.fetch x x.q.pc = some b → w0 = b % 2 ^ 32 → h = headerOf w0 →
    s2.decodeFrom x.q.loops.length 0 (bundleWords b) = .ok is → collide 0 (is.map x.dest) = none →
    s3 = { s2 with iss := { s2.iss with hdr := h, count := (is.filter fun i => match i with
      | .nop | .definedNop _ _ => false
      | _ => true).length } } →
    (h.sl = true → s2.slateFlt n k w0 = none ∧ s3.stopRow n k = none) →
    on = (if x.q.acts h then is else []) → s3.bundleRules on w0 = .ok () →
    s4 = { s3 with iss := { s3.iss with tw := on.any fun i => match i with
      | .takeWait _ j => s3.me.gopen s.cyc j
      | _ => false } } →
    s4.contsDue n k = [] → s4.runBundle is = .next t →
    let after (u : State) : State :=
      let u : State := { u with ph := max s.ph (phIssue + n + 1) }
      if s.ph < phSeg then u else { u with mem := s.mem, tags := s.tags, pois := s.pois, rpois := s.rpois }
    (t.iss.fault = none → t.iss.hold = false → t.iss.block = none → (t.issued x.q.xfer).oqOver n = none →
      step s = .next (after (t.issued x.q.xfer))) ∧
    ∀ f, t.iss.fault = some f → (s4.bundleFault n k f).oqOver n = none → step s = .next (after (s4.bundleFault n k f))) ∧
  (∀ (s u : State) (i : Instr) (k : Nat), k < 8 → (lateS i = true → k = 0) → s.iss.block = none → s.iss.fault = none →
    exec i { s with iss := { s.iss with slot := k } } = .next u →
    (u.iss.fault = none → runBundleOrder ((List.replicate 8 .nop).set k i) s =
      .next { u with iss := { u.iss with slot := if lateS i = true then 0 else 7 } }) ∧
    (u.iss.fault.isSome = true → ∀ r : List Instr, r.length = 7 - k →
      runBundleOrder (List.replicate k .nop ++ i :: r) s = .next u))

/-- A step performs the first calendar entry that is due, an input of the outside that is due, or passes to the next cycle;
requests whose turn has come leave the package first, and memory is kept as it stands for the bundles that such an input lets
issue (R227). While SVC.MODE is 0 an input that comes through a BAR or a link of the pod is not answered: it is gone without
effect (Table 20-5). Points that the spec leaves to a reading stand as the model’s log entries 13, 14, 101 and 104 say. -/
def Obligations.StepRunsDueWork : Prop :=
  (∀ (s : State) (e : Entry) (r : List Entry), s.cal = e :: r → (e.at_ < s.cyc ∨ (e.at_ = s.cyc ∧ (e.ph < phIssue ∨ e.ph ≤ s.ph))) →
    step s = exec e.ev { s with cal := r, cw := e.cw }) ∧
  (∀ (s : State) (e : Entry) (r : List Entry), (∀ f, s.cal.head? = some f → s.dueNow f = false) → s.inputs = e :: r →
    e.at_ ≤ s.cyc → phOut ≤ s.ph → s.ph < phSched →
    (s.svcMode ≠ 0 ∨ e.needsService = false → step s = exec e.ev { s with inputs := r, cw := e.cw }) ∧
    (s.svcMode = 0 → e.needsService = true → step s = .next { s with inputs := r })) ∧
  (∀ s : State, (∀ f, s.cal.head? = some f → s.dueNow f = false) → phOut ≤ s.ph → s.ph < phSched →
    (∀ e, s.inputs.head? = some e → s.cyc < e.at_) → s.nextCore = none → step s = .next { s with ph := phSched, seen := none }) ∧
  (∀ s : State, (∀ f, s.cal.head? = some f → s.dueNow f = false) → phSeg ≤ s.ph → s.ph < phOut →
    step s = .next { s.leave with
      ph := phOut
      seen := if ∃ e ∈ s.inputs, e.at_ ≤ s.cyc then some ⟨s.mem, s.tags, s.pois, s.rpois⟩ else none }) ∧
  ∀ s : State, (∀ f, s.cal.head? = some f → s.dueNow f = false) → phDone ≤ s.ph →
    step s = .next { s.leave with cyc := s.cyc + 1, ph := 0 }

/-- Memory stays in its canonical form whatever the step does: an invariant of every state, not of one run (log 2). -/
def Obligations.StepKeepsMemoryForm : Prop :=
  ∀ s t : State, s.Inv → step s = .next t → t.Inv

/-- The state after reset meets the invariant; every context is Free with no guard open, memory lists nothing, the completion
table has no entry, every queue is disabled, no partition holds anything, no task runs. SCENEBASE, SRKEY, SRCTR, ASTAT, COMPAT,
TCAUSE, TPC and TFPC read 0 (R28, R100, R120, Tables 06-1, 17-1, 17-5, 18-2); every scalar and vector register, TINFO0, TINFO1
and TSCR0 to TSCR3 hold 0 and every mask all ones. That memory lists nothing, that the completion table is empty, that nothing
is held or in flight at reset, and the values of the registers of the second list, to which the spec gives none, are the model's
choices. Points that the spec leaves to a reading stand as the model’s log entries 1, 2, 3 and 4 say. -/
def Obligations.ResetState : Prop :=
  State.reset.Inv ∧ State.reset.mem = [] ∧ State.reset.cyc = 0 ∧ State.reset.tasks = [] ∧ State.reset.comp = [] ∧
  ∀ n k : Nat, (State.reset.ctx n k).q.st = .free ∧ (State.reset.ctx n k).anyOpen = false ∧
    (State.reset.ctx n k).fl = [] ∧
    (∀ r, (State.reset.ctx n k).takes .s r = oneTake 0 ∧ (State.reset.ctx n k).takes .v r = oneTake 0 ∧
      (State.reset.ctx n k).takes .m r = oneTake (BitVec.ofNat 2048 (2 ^ 512 - 1))) ∧
    (∀ (c : Iss), ∀ a ∈ [0x002, 0x010, 0x011, 0x012, 0x101, 0x180, 0x181, 0x182, 0x183, 0x184, 0x185, 0x186, 0x187, 0x188],
      ({ State.reset with iss := c } : State).csrVal a = some 0) ∧ (agetD State.reset.sq n SQ.reset).en = false ∧
    (n < 16 → k < 512 → State.reset.holdsCore n k = false ∧ State.reset.holdsStore n k = false ∧ State.reset.holdsTq n k = false)

/-- Memory is little-endian: a byte reads as the store left it within the stored bytes, least significant first, and as before
outside them; a whole value reads back. Lane i of width w of a 2048-bit value is its bits w·i to w·i + w − 1, lane 0 the least
significant, for registers, segments, flits and port operands alike, which are all such values (R5). -/
def Obligations.MemoryReadAfterWrite : Prop :=
  (∀ (x : Vec) (f : Nat → Nat) (w i : Nat), w ∈ [4, 8, 16, 32, 64] → i < 2048 / w →
    (∀ j, j < w → (laneAt w x i).testBit j = x.getLsbD (w * i + j)) ∧ laneAt w x i < 2 ^ w ∧
    laneAt w (ofLanes w f) i = f i % 2 ^ w) ∧
  ∀ (s : State) (a n v b : Nat), s.Inv →
    memByte (s.store a n v).mem b = (if a ≤ b ∧ b < a + n then BitVec.ofNat 8 (v / 2 ^ (8 * (b - a))) else memByte s.mem b) ∧
    (s.store a n v).load a n = v % 2 ^ (8 * n) ∧ (s.store a n v).Inv

/-! ## Scalar instructions -/

/-- ADD, SUB, AND, OR, XOR, ANDN, SHL, SHR, SAR, MIN, MAX, MIN.n, MAX.n, ROL, ROR, ADDX.1, .2, .3, .8, MUL, MULH and MULH.n
complete on single-valued operands: the result of Table 06-2 is in flight to sd, and lands after the instruction's latency. -/
def Obligations.ScalarRegisterForms : Prop :=
  ∀ o ∈ scalarForms, ∀ (s : State) (g : Lit) (h : Bool) (sd sa sb : Nat) (a b : Word),
    s.Plain g → s.Reads .s sa (ofWord a) → s.Reads .s sb (ofWord b) →
    exec (o.1 g h sd sa sb) s = .next (s.landsS o.2.1 sd (o.2.2 a b))

/-- Operands with several takes (R178): one result for each combination of takes whose conditions agree, under that condition,
and the write literal of the instruction, be it open or true; a literal landed false leaves no effect (R177); a poisoned operand
raises the poison fault (R338). Points that the spec leaves to a reading stand as the model’s log entries 28 and 62 say. -/
def Obligations.ScalarTakes : Prop :=
  ∀ o ∈ scalarForms, ∀ (s : State) (g : Lit) (h : Bool) (sd sa sb : Nat),
    (s.wlit g = none → exec (o.1 g h sd sa sb) s = .next s) ∧
    ∀ w, s.wlit g = some w →
      (s.poisonReg .s (s.me.phys .s sa) = true → Raises (o.1 g h sd sa sb) s ⟨0x0C, 0, 0, s.me.phys .s sa⟩) ∧
      (s.poisonReg .s (s.me.phys .s sa) = false → s.poisonReg .s (s.me.phys .s sb) = true →
        Raises (o.1 g h sd sa sb) s ⟨0x0C, 0, 0, s.me.phys .s sb⟩) ∧
      (s.poisonReg .s (s.me.phys .s sa) = false → s.poisonReg .s (s.me.phys .s sb) = false →
        exec (o.1 g h sd sa sb) s = s.finish (s.writeBack w h true o.2.1 .s sd
          ((s.me.rd .s sa).flatMap fun t => (s.me.rd .s sb).filterMap fun u =>
            (t.cube.conj u.cube).map fun k => ⟨k, ofWord (o.2.2 (toWord t.x) (toWord u.x)), 0, none⟩)))

/-- The immediate forms ADDI, SHLI, SHRI, SARI, ROLI, ANDI, ORI, XORI complete on a single-valued operand, with the immediate as
an integer; LIH writes its immediate times 2^12, sign-extended from bit 31, and has no guard field, but the literal of an
outstanding deferred branch applies to it (R139, R140). CLZ, CTZ and POPC complete: leading zeros, trailing zeros, set bits; 64
for the zero operand of the first two (Table 06-2). SEL takes sa where its literal is true and sb where it is false; under an
open guard both results are in flight, each under its condition (R145). TKCNT counts the takes of sa (R183). -/
def Obligations.ScalarImmediates : Prop :=
  ((∀ (s : State) (sd m : Nat), m < 2 ^ 20 →
    (s.wlit .always = none → exec (.lih sd m) s = .next s) ∧
    ∀ w, s.wlit .always = some w → exec (.lih sd m) s = s.finish (s.writeBack w false true 1 .s sd
      [⟨Cube.tt, ofWord ((BitVec.ofNat 32 (m * 2 ^ 12)).signExtend 64), 0, none⟩])) ∧
  ∀ (s : State) (g : Lit) (sd sa n : Nat) (imm : Int) (a : Word), s.Plain g → s.Reads .s sa (ofWord a) → n < 64 →
    exec (.addi g sd sa imm) s = .next (s.landsS 1 sd (a + BitVec.ofInt 64 imm)) ∧
    exec (.shli g sd sa n) s = .next (s.landsS 1 sd (a <<< n)) ∧
    exec (.shri g sd sa n) s = .next (s.landsS 1 sd (a >>> n)) ∧
    exec (.sari g sd sa n) s = .next (s.landsS 1 sd (a.sshiftRight n)) ∧
    exec (.roli g sd sa n) s = .next (s.landsS 1 sd (a.rotateLeft n)) ∧
    exec (.andi g sd sa imm) s = .next (s.landsS 1 sd (a &&& BitVec.ofInt 64 imm)) ∧
    exec (.ori g sd sa imm) s = .next (s.landsS 1 sd (a ||| BitVec.ofInt 64 imm)) ∧
    exec (.xori g sd sa imm) s = .next (s.landsS 1 sd (a ^^^ BitVec.ofInt 64 imm)) ∧
    ∀ m : Nat, m < 2 ^ 20 → s.Plain .always →
      exec (.lih sd m) s = .next (s.landsS 1 sd ((BitVec.ofNat 32 (m * 2 ^ 12)).signExtend 64))) ∧
  (∀ (s : State) (g : Lit) (h : Bool) (sd sa n : Nat) (a : Word), s.Plain g → s.Reads .s sa (ofWord a) →
    ((a = 0 ∧ n = 64 ∨ n < 64 ∧ 2 ^ (63 - n) ≤ a.toNat ∧ a.toNat < 2 ^ (64 - n)) →
      exec (.clz g h sd sa) s = .next (s.landsS 1 sd (BitVec.ofNat 64 n))) ∧
    ((a = 0 ∧ n = 64 ∨ n < 64 ∧ a.getLsbD n = true ∧ ∀ j < n, a.getLsbD j = false) →
      exec (.ctz g h sd sa) s = .next (s.landsS 1 sd (BitVec.ofNat 64 n))) ∧
    (n = ((List.range 64).filter fun i => a.getLsbD i).length →
      exec (.popc g h sd sa) s = .next (s.landsS 1 sd (BitVec.ofNat 64 n)))) ∧
  (∀ (s : State) (g l : Lit) (h : Bool) (sd sa sb : Nat) (a b : Word),
    (s.Plain .always → s.Reads .s sa (ofWord a) → s.Reads .s sb (ofWord b) →
      (s.me.lit s.cyc l = .const true → exec (.sel l h sd sa sb) s = .next (s.landsS 1 sd a)) ∧
      (s.me.lit s.cyc l = .const false → exec (.sel l h sd sa sb) s = .next (s.landsS 1 sd b)) ∧
      (∀ k, s.me.lit s.cyc l = .opn k → exec (.sel l h sd sa sb) s = s.finish (s.writeBack Cube.tt h true 1 .s sd
        [⟨k, ofWord a, 0, none⟩, ⟨Cube.lit l.idx !l.neg, ofWord b, 0, none⟩]))) ∧
    (s.Plain g → s.poisonReg .s (s.me.phys .s sa) = false →
      exec (.tkcnt g sd sa) s = .next (s.landsS 1 sd (BitVec.ofNat 64 (s.me.rd .s sa).length))))

/-- DIV, DIV.n, REM and REM.n complete: for a divisor that is not 0 the quotient or remainder, truncated towards zero and
wrapped to 64 bits; for a zero divisor the arithmetic fault of subcode 1 is in flight with the event DZ and no value, whatever
the enables hold (R143). -/
def Obligations.ScalarDivision : Prop :=
  ∀ (s : State) (g : Lit) (h : Bool) (sd sa sb : Nat) (a b : Word),
    s.Plain g → s.Reads .s sa (ofWord a) → s.Reads .s sb (ofWord b) →
    (b ≠ 0 →
      exec (.divS g h sd sa sb) s = .next (s.landsS 12 sd (BitVec.ofInt 64 (a.toInt.tdiv b.toInt))) ∧
      exec (.divN g h sd sa sb) s = .next (s.landsS 12 sd (BitVec.ofNat 64 (a.toNat / b.toNat))) ∧
      exec (.rem g h sd sa sb) s = .next (s.landsS 12 sd (BitVec.ofInt 64 (a.toInt.tmod b.toInt))) ∧
      exec (.remN g h sd sa sb) s = .next (s.landsS 12 sd (BitVec.ofNat 64 (a.toNat % b.toNat)))) ∧
    (b = 0 → ∀ i ∈ [Instr.divS g h sd sa sb, .divN g h sd sa sb, .rem g h sd sa sb, .remN g h sd sa sb],
      exec i s = .next (s.flight Cube.tt (s.cyc + 12) .s (s.me.phys .s sd)
        [⟨Cube.tt, 0, evDZ, some (s.mkTrap 0x0D 1 (s.me.phys .s sd) 0)⟩]))

/-- CMP and CMPI open the guard they name, which lands at issue + 2 with the truth of the condition; CMPI's immediate is
zero-extended for the unsigned conditions and sign-extended for the others; a write of g0 has no effect; an open guard that is
named again, or an open literal of the instruction, be it for g0 or not and whatever a deferred branch outstanding says, is a
guard fault (R144, R174, R175, R133, R19). -/
def Obligations.ScalarCompare : Prop :=
  (∀ (s : State) (g : Lit) (cond gd sa sb imm : Nat) (a b : Word) (w : Cube), s.openLit g = some w → w.isTrue = false →
    s.Reads .s sa (ofWord a) → s.Reads .s sb (ofWord b) →
    Raises (.cmp g cond gd sa sb) s ⟨0x08, 3, gd, 0⟩ ∧ Raises (.cmpi g cond gd sa imm) s ⟨0x08, 3, gd, 0⟩) ∧
  ∀ (s : State) (g : Lit) (cond gd sa sb imm : Nat) (a b c : Word), cond < 8 → imm < 1024 → s.Plain g →
    s.Reads .s sa (ofWord a) → s.Reads .s sb (ofWord b) →
    c = (if cond = 4 ∨ cond = 5 then BitVec.ofNat 64 imm else (BitVec.ofNat 10 imm).signExtend 64) →
    ((gd ≠ 0 → (s.me.guard gd).opn = none →
      exec (.cmp g cond gd sa sb) s = .next (s.openAt gd (s.cyc + 2) .value [GArg.ofBool (conditionHolds cond a b)]) ∧
      exec (.cmpi g cond gd sa imm) s = .next (s.openAt gd (s.cyc + 2) .value [GArg.ofBool (conditionHolds cond a c)])) ∧
    (exec (.cmp g cond 0 sa sb) s = .next s ∧ exec (.cmpi g cond 0 sa imm) s = .next s) ∧
    (gd ≠ 0 → (s.me.guard gd).opn ≠ none →
      Raises (.cmp g cond gd sa sb) s ⟨0x08, 2, gd, 0⟩ ∧ Raises (.cmpi g cond gd sa imm) s ⟨0x08, 2, gd, 0⟩))

/-- GAND, GOR, GNOT and GCOPY open their guard with operands as they stand: a literal of a landed guard by its value, g0 as
true, one of an open guard as that guard. They land at the latest of issue + 1 and the landing cycles of their open operands,
with the conjunction, the disjunction, the complement and the copy of the literals, an operand that was open by the value it
landed with. An open destination or an open literal of the instruction itself is a guard fault, and a write of g0 is discarded
(R191, R175, R133, R19). TAKE.WAIT completes and does nothing where its guard is not open, whatever its guard field is; where
the guard is open the bundle is held (R182). -/
def Obligations.GuardLogic : Prop :=
  ((∀ (s : State) (g la lb : Lit) (gd : Nat),
    let till (l : Lit) : Nat := if l.idx ≠ 0 ∧ s.me.gopen s.cyc l.idx = true then (s.me.guard l.idx).opn.elim 0 (·.due) else 0
    s.gdue [la, lb] = max (s.cyc + 1) (max (till la) (till lb)) ∧ s.gdue [la] = max (s.cyc + 1) (till la) ∧
    (la.idx = 0 → s.garg la = ⟨some true, 0, la.neg⟩) ∧
    (la.idx ≠ 0 → s.me.gopen s.cyc la.idx = true → s.garg la = ⟨none, la.idx, la.neg⟩) ∧
    (la.idx ≠ 0 → s.me.gopen s.cyc la.idx = false → s.garg la = ⟨some (s.me.guard la.idx).val, la.idx, la.neg⟩) ∧
    (s.Plain g → gd ≠ 0 → (s.me.guard gd).opn = none →
      exec (.gand g gd la lb) s = .next (s.openAt gd (s.gdue [la, lb]) .and [s.garg la, s.garg lb]) ∧
      exec (.gor g gd la lb) s = .next (s.openAt gd (s.gdue [la, lb]) .or [s.garg la, s.garg lb]) ∧
      exec (.gnot g gd la) s = .next (s.openAt gd (s.gdue [la]) .not [s.garg la]) ∧
      exec (.gcopy g gd la) s = .next (s.openAt gd (s.gdue [la]) .value [s.garg la])) ∧
    ∀ i ∈ [Instr.gand g gd la lb, .gor g gd la lb, .gnot g gd la, .gcopy g gd la],
      (s.Plain g → gd = 0 → exec i s = .next s) ∧
      (s.Plain g → gd ≠ 0 → (s.me.guard gd).opn ≠ none → Raises i s ⟨0x08, 2, gd, 0⟩) ∧
      ∀ w, s.openLit g = some w → w.isTrue = false → Raises i s ⟨0x08, 3, gd, 0⟩) ∧
  (∀ (d : Nat) (x y : Bool) (n m : Bool) (i j : Nat),
    (⟨0, d, .and, [⟨some x, i, n⟩, ⟨some y, j, m⟩]⟩ : GOpen).value = ((x != n) && (y != m)) ∧
    (⟨0, d, .or, [⟨some x, i, n⟩, ⟨some y, j, m⟩]⟩ : GOpen).value = ((x != n) || (y != m)) ∧
    (⟨0, d, .not, [⟨some x, i, n⟩]⟩ : GOpen).value = !(x != n) ∧
    (⟨0, d, .value, [⟨some x, i, n⟩]⟩ : GOpen).value = (x != n)) ∧
  ∀ (s : State) (core ctx gi j : Nat) (o p : GOpen) (x : Ctx), x = s.ctx core ctx → (x.guard gi).opn = some o → o.due = s.cyc →
    j ≠ gi → (x.guard j).opn = some p → Happens (.guardLanding core ctx gi) s fun t =>
      (t.ctx core ctx).guard gi = ⟨o.value, none⟩ ∧ ((t.ctx core ctx).guard j).opn = some { p with args := p.args.map fun a =>
        if a.known.isNone ∧ a.idx = gi then { a with known := some o.value } else a }) ∧
  (∀ (s : State) (g : Lit) (k : Nat),
    (k = 0 ∨ s.me.gopen s.cyc k = false → exec (.takeWait g k) s = .next s) ∧
    (k ≠ 0 → s.me.gopen s.cyc k = true → exec (.takeWait g k) s = .next { s with iss := { s.iss with hold := true } }))

/-- CSRR reads the value a CSR has at issue and CSRW writes it at issue + 1: CYCLE, the cycle; BASE, the scene base; LOC,
context, core, partition and package number; SRKEY, SRCTR and ASTAT at either privilege, PRIV, CTL and the trap CSRs at
supervisor privilege; a number that no table lists is an illegal instruction, with its word in INFO0. What a written CSR then
holds: SRCTR 48 bits, CTL bit 0, TCAUSE its bits of Table 18-2, TPC a multiple of 32, ASTAT as R137 says (R15, R146, R302, Table
06-3, Tables 17-5 and 18-2). A CSR numbered 0x100 or above raises the privilege fault at user privilege, read or written (R146,
R302). -/
def Obligations.CsrAccess : Prop :=
  ((∀ (s : State) (g : Lit) (sd sa n : Nat) (v : Word) (x : Vec), s.Plain g → s.csrVal n = some v →
    (n < 0x100 ∨ s.me.q.sup = true) →
    exec (.csrr g sd n) s = .next (s.landsS 1 sd v) ∧
    (s.Reads .s sa x → n ∈ [0x010, 0x011, 0x012, 0x101, 0x180, 0x181, 0x185, 0x186, 0x187, 0x188] →
      exec (.csrw g sa n) s = .next (s.flight Cube.tt (s.cyc + 1) .csr n [⟨Cube.tt, x, 0, none⟩])) ∧
    (s.Reads .s sa x → n ∈ [0x001, 0x002, 0x003, 0x100, 0x182, 0x183, 0x184] → Raises (.csrw g sa n) s ⟨0x02, 0, n, 0⟩)) ∧
  (∀ (s : State) (g : Lit) (sd : Nat), s.Plain g →
    let reads (n : Nat) (v : Word) : Prop := exec (.csrr g sd n) s = .next (s.landsS 1 sd v)
    reads 0x001 (BitVec.ofNat 64 s.cyc) ∧ reads 0x002 (BitVec.ofNat 64 s.me.q.base) ∧
    reads 0x003 (BitVec.ofNat 64 (s.iss.ctx + s.iss.core * 4 + s.me.q.part * 2 ^ 12 + s.reg offMgmt % 2 ^ 20 * 2 ^ 16)) ∧
    reads 0x010 s.me.ar.srkey ∧ reads 0x011 (s.me.ar.srctr.setWidth 64) ∧ reads 0x012 s.me.ar.astat ∧
    (s.me.q.sup = true → reads 0x100 1 ∧ reads 0x101 (if s.me.ar.c4 = true then 1 else 0) ∧ reads 0x180 s.me.tr.tcause ∧
      reads 0x181 s.me.tr.tpc ∧ reads 0x182 s.me.tr.tfpc ∧ reads 0x183 s.me.tr.tinfo0 ∧ reads 0x184 s.me.tr.tinfo1 ∧
      reads 0x185 s.me.tr.tscr0 ∧ reads 0x186 s.me.tr.tscr1 ∧ reads 0x187 s.me.tr.tscr2 ∧ reads 0x188 s.me.tr.tscr3)) ∧
  (∀ (s : State) (g : Lit) (sd sa n : Nat) (x : Vec), s.Plain g → n < 0x100 ∨ s.me.q.sup = true →
    n ∉ [0x001, 0x002, 0x003, 0x010, 0x011, 0x012, 0x100, 0x101, 0x180, 0x181, 0x182, 0x183, 0x184, 0x185, 0x186, 0x187, 0x188] →
    Raises (.csrr g sd n) s ⟨0x01, 4, encode (.csrr g sd n), 0⟩ ∧
    (s.Reads .s sa x → Raises (.csrw g sa n) s ⟨0x01, 4, encode (.csrw g sa n), 0⟩)) ∧
  ∀ (x : Ctx) (c : Nat) (v : Word),
    x.writeCsr c 0x010 v = { x with ar := { x.ar with srkey := v } } ∧
    x.writeCsr c 0x011 v = { x with ar := { x.ar with srctr := v.setWidth 48 } } ∧
    x.writeCsr c 0x012 v = { x with ar := x.ar.writeAstat c v } ∧
    x.writeCsr c 0x101 v = { x with ar := { x.ar with c4 := v.getLsbD 0 } } ∧
    x.writeCsr c 0x180 v = { x with tr := { x.tr with tcause := v &&& 0x0777FFFF } } ∧
    x.writeCsr c 0x181 v = { x with tr := { x.tr with tpc := v &&& ~~~ 0x1F } } ∧
    x.writeCsr c 0x185 v = { x with tr := { x.tr with tscr0 := v } } ∧ x.writeCsr c 0x186 v = { x with tr := { x.tr with tscr1 := v } } ∧
    x.writeCsr c 0x187 v = { x with tr := { x.tr with tscr2 := v } } ∧ x.writeCsr c 0x188 v = { x with tr := { x.tr with tscr3 := v } }) ∧
  (∀ (s : State) (g : Lit) (sd sa n : Nat) (x : Vec), s.Plain g → 0x100 ≤ n → s.me.q.sup = false → s.Reads .s sa x →
    Raises (.csrr g sd n) s ⟨0x02, 0, n, 0⟩ ∧ Raises (.csrw g sa n) s ⟨0x02, 0, n, 0⟩)

/-! ## Vector instructions -/

/-- Source b (Table 03-11, R59, R135): codes 0 to 31 read a register, 32 to 39 pop a port once, unless the instruction's own
literal has landed false, where they pop nothing; 40 and above put an immediate of -8 to 15 into every lane. VADD, VSUB, VMUL,
VMIN, VMAX, VMIN.n, VMAX.n, VADD.sat, VSUB.sat and their unsigned forms, VSHL, VSHR and VSAR in lanes of 4, 8, 16 and 32 bits
complete: each lane whose mask bit in m0 is 1 gets the operation of the lanes of va and source b, every other lane keeps vd's,
and the saturating forms record SA of the active lanes (R117, R134, R147). Over takes, and under any literal: one result for
each combination of takes of va, of a register as source b, of m0, and of vd where m0 leaves a lane inactive, under their common
condition; a literal landed false leaves no effect, but one that is open meets no cold vd; the first poisoned operand raises the
poison fault (R20, R177, R178, R338). Points that the spec leaves to a reading stand as the model’s log entries 11, 28 and 62
say. -/
def Obligations.VectorIntegerForms : Prop :=
  (∀ (s : State) (g : Lit) (vb w : Nat) (x : Vec),
    (vb < 32 → s.Reads .v vb x → s.me.phys .v vb < 32 → s.ReadsB g vb (immInt w) s x) ∧
    (32 ≤ vb → vb < 40 → s.me.lit s.cyc g = .const false → s.ReadsB g vb (immInt w) s 0) ∧
    (32 ≤ vb → vb < 40 → s.me.lit s.cyc g ≠ .const false → ∀ t p, s.pop s.iss.core s.iss.ctx (vb - 32) s.iss.slot false = .ok (t, p) →
      s.ReadsB g vb (immInt w) t p.row) ∧
    (40 ≤ vb → vb < 64 → s.ReadsB g vb (immInt w) s (immInt w ((vb : Int) - 48))) ∧
    (∀ j, w ∈ [4, 8, 16, 32] → j < 2048 / w → lane w (immInt w ((vb : Int) - 48)) j = BitVec.ofInt w ((vb : Int) - 48))) ∧
  ((∀ o ∈ laneForms, ∀ (s : State) (g : Lit) (ty vd va vb w : Nat), ty < 4 → vb < 32 → w = intWidth ty →
    let part (q : Vec) : Bool := q.toNat % 2 ^ (2048 / w) != 2 ^ (2048 / w) - 1
    let old : List Nat := if (s.me.rd .m 0).any (fun q => part q.x) then [vd] else []
    let regs : List (RCls × Nat) := [(.v, va), (.v, vb), (.m, 0)] ++ old.map fun r => (.v, r)
    let bad (p : RCls × Nat) : Bool := s.poisonReg p.1 (s.me.phys p.1 p.2)
    let res (k : Cube) (x y q d : Vec) : Pair :=
      let f (i : Nat) : Nat × Nat := ((o.2 w (lane w x i) (lane w y i)).1.toNat, (o.2 w (lane w x i) (lane w y i)).2)
      ⟨k, maskedValue w q d f, evOr 0 (maskedEvents w q f), none⟩
    (s.wlit g = none →
      (s.me.phys .v vd < 32 ∨ s.openLit g = none → exec (o.1 g ty vd va vb) s = .next s) ∧
      (32 ≤ s.me.phys .v vd → (s.openLit g).isSome = true → Raises (o.1 g ty vd va vb) s ⟨0x08, 8, s.me.phys .v vd, 0⟩)) ∧
    ∀ wl, s.wlit g = some wl →
      (∀ l p r, regs = l ++ p :: r → (∀ a ∈ l, bad a = false) → bad p = true →
        Raises (o.1 g ty vd va vb) s ⟨0x0C, 0, 0, s.me.phys p.1 p.2⟩) ∧
      ((∀ a ∈ regs, bad a = false) → exec (o.1 g ty vd va vb) s = s.finish (s.writeBack wl false true (2 + s.cold ([va, vb] ++ old)) .v vd
        ((s.me.rd .v va).flatMap fun a => (s.me.rd .v vb).flatMap fun b => (s.me.rd .m 0).flatMap fun q =>
          match (b.cube.conj q.cube).bind fun k => a.cube.conj k with
          | none => []
          | some k => if part q.x then (s.me.rd .v vd).filterMap fun d => (k.conj d.cube).map fun k => res k a.x b.x q.x d.x
            else [res k a.x b.x q.x 0])))) ∧
  ∀ o ∈ laneForms, ∀ (s t : State) (g : Lit) (ty vd va vb w : Nat) (x y d q : Vec), ty < 4 → w = intWidth ty →
    s.ReadsB g vb (immInt w) t y → t.LaneReady g w vd va x d q →
    exec (o.1 g ty vd va vb) s = .next (t.landsLanes 2 w vd [va] d q 0 fun i =>
      ((o.2 w (lane w x i) (lane w y i)).1.toNat, (o.2 w (lane w x i) (lane w y i)).2)))

/-- VAND, VOR, VXOR and VANDN complete, masked in 32-bit lanes (R147); VMOV copies active 32-bit lanes (R156); VSAT.i clamps a
lane to the signed range of half its width and VSAT.n to the unsigned one, with the event SA (R154). VDOT4 adds the four byte
products of each active 32-bit lane to vd's lane, wrapping; the bytes are signed, or unsigned in the .u form; vd is always a
source (R153). -/
def Obligations.VectorLogicMoveSaturateDot : Prop :=
  ((∀ o ∈ logicForms, ∀ (s t : State) (g : Lit) (vd va vb : Nat) (x y d q : Vec),
    s.ReadsB g vb (immInt 32) t y → t.LaneReady g 32 vd va x d q →
    exec (o.1 g vd va vb) s =
      .next (t.landsLanes 2 32 vd [va] d q 0 fun i => ((o.2 (lane 32 x i) (lane 32 y i)).toNat, 0))) ∧
  (∀ (s : State) (g : Lit) (vd va : Nat) (x d q : Vec), s.LaneReady g 32 vd va x d q →
    exec (.vmov g vd va) s = .next (s.landsLanes 2 32 vd [va] d q 0 fun i => (laneAt 32 x i, 0))) ∧
  ∀ (s : State) (g : Lit) (ty vd va w : Nat) (x d q : Vec), ty < 3 → w = intWidth ty → s.LaneReady g w vd va x d q →
    exec (.vsat g ty vd va) s = .next (s.landsLanes 2 w vd [va] d q 0 fun i =>
      let r := clampLane w (-(2 ^ (w / 2 - 1))) (2 ^ (w / 2 - 1) - 1) (lane w x i).toInt
      (r.1.toNat, r.2)) ∧
    exec (.vsatN g ty vd va) s = .next (s.landsLanes 2 w vd [va] d q 0 fun i =>
      let r := clampLane w 0 (2 ^ (w / 2) - 1) (lane w x i).toNat
      (r.1.toNat, r.2))) ∧
  (∀ (s t : State) (g : Lit) (uns : Bool) (vd va vb : Nat) (x y d q : Vec), s.ReadsB g vb (immInt 8) t y →
    t.LaneReady g 32 vd va x d q → t.Reads .v vd d →
    exec (.vdot4 g uns vd va vb) s = .next (t.lands (2 + t.cold [va, vd]) .v vd (maskedValue 32 q d fun i =>
      let byte (v : Vec) (k : Nat) : Int := if uns then ((lane 8 v (4 * i + k)).toNat : Int) else (lane 8 v (4 * i + k)).toInt
      ((lane 32 d i + BitVec.ofInt 32 (byte x 0 * byte y 0 + byte x 1 * byte y 1 + byte x 2 * byte y 2 + byte x 3 * byte y 3)).toNat, 0)) 0))

/-- VCMP sets the bits of the active lanes of m to the truth of the condition, signed, unsigned or in a floating-point format,
and every other bit of m keeps its value; it records no event (R149). VANY and VALL open their guard, which lands at issue + 8
with the truth that any, or every, of the bits of m below 2048/N is 1 (R151). -/
def Obligations.VectorCompare : Prop :=
  (∀ (s t : State) (g : Lit) (ty cond m va vb w : Nat) (x y q old : Vec), t.Plain g → t.Reads .v va x → t.Reads .m 0 q →
    t.Reads .m m old →
    (ty < 4 → cond < 8 → w = intWidth ty → s.ReadsB g vb (immInt w) t y →
      ∃ r : Vec, exec (.vcmpInt g ty cond m va vb) s = .next (t.lands (2 + t.cold [va]) .m m r 0) ∧
        ∀ i < 2048, r.getLsbD i = if i < 2048 / w ∧ q.getLsbD i = true then
          conditionHolds cond ((lane w x i).signExtend 64) ((lane w y i).signExtend 64) else old.getLsbD i) ∧
    (ty < 3 → w = (fpFmt ty).width → s.ReadsB g vb (immFp (fpFmt ty)) t y →
      ∃ r : Vec, exec (.vcmpFp g ty cond m va vb) s = .next (t.lands (2 + t.cold [va]) .m m r 0) ∧
        ∀ i < 2048, r.getLsbD i = if i < 2048 / w ∧ q.getLsbD i = true then
          (fpFmt ty).test s.me.ar.c4 cond (laneAt w x i) (laneAt w y i) else old.getLsbD i)) ∧
  (∀ (s : State) (g : Lit) (ty gd m n : Nat) (x : Vec), s.Plain g → ty < 4 → s.Reads .m m x → n = 2048 / intWidth ty → gd ≠ 0 →
    (s.me.guard gd).opn = none →
    (∀ b : Bool, (b = true ↔ ∃ i < n, x.getLsbD i = true) →
      exec (.vany g ty gd m) s = .next (s.openAt gd (s.cyc + 8) .value [GArg.ofBool b])) ∧
    ∀ b : Bool, (b = true ↔ ∀ i < n, x.getLsbD i = true) →
      exec (.vall g ty gd m) s = .next (s.openAt gd (s.cyc + 8) .value [GArg.ofBool b]))

/-- VSEL takes the lane of va where the bit of m is 1 and vd's lane where it is 0; VPERMB, VSHUF and VBCAST move lanes by the
indices of source b, or by an immediate; none of them is masked by m0 (R150, R152). VPACK puts the lanes of va, then those of
source b, clamped to half their width, into vd, with SA if any was outside; VUNPK widens half the lanes of va to twice their
width, by sign or by zeros (R154). -/
def Obligations.VectorRearrange : Prop :=
  (∀ (s t : State) (g : Lit) (ty vd va vb m w n : Nat) (x y d q : Vec), ty < 4 → w = intWidth ty → n = 2048 / w →
    (s.Plain g → s.Reads .v va x → s.Reads .v vd d → s.Reads .m m q →
      exec (.vsel g ty vd va m) s = .next (s.lands (2 + s.cold [va, vd]) .v vd
        (ofLanes w fun i => if q.getLsbD i then laneAt w x i else laneAt w d i) 0)) ∧
    (vb < 40 → s.ReadsB g vb (immInt 8) t y → t.Plain g → t.Reads .v va x → exec (.vpermb g vd va vb) s =
      .next (t.lands (2 + t.cold [va]) .v vd (ofLanes 8 fun i => laneAt 8 x (laneAt 8 y i)) 0)) ∧
    (vb < 40 → s.ReadsB g vb (immInt 32) t y → t.Plain g → t.Reads .v va x → exec (.vshuf g vd va vb) s =
      .next (t.lands (2 + t.cold [va]) .v vd (ofLanes 32 fun i => laneAt 32 x (laneAt 32 y i % 64)) 0)) ∧
    (vb < 40 → s.ReadsB g vb (immInt w) t y → t.Plain g → t.Reads .v va x → exec (.vbcast g ty vd va vb) s =
      .next (t.lands (2 + t.cold [va]) .v vd (ofLanes w fun _ => laneAt w x (laneAt 32 y 0 % n)) 0)) ∧
    (40 ≤ vb → vb < 64 → s.Plain g → s.Reads .v va x →
      exec (.vpermb g vd va vb) s = .next (s.lands (2 + s.cold [va]) .v vd
        (ofLanes 8 fun i => laneAt 8 x ((i + vb + 208) % 256)) 0) ∧
      exec (.vshuf g vd va vb) s = .next (s.lands (2 + s.cold [va]) .v vd
        (ofLanes 32 fun i => laneAt 32 x ((i + vb + 16) % 64)) 0) ∧
      exec (.vbcast g ty vd va vb) s = .next (s.lands (2 + s.cold [va]) .v vd
        (ofLanes w fun _ => laneAt w x ((vb + n - 48) % n)) 0))) ∧
  ((∀ (s t : State) (g : Lit) (ty vd va vb w n : Nat) (x y : Vec), ty < 3 → w = intWidth ty → n = 2048 / w →
    s.ReadsB g vb (immInt w) t y → t.Plain g → t.Reads .v va x →
    ∃ e, exec (.vpack g ty vd va vb) s = .next (t.lands (2 + t.cold [va]) .v vd
        (ofLanes (w / 2) fun i => (clampLane (w / 2) (-(2 ^ (w / 2 - 1))) (2 ^ (w / 2 - 1) - 1)
          (if i < n then lane w x i else lane w y (i - n)).toInt).1.toNat) e) ∧
      e = (if ∃ i < 2 * n, let v := (if i < n then lane w x i else lane w y (i - n)).toInt
        v < -(2 ^ (w / 2 - 1)) ∨ 2 ^ (w / 2 - 1) - 1 < v then evSA else 0)) ∧
  ∀ (s : State) (g : Lit) (ty vd va w n : Nat) (hi zx : Bool) (x : Vec), ty < 3 → w = intWidth (ty + 1) → n = 1024 / w →
    s.Plain g → s.Reads .v va x →
    exec (.vunpk g ty vd va hi zx) s = .next (s.lands (2 + s.cold [va]) .v vd
      (ofLanes (2 * w) fun i => let a := lane w x (if hi then i + n else i)
        (if zx then a.zeroExtend (2 * w) else a.signExtend (2 * w)).toNat) 0))

/-- VADD, VSUB, VMUL, VMIN, VMAX and VFMA on the lanes of a floating-point format complete with the format's own result and
events of each active lane (R121, R148); VEXP, VRCP, VRSQ and VLOG with the rounded function of Table 06-6 (R157). Rounding
(R118 to R123): the multiple that round-to-nearest-even gives is at most half a step away, and even where it is half; a value
that a format holds rounds to its own code, without events, at the D8 level. Points that the spec leaves to a reading stand as
the model’s log entries 9, 27, 88 and 93 say. -/
def Obligations.VectorFloatForms : Prop :=
  (∀ (s t : State) (g : Lit) (ty vd va vb : Nat) (f : Fmt) (c4 : Bool) (x y d q : Vec), ty < 3 → f = fpFmt ty → c4 = s.me.ar.c4 →
    (s.ReadsB g vb (immFp f) t y → t.LaneReady g f.width vd va x d q →
      (∀ o ∈ [(Instr.vaddFp g ty vd va vb, f.add c4), (.vsubFp g ty vd va vb, f.sub c4), (.vmulFp g ty vd va vb, f.mul c4),
          (.vminFp g ty vd va vb, f.pick c4 false), (.vmaxFp g ty vd va vb, f.pick c4 true)],
        exec o.1 s = .next (t.landsLanes 3 f.width vd [va] d q 0 fun i => o.2 (laneAt f.width x i) (laneAt f.width y i))) ∧
      (t.Reads .v vd d → exec (.vfma g ty vd va vb) s = .next (t.lands (4 + t.cold [va, vd]) .v vd
        (maskedValue f.width q d fun i => f.fma c4 (laneAt f.width x i) (laneAt f.width y i) (laneAt f.width d i))
        (maskedEvents f.width q fun i => f.fma c4 (laneAt f.width x i) (laneAt f.width y i) (laneAt f.width d i))))) ∧
    (s.LaneReady g f.width vd va x d q →
      ∀ o ∈ [(Instr.vexp g ty vd va, FVal.exp), (.vrcp g ty vd va, FVal.rcp), (.vrsq g ty vd va, FVal.rsq),
          (.vlog g ty vd va, FVal.ln)],
        exec o.1 s = .next (s.landsLanes 12 f.width vd [va] d q 0 fun i => f.unary c4 o.2 (laneAt f.width x i)))) ∧
  ((∀ (m : Nat) (e q : Int) (k : Nat), q = e + k →
    let r := (roundAt .rne m e false q).1
    2 * ((r * 2 ^ k : Int) - m).natAbs ≤ 2 ^ k ∧ (0 < k → 2 * ((r * 2 ^ k : Int) - m).natAbs = 2 ^ k → r % 2 = 0)) ∧
  ∀ (f : Fmt) (x : Nat), x < 2 ^ f.width → f.isNan x = false → f.round false .rne (f.val x) = (x, 0))

/-- VRED combines the lanes of va: the wrapping sum of .i32 lanes, their signed maximum or minimum, sign-extended to sd; in a
floating-point type the fixed tree over FP32 values (R158). VSCAN gives each lane the running sum, or the running maximum, of
the lanes up to it: wrapping or signed in .i32; in a floating-point type a sum kept in FP32 and rounded to each lane (R159).
Points that the spec leaves to a reading stand as the model’s log entries 27 and 113 say. -/
def Obligations.VectorReduceScan : Prop :=
  (∀ (s : State) (g : Lit) (ty sd va : Nat) (x : Vec), s.Plain g → s.Reads .v va x →
    (exec (.vredAdd g 3 sd va) s = .next (s.lands (10 + s.cold [va]) .s sd (ofWord
      ((BitVec.ofNat 32 (((List.range 64).map (laneAt 32 x)).foldr (· + ·) 0)).signExtend 64)) 0)) ∧
    (∃ i < 64, (∀ j < 64, (lane 32 x j).sle (lane 32 x i) = true) ∧
      exec (.vredMax g 3 sd va) s = .next (s.lands (10 + s.cold [va]) .s sd (ofWord ((lane 32 x i).signExtend 64)) 0)) ∧
    (∃ i < 64, (∀ j < 64, (lane 32 x i).sle (lane 32 x j) = true) ∧
      exec (.vredMin g 3 sd va) s = .next (s.lands (10 + s.cold [va]) .s sd (ofWord ((lane 32 x i).signExtend 64)) 0)) ∧
    (ty < 3 → ∀ o ∈ [(Instr.vredAdd g ty sd va, Fmt.add .f32 s.me.ar.c4), (.vredMax g ty sd va, Fmt.pick .f32 s.me.ar.c4 true),
        (.vredMin g ty sd va, Fmt.pick .f32 s.me.ar.c4 false)],
      ∀ r, r = reduceTree o.2 11 ((lanesOf (fpFmt ty).width (2048 / (fpFmt ty).width) x).map (widen s.me.ar.c4 (fpFmt ty))) →
        exec o.1 s = .next (s.lands (10 + s.cold [va]) .s sd (BitVec.ofNat 2048 r.1) r.2))) ∧
  (∀ (s : State) (g : Lit) (ty vd va : Nat) (x : Vec), s.Plain g → s.Reads .v va x →
    exec (.vscanAdd g 3 vd va) s = .next (s.lands (10 + s.cold [va]) .v vd
      (ofLanes 32 fun i => ((List.range (i + 1)).map (laneAt 32 x)).foldr (· + ·) 0) 0) ∧
    (∃ r : Vec, exec (.vscanMax g 3 vd va) s = .next (s.lands (10 + s.cold [va]) .v vd r 0) ∧
      ∀ i < 64, (∀ j ≤ i, (lane 32 x j).sle (lane 32 r i) = true) ∧ ∃ j ≤ i, lane 32 r i = lane 32 x j) ∧
    (ty < 3 → ∀ (f : Fmt) (c4 : Bool) (ls : List Nat), f = fpFmt ty → c4 = s.me.ar.c4 → ls = lanesOf f.width (2048 / f.width) x →
      (∀ r, r = scanLanes (fun p x => Fmt.add .f32 c4 p (widen c4 f x)) (narrow c4 f) (widen c4 f (ls.headD 0)) ls.tail →
        exec (.vscanAdd g ty vd va) s = .next (s.lands (10 + s.cold [va]) .v vd
          (pack f.width ((narrow c4 f (widen c4 f (ls.headD 0))).1 :: r.1)) (evOr (narrow c4 f (widen c4 f (ls.headD 0))).2 r.2))) ∧
      (∀ r, r = scanLanes (f.pick c4 true) (fun x => (x, 0)) (f.pick c4 true (ls.headD 0) (ls.headD 0)).1 ls.tail →
        exec (.vscanMax g ty vd va) s = .next (s.lands (10 + s.cold [va]) .v vd
          (pack f.width ((f.pick c4 true (ls.headD 0) (ls.headD 0)).1 :: r.1)) r.2))))

/-- VCVT converts element by element into the lanes of the destination type, active elements only; a narrowing conversion fills
the lowest lanes, and all bits above them become 0. A `.rsr` form advances SRCTR at the D8 level and rounds with the bits that
SRKEY and the old SRCTR give (R119, R120, R155). VRNG fills 32-bit lane i with Gen(K, C + i), K and C the lowest two double
words of va (R160). VCOMPRESS keeps in each group the k lanes of greatest rank, equal ranks going to the lower lane, and zeroes
the others (R161). Neither is masked. Points that the spec leaves to a reading stand as the model’s log entries 27 and 92 say.
-/
def Obligations.VectorConvertRandom : Prop :=
  (∀ (s u : State) (g : Lit) (dst rnd src vd va ws wd n : Nat) (x d q : Vec) (mode : Nat → RMode),
    dst < 8 → src < 8 → src ≠ dst → rnd < 3 → ws = cvtWidth src → wd = cvtWidth dst → n = 2048 / max ws wd →
    u = (if rnd = 2 ∧ s.me.ar.c4 = false then s.modMe fun y => { y with ar := { y.ar with srctr := y.ar.srctr + 1 } } else s) →
    u.Plain g → u.Reads .v va x → u.Reads .m 0 q →
    (q.toNat % 2 ^ n ≠ 2 ^ n - 1 → u.Reads .v vd d) →
    (mode = fun i => match rnd with
      | 0 => .rne
      | 1 => .rtz
      | _ => .rsr (if s.me.ar.c4 then 0 else gen s.me.ar.srkey.toNat (s.me.ar.srctr.toNat * 2 ^ 16 + i) % 2 ^ 16)) →
    ∃ (r : Vec) (e : Nat), exec (.vcvt g dst rnd src vd va) s =
        .next (u.lands (3 + u.cold (va :: if q.toNat % 2 ^ n ≠ 2 ^ n - 1 then [vd] else [])) .v vd r e) ∧
      (∀ i < n, laneAt wd r i = if q.getLsbD i then (convert s.me.ar.c4 (mode i) src dst (laneAt ws x i)).1 % 2 ^ wd else laneAt wd d i) ∧
      ∀ i, n ≤ i → laneAt wd r i = 0) ∧
  ((∀ k x : Nat, ∀ step : Nat → Nat → Nat, (∀ y r, step y r = (let y := (y + (k + r * 0x61C886470B3E95D9)) % 2 ^ 64
      let y := (y ^^^ (y >>> 31)) * 0xE7C35A19B46D0F2B % 2 ^ 64
      y ^^^ (y >>> 29))) →
    gen k x = step (step (step (step x 0) 1) 2) 3 / 2 ^ 32) ∧
  ∀ (s : State) (g : Lit) (k ty vd va : Nat) (x : Vec), s.Plain g → s.Reads .v va x →
    exec (.vrng g vd va) s = .next (s.lands (4 + s.cold [va]) .v vd
      (ofLanes 32 fun i => gen (laneAt 64 x 0) (laneAt 64 x 1 + i)) 0) ∧
    (ty < 4 → ∀ (w : Nat) (keep : Nat → Nat → Nat → Nat), w = (if ty = 3 then 32 else (fpFmt ty).width) →
      (keep = fun gsz k i =>
        let rank (j : Nat) : Nat := rankKey s.me.ar.c4 ty (laneAt w x j)
        let above := (List.range gsz).filter fun j => decide (rank i < rank (i / gsz * gsz + j) ∨
          (rank i = rank (i / gsz * gsz + j) ∧ i / gsz * gsz + j < i))
        if above.length < k then laneAt w x i else 0) →
      exec (.vcompressG16 g ty vd va) s = .next (s.lands (6 + s.cold [va]) .v vd (ofLanes w (keep 16 8)) 0) ∧
      (1 ≤ k → k < 8 → exec (.vcompressG8 g k ty vd va) s = .next (s.lands (6 + s.cold [va]) .v vd (ofLanes w (keep 8 k)) 0))))

/-- The result-queue forms: VMOV, VADD, VMUL, VFMA and VMAX take lanes of the segment that the queue pops as source a, in
integer or floating-point lanes, and record the events of its status word besides their own (R135, R162). The array must belong
to the context, and an empty queue raises the underrun fault; the segment popped is the oldest of the queue, which the others
follow (R197, R210). One whose own literal has landed false does nothing and pops nothing (R172). Points that the spec leaves to
a reading stand as the model’s log entries 11 and 59 say. -/
def Obligations.ResultQueueForms : Prop :=
  ∀ (s : State) (g : Lit) (ty vd oq vb : Nat), oq < 8 →
    (∀ (t u : State) (sg : Seg) (y d q : Vec), s.popOq g oq = .ok (t, sg) →
      (t.Plain g → t.Reads .m 0 q → (q.toNat % 2 ^ 64 ≠ 2 ^ 64 - 1 → t.Reads .v vd d) → exec (.vmovOq g vd oq vb) s =
        .next (t.landsLanes 2 32 vd [] d q sg.status fun i => (laneAt 32 sg.data i, 0))) ∧
      (ty < 4 → ∀ w, w = intWidth ty → t.ReadsB g vb (immInt w) u y → u.Plain g → u.Reads .m 0 q →
        (q.toNat % 2 ^ (2048 / w) ≠ 2 ^ (2048 / w) - 1 → u.Reads .v vd d) →
        exec (.vaddOqInt g ty vd oq vb) s = .next (u.landsLanes 2 w vd [] d q sg.status fun i =>
          ((lane w sg.data i + lane w y i).toNat, 0)) ∧
        exec (.vmulOqInt g ty vd oq vb) s = .next (u.landsLanes 2 w vd [] d q sg.status fun i =>
          ((lane w sg.data i * lane w y i).toNat, 0))) ∧
      (ty < 3 → ∀ (f : Fmt) (c4 : Bool), f = fpFmt ty → c4 = s.me.ar.c4 → t.ReadsB g vb (immFp f) u y → u.Plain g →
        u.Reads .m 0 q → (q.toNat % 2 ^ (2048 / f.width) ≠ 2 ^ (2048 / f.width) - 1 → u.Reads .v vd d) →
        (∀ o ∈ [(Instr.vaddOqFp g ty vd oq vb, f.add c4), (.vmulOqFp g ty vd oq vb, f.mul c4),
            (.vmaxOq g ty vd oq vb, f.pick c4 true)],
          exec o.1 s = .next (u.landsLanes 3 f.width vd [] d q sg.status fun i =>
            o.2 (laneAt f.width sg.data i) (laneAt f.width y i))) ∧
        (u.Reads .v vd d → exec (.vfmaOq g ty vd oq vb) s = .next (u.lands (4 + u.cold [vd]) .v vd
          (maskedValue f.width q d fun i => f.fma c4 (laneAt f.width sg.data i) (laneAt f.width y i) (laneAt f.width d i))
          (evOr sg.status (maskedEvents f.width q fun i =>
            f.fma c4 (laneAt f.width sg.data i) (laneAt f.width y i) (laneAt f.width d i))))))) ∧
    (∀ i ∈ [Instr.vmovOq g vd oq vb, .vaddOqFp g ty vd oq vb, .vmulOqFp g ty vd oq vb, .vfmaOq g ty vd oq vb,
        .vmaxOq g ty vd oq vb, .vaddOqInt g ty vd oq vb, .vmulOqInt g ty vd oq vb],
      (s.me.lit s.cyc g = .const false → exec i s = .next s) ∧
      (s.me.lit s.cyc g ≠ .const false → s.myCore.arr.owner ≠ some s.iss.ctx → Raises i s ⟨0x0F, 0, s.myCore.arr.owner.getD 4, 0⟩) ∧
      (s.me.lit s.cyc g ≠ .const false → s.myCore.arr.owner = some s.iss.ctx → agetD s.myCore.arr.oq oq [] = [] → Raises i s ⟨0x06, 1, oq, 0⟩)) ∧
    ∀ e r, s.me.lit s.cyc g ≠ .const false → s.myCore.arr.owner = some s.iss.ctx → agetD s.myCore.arr.oq oq [] = e :: r →
      ∃ t, s.popOq g oq = .ok (t, e) ∧ agetD t.myCore.arr.oq oq [] = r ∧
        (∀ p, p ≠ oq → agetD t.myCore.arr.oq p [] = agetD s.myCore.arr.oq p []) ∧ t.myCore.arr.tiles = s.myCore.arr.tiles ∧
        t.me = s.me ∧ s.SameMem t ∧ s.SameCtxs t

/-! ## Control instructions -/

/-- BR sends the context to the bundle `off` bundles from its own in the next cycle; BRC does where its literal is landed true,
has no effect where it is landed false, and faults where its guard is open; its word with literal index 0 is reserved; a target
of either that no instruction page maps for the context is a fetch fault (R53, R80, R311). BRD becomes the outstanding deferred
branch of its context: with a landed guard its verdict is known and its effect comes at issue + 1, with an open one it waits for
the landing (R39, R192). The effect of a deferred branch: taken, issue goes to its target, in the instruction pages, and a fault
held in its shadow is dropped; a target outside them is a fetch fault; while a hold lasts, which no guard's value shortens, it
waits for the hold's end; not taken, the branch is gone and a held fault is taken as a deferred one (R39, R173, R192, R323).
Points that the spec leaves to a reading stand as the model’s log entry 39 says. -/
def Obligations.BranchesComplete : Prop :=
  ((∀ w : Nat, w / 2 ^ 18 % 2 ^ 6 = 2 → w / 2 ^ 13 % 2 ^ 4 = 0 → decodeWord .c w = .reserved) ∧
  ∀ (s : State) (l : Lit) (off : Int),
    (s.rel off : Int) = ((s.iss.pc : Int) + 32 * off) % 2 ^ 64 ∧
    (s.rules (.br off) = .ok () →
      ((s.me.fetchPa s.me.q.sup (s.rel off)).isSome = true →
        Completes (.br off) s fun t => t.me.q.npc = s.rel off ∧ s.SameMem t ∧ Ctx.SameRegs s.me t.me) ∧
      (s.me.fetchPa s.me.q.sup (s.rel off) = none → Raises (.br off) s ⟨0x0A, 4, 16, s.rel off⟩)) ∧
    (s.rules (.brc l off) = .ok () →
      (s.me.lit s.cyc l = .const true → (s.me.fetchPa s.me.q.sup (s.rel off)).isSome = true →
        Completes (.brc l off) s fun t => t.me.q.npc = s.rel off ∧ s.SameMem t ∧ Ctx.SameRegs s.me t.me) ∧
      (s.me.lit s.cyc l = .const true → s.me.fetchPa s.me.q.sup (s.rel off) = none → Raises (.brc l off) s ⟨0x0A, 4, 16, s.rel off⟩) ∧
      (s.me.lit s.cyc l = .const false → exec (.brc l off) s = .next s) ∧
      (∀ k, s.me.lit s.cyc l = .opn k → Raises (.brc l off) s ⟨0x08, 3, l.idx, 0⟩))) ∧
  (∀ (s : State) (l : Lit) (off : Int), s.rules (.brd l off) = .ok () →
    (∀ k, s.me.lit s.cyc l = .opn k → Completes (.brd l off) s fun t =>
      t.me.brd = some ⟨l, s.cyc, s.rel off, s.iss.pc, none, 0⟩ ∧ t.cal = s.cal ∧ s.SameMem t ∧ Ctx.SameRegs s.me t.me) ∧
    ∀ b, s.me.lit s.cyc l = .const b → Completes (.brd l off) s fun t =>
      t.me.brd = some ⟨l, s.cyc, s.rel off, s.iss.pc, some b, s.cyc + 1⟩ ∧
      t.cal = calInsert ⟨s.cyc + 1, phCtx, s.iss.core, s.iss.ctx, 0, .brdEffect s.iss.core s.iss.ctx, CtlAcc.reset⟩ s.cal ∧
      s.SameMem t ∧ Ctx.SameRegs s.me t.me) ∧
  (∀ (s : State) (core ctx : Nat) (b : Brd) (x : Ctx), x = s.ctx core ctx → x.brd = some b → b.effect ≤ s.cyc → x.fault = none →
    (b.taken = some true → x.q.st = .holding → exec (.brdEffect core ctx) s = .next s) ∧
    (b.taken = some true → x.q.st ≠ .holding → (x.fetchPa x.q.sup b.target).isSome = true → Happens (.brdEffect core ctx) s fun t =>
      ∀ z, z = t.ctx core ctx → z.brd = none ∧ z.heldF = none ∧ z.q.pc = b.target ∧ z.q.xfer = none ∧ z.q.sup = x.q.sup ∧
        z.q.st = x.q.st ∧
        z.ar = (if x.heldF.isSome then x.ar.drop 1 else x.ar) ∧ Ctx.SameRegs x z ∧ s.SameMem t) ∧
    (b.taken = some true → x.q.st ≠ .holding → x.fetchPa x.q.sup b.target = none → Happens (.brdEffect core ctx) s fun t =>
      Ctx.SameRegs x (t.ctx core ctx) ∧ s.SameMem t ∧ (t.ctx core ctx).fault = some
        { code := 0x0A, sub := 4, slot := 0, slot2 := 0, fpc := b.fpc, info0 := 16, info1 := b.target, iat := b.issued,
          defer := false, sys := false, sup := x.q.sup }) ∧
    (b.taken = some false →
      (x.heldF = none → Happens (.brdEffect core ctx) s fun t => t.ctx core ctx = { x with brd := none } ∧ s.SameMem t ∧
        s.SameOthers t core ctx) ∧
      ∀ f, x.heldF = some f → Happens (.brdEffect core ctx) s fun t => (t.ctx core ctx).fault = some { f with defer := true } ∧
        (t.ctx core ctx).brd = none ∧ Ctx.SameRegs x (t.ctx core ctx) ∧ s.SameMem t))

/-- JT, CALL, CALLG and RET begin a transfer with three delay bundles: JT to the storyboard word at sb + 8 × sa, CALL and CALLG
with the return address, 128 bytes on, in flight to s55, RET to the address in s55; computed targets lose their low five bits
(R79, R81, R82). ERET, at supervisor privilege, begins a transfer to TPC at the privilege that TCAUSE.PPRIV holds; at user
privilege it raises the privilege fault (R88, R322). After three delay bundles a transfer reaches its target, and an ERET its
privilege (R79). Points that the spec leaves to a reading stand as the model’s log entry 33 says. -/
def Obligations.DelayedTransfers : Prop :=
  (∀ (s : State) (sa sb : Nat) (off : Int) (a b : Word), s.noOpen = .ok () →
    (s.rules (.jt sa sb) = .ok () → s.Reads .s sa (ofWord a) → s.Reads .s sb (ofWord b) →
      ∀ pa u, translate s.me s.iss.core .load ((b.toNat : Int) + 8 * a.toNat) 8 8 false = .ok pa →
        s.claim s.iss.core s.iss.slot [offOf pa] = .ok u → u.poisonFlt pa 8 = none →
        (u.me.fetchPa u.me.q.sup (u.load pa 8 / 32 * 32)).isSome = true →
        Completes (.jt sa sb) s fun t => t.me.q.xfer = some ⟨u.load pa 8 / 32 * 32, 3, none⟩ ∧ s.SameMem t ∧
          Ctx.SameRegs s.me t.me) ∧
    (s.rules (.call off) = .ok () → (s.me.fetchPa s.me.q.sup (s.rel off)).isSome = true →
      exec (.call off) s = .next ((s.flight Cube.tt (s.cyc + 1) .s 55
        [⟨Cube.tt, ofWord (BitVec.ofNat 64 (s.iss.pc + 128)), 0, none⟩]).transfer (s.rel off) none)) ∧
    (s.rules (.callg sa) = .ok () → s.Reads .s sa (ofWord a) → (s.me.fetchPa s.me.q.sup (a.toNat / 32 * 32)).isSome = true →
      exec (.callg sa) s = .next ((s.flight Cube.tt (s.cyc + 1) .s 55
        [⟨Cube.tt, ofWord (BitVec.ofNat 64 (s.iss.pc + 128)), 0, none⟩]).transfer (a.toNat / 32 * 32) none)) ∧
    (s.rules .ret = .ok () → s.Reads .s 55 (ofWord a) → (s.me.fetchPa s.me.q.sup (a.toNat / 32 * 32)).isSome = true →
      exec .ret s = .next (s.transfer (a.toNat / 32 * 32) none))) ∧
  ((∀ s : State, s.rules .eret = .ok () →
    (s.me.q.sup = false → Raises .eret s ⟨0x02, 1, 0, 0⟩) ∧
    (s.me.q.sup = true → s.noOpen = .ok () → ∀ p, p = s.me.tr.tcause.getLsbD 24 →
      (s.me.fetchPa p (s.me.tr.tpc.toNat / 32 * 32)).isSome = true →
      exec .eret s = .next (s.transfer (s.me.tr.tpc.toNat / 32 * 32) (some p)))) ∧
  ∀ (x : Ctx) (f : Xfer),
    (x.advance none).q.pc = x.q.npc ∧
    (1 < f.left → (x.advance (some f)).q.pc = x.q.npc ∧ (x.advance (some f)).q.xfer = some { f with left := f.left - 1 } ∧
      (x.advance (some f)).q.sup = x.q.sup) ∧
    (f.left = 1 → (x.advance (some f)).q.pc = f.target ∧ (x.advance (some f)).q.sup = f.eret.getD x.q.sup ∧
      (f.eret ≠ some false → (x.advance (some f)).q.xfer = none)))

/-- LOOP opens a level of the count in a register, below 2^48, or in the word, whose body begins at the next bundle; LEND begins
the next iteration at the body's first bundle, or closes the level after the last (R83). The rings of the level are those that
the loader declared at the bundle's address: the model's own choice. Points that the spec leaves to a reading stand as the
model’s log entries 20, 36 and 37 say. -/
def Obligations.Loops : Prop :=
  ∀ (s : State) (sa n : Nat) (a : Word),
    (s.Reads .s sa (ofWord a) →
      (s.rules (.loopReg sa) = .ok () → a.toNat < 2 ^ 48 ∧ Completes (.loopReg sa) s fun t =>
        t.me.q.loops = ⟨s.iss.pc + 32, a.toNat, 0, a.toNat == 0, agetD s.rot (rotKey s.me.q.part s.iss.pc) []⟩ :: s.me.q.loops ∧
          s.SameMem t ∧ Ctx.SameRegs s.me t.me) ∧
      (s.rulePlace (.loopReg sa) = .ok () → s.ruleSeq (.loopReg sa) = .ok () →
        (2 ^ 48 ≤ a.toNat → s.ruleLoop (.loopReg sa) = .error ⟨0x05, 2, s.me.phys .s sa, 0⟩ ∧
          Raises (.loopReg sa) s ⟨0x05, 2, s.me.phys .s sa, 0⟩) ∧
        (a.toNat < 2 ^ 48 → s.me.q.loops.length < 6 → s.rules (.loopReg sa) = .ok ()))) ∧
    (s.rules (.loopImm n) = .ok () → Completes (.loopImm n) s fun t =>
      t.me.q.loops = ⟨s.iss.pc + 32, n, 0, n == 0, agetD s.rot (rotKey s.me.q.part s.iss.pc) []⟩ :: s.me.q.loops ∧ s.SameMem t ∧
        Ctx.SameRegs s.me t.me) ∧
    (∀ l r, s.rules .lend = .ok () → s.me.q.loops = l :: r → Completes .lend s fun t =>
      (if l.iter + 1 < l.count then t.me.q.loops = { l with iter := l.iter + 1 } :: r ∧ t.me.q.npc = l.start
       else t.me.q.loops = r ∧ t.me.q.npc = s.me.q.npc) ∧ s.SameMem t ∧ Ctx.SameRegs s.me t.me)

/-- TRAP and BRK leave their breakpoint fault to be taken after the bundle, with their number as INFO0, and SYSCALL, at user
privilege, the supervisor entry with its service number; at supervisor privilege SYSCALL is a privilege fault. Under the literal
of an outstanding deferred branch TRAP is entered as a deferred trap, or has no effect where the literal is landed false (R79,
R88, R189, R324). Points that the spec leaves to a reading stand as the model’s log entry 109 says. -/
def Obligations.TrapsAndCalls : Prop :=
  ∀ (s : State) (n : Nat),
    (s.rules (.trap n) = .ok () →
      (s.Plain .always → exec (.trap n) s = .next { s with iss := { s.iss with post := some (s.mkTrap 0x0E 0 n 0) } }) ∧
      (s.wlit .always = none → exec (.trap n) s = .next s) ∧
      (∀ w x, s.wlit .always = some w → w.isTrue = false →
        s.me.deferAdd w 0 (some { s.mkTrap 0x0E 0 n 0 with defer := true }) = some x → exec (.trap n) s = .next (s.setMe x))) ∧
    (s.rules (.brk n) = .ok () →
      exec (.brk n) s = .next { s with iss := { s.iss with post := some (s.mkTrap 0x0E 1 n 0) } }) ∧
    (s.rules (.syscall n) = .ok () →
      (s.me.q.sup = true → Raises (.syscall n) s ⟨0x02, 3, n, 0⟩) ∧
      (s.me.q.sup = false → s.noOpen = .ok () → exec (.syscall n) s =
        .next { s with iss := { s.iss with post := some { s.mkTrap 0 (n % 256) n 0 with sys := true } } }))

/-- WAITC waits until the cycle in its register, at most 2^24 cycles away; SCENE begins a scene LASTREL + d and waits for it. A
target no later than the next cycle does not wait; one out of range is a timing fault (R89, R90). SCENEBASE takes the new base
when the next bundle issues, and keeps its value in a handler (R76, R90). The model's own choices: the slipped base is the cycle
less the offset that the context had reached, in user code that a handler returned to elsewhere a scene begins as in any other,
and SCENE has its effect behind the others of its bundle. SLATE.q writes the status of Table 04-2 and SLATE.t the pre-emption
cycle, or all ones where none is pending, as a result that lands at issue + 1 (R91). That the IRQ bit reads a bit of State that
no event sets is the model's own choice. NOP and every word of a defined no-operation range change nothing (R48, R49); HALT ends
the context's part in its task and frees the array; TRIGGER marks the core's trigger point; YIELD blocks once where another
context of the core is Ready and otherwise does nothing (R85, R86, R87, R196). Points that the spec leaves to a reading stand as
the model’s log entries 34, 37, 73 and 90 say. -/
def Obligations.WaitsAndSlates : Prop :=
  (∀ (s : State) (sa d : Nat) (a : Word),
    (s.rules (.waitc sa) = .ok () → s.Reads .s sa (ofWord a) →
      (a.toNat ≤ s.cyc + 1 → exec (.waitc sa) s = .next s) ∧
      (s.cyc + 1 < a.toNat → a.toNat ≤ s.cyc + 2 ^ 24 → Completes (.waitc sa) s fun t =>
        t.me.q.st = .waiting ∧ t.me.q.wait = some ⟨a.toNat, false⟩ ∧ s.SameMem t ∧ Ctx.SameRegs s.me t.me ∧
        t.cal = calInsert ⟨a.toNat, phCtx, s.iss.core, s.iss.ctx, 0, .waitEnd s.iss.core s.iss.ctx, CtlAcc.reset⟩ s.cal) ∧
      (s.cyc + 2 ^ 24 < a.toNat → Raises (.waitc sa) s ⟨0x05, 3, s.me.phys .s sa, 0⟩)) ∧
    (s.rules (.scene d) = .ok () →
      (s.me.q.lastrel + d < s.cyc + 1 → Raises (.scene d) s ⟨0x05, 3, 0x14, 0⟩) ∧
      (s.cyc + 1 ≤ s.me.q.lastrel + d → Completes (.scene d) s fun t =>
        t.me.q.base = s.me.q.base ∧ t.me.q.scn = s.me.q.scn + 1 ∧ t.me.q.span = 0 ∧
        (s.me.q.away = none ∨ s.me.q.sup = false →
          t.me.q.newBase = some (s.me.q.lastrel + d) ∧ t.me.q.srel = 0 ∧ t.me.q.away = none) ∧
        (s.me.q.away ≠ none → s.me.q.sup = true →
          t.me.q.newBase = s.me.q.newBase ∧ t.me.q.srel = s.me.q.srel ∧ t.me.q.away = s.me.q.away) ∧
        (s.cyc + 1 < s.me.q.lastrel + d → t.me.q.st = .waiting ∧ t.me.q.wait = some ⟨s.me.q.lastrel + d, true⟩) ∧
        s.SameMem t ∧ Ctx.SameRegs s.me t.me)) ∧
    ∀ (q : Seq) (c : Nat),
      (q.away = none → q.slip = false → (q.issuing c).base = q.newBase.getD q.base ∧ (q.issuing c).srel = q.srel + 1) ∧
      (q.away = none → q.slip = true → (q.issuing c).base = c - q.srel ∧ (q.issuing c).srel = q.srel + 1) ∧
      (q.away ≠ none → (q.issuing c).base = q.base ∧ (q.issuing c).srel = q.srel)) ∧
  (∀ (s : State) (sd : Nat), s.Plain .always →
    (s.rules (.slateQ sd) = .ok () → exec (.slateQ sd) s = .next (s.landsS 1 sd (BitVec.ofNat 64 s.slateStatus))) ∧
    (s.rules (.slateT sd) = .ok () →
      exec (.slateT sd) s = .next (s.landsS 1 sd (BitVec.ofNat 64 (s.me.q.preT.getD (2 ^ 64 - 1))))) ∧
    (s.slateStatus % 2 = s.me.q.preT.isSome.toNat ∧ s.slateStatus / 2 % 2 = s.me.q.irq.toNat ∧
      s.slateStatus / 4 % 2 = s.me.q.dbg.toNat ∧ s.slateStatus / 8 % 2 = s.myCore.gateReq.toNat ∧
      (∀ k < 4, (s.slateStatus / 2 ^ (4 + k) % 2 = 1 ↔ (s.myCore.ctx k).q.st = .ready)) ∧
      s.slateStatus / 2 ^ 8 % 2 ^ 24 = 0 ∧ s.slateStatus / 2 ^ 32 = min s.me.q.span 16384)) ∧
  (∀ s : State, exec .nop s = .next s ∧ (∀ cl w, exec (.definedNop cl w) s = .next s) ∧
    (s.rules .halt = .ok () → Completes .halt s fun t =>
      t.me.q.st = .free ∧ t.me.q.task = 0 ∧ (t.core s.iss.core).arr.owner ≠ some s.iss.ctx ∧ s.SameMem t ∧ Ctx.SameRegs s.me t.me ∧
      (∀ x, s.task? s.me.q.task = some x → ∃ y, t.task? s.me.q.task = some y ∧ y.halted = x.halted ++ [s.iss.core])) ∧
    (s.rules .trigger = .ok () → Completes .trigger s fun t => s.SameMem t ∧ t.me = s.me ∧
      (∀ x, s.task? s.me.q.task = some x → ∃ y, t.task? s.me.q.task = some y ∧ s.iss.core ∈ y.trig)) ∧
    (s.rules .yieldC = .ok () →
      (s.me.q.yielded = true ∨ s.myCore.nextReady = none → exec .yieldC s = .next s) ∧
      (s.me.q.yielded = false → s.myCore.nextReady.isSome = true →
        exec .yieldC s = .next { s with iss := { s.iss with block := some .yield } })))

/-- The rules of the bundle as a whole, by instruction: one that must stand in a slate, alone, or in a persist slate raises the
illegal-bundle fault elsewhere; a control instruction raises it in a delay bundle; while a deferred branch is outstanding a
control instruction other than TRAP and SLATE raises the guard fault; a seventh level, an LEND without level, and the transfers
that R84 names inside a level raise the illegal-bundle fault, and a register count that has a bit above its 48th the timing
fault before it, each a rule of its bundle. The rules of a bundle are those of its instructions, each in its slot, the placement
rules of all of them before the others; a slate among delay bundles, a 513th bundle of a loop nest and a 16385th bundle since a
slate, which INFO0 counts, break them too; that INFO0 counts this bundle, and that a defined no-operation counts as NOP for a
bundle of one instruction, are the model's readings. A bundle that breaks one takes its fault, or holds it behind a deferred
branch, and does nothing else (R45, R78, R79, R83, R84, R92, R323, R358). While a guard of the context is open, JT, CALL, CALLG,
RET, ERET and SYSCALL raise the guard fault that names the lowest open guard (R193). Points that the spec leaves to a reading
stand as the model’s log entries 17, 19, 35 and 60 say. -/
def Obligations.BundleRules : Prop :=
  ((∀ (s : State) (i : Instr),
    (slateOnly i = true → s.iss.hdr.sl = false → Raises i s ⟨0x01, 4, s.wordOf i, 0⟩) ∧
    (aloneOnly i = true → 1 < s.iss.count → Raises i s ⟨0x01, 4, s.wordOf i, 0⟩) ∧
    (i = .psave → s.iss.hdr.ps = false → Raises i s ⟨0x01, 4, s.wordOf i, 0⟩) ∧
    (s.rulePlace i = .ok () → control i = true →
      (s.me.q.xfer.isSome = true → Raises i s ⟨0x01, 4, s.wordOf i, 0⟩) ∧
      (underBrd i = false → s.me.q.xfer = none → ∀ b, s.me.brd = some b → b.issued < s.cyc → Raises i s ⟨0x08, 4, b.lit.idx, 0⟩) ∧
      (s.ruleSeq i = .ok () →
        (∀ n, i = .loopReg n → (∀ c, s.singleS n = .ok c → c < 2 ^ 48) → 6 ≤ s.me.q.loops.length →
          Raises i s ⟨0x01, 4, s.wordOf i, 0⟩) ∧
        (∀ n c, i = .loopReg n → s.singleS n = .ok c → 2 ^ 48 ≤ c → s.ruleLoop i = .error ⟨0x05, 2, s.me.phys .s n, 0⟩ ∧
          Raises i s ⟨0x05, 2, s.me.phys .s n, 0⟩) ∧
        (∀ n, i = .loopImm n → 6 ≤ s.me.q.loops.length → Raises i s ⟨0x01, 4, s.wordOf i, 0⟩) ∧
        (i = .lend → s.me.q.loops = [] → Raises i s ⟨0x01, 4, s.wordOf i, 0⟩) ∧
        (noLoop i = true → s.me.q.loops ≠ [] → Raises i s ⟨0x01, 4, s.wordOf i, 0⟩)))) ∧
  (∀ (s : State) (is : List Instr) (w0 : Nat),
    let at_ (k : Nat) : State := { s with iss := { s.iss with slot := k } }
    let first (rule : State → Instr → Except Flt Unit) (f : Trap) : Prop := ∃ (k : Nat) (i : Instr) (e : Flt), is[k]? = some i ∧
      rule (at_ k) i = .error e ∧ (∀ j y, j < k → is[j]? = some y → rule (at_ j) y = .ok ()) ∧ f = s.trapAt k e
    let kept (rule : State → Instr → Except Flt Unit) : Prop := ∀ k i, is[k]? = some i → rule (at_ k) i = .ok ()
    (∀ f, first State.rulePlace f → s.bundleRules is w0 = .error f) ∧
    (kept State.rulePlace →
      (s.me.q.xfer.isSome = true → s.iss.hdr.sl = true → s.bundleRules is w0 = .error (s.trapAt 0 ⟨0x01, 4, w0, 0⟩)) ∧
      (s.me.q.xfer = none ∨ s.iss.hdr.sl = false →
        (∀ f, first State.ruleSeq f → s.bundleRules is w0 = .error f) ∧
        (∀ f, kept State.ruleSeq → first State.ruleLoop f → s.bundleRules is w0 = .error f) ∧
        (kept State.ruleSeq → kept State.ruleLoop → s.bundleRules is w0 =
          if s.me.q.loops ≠ [] ∧ s.me.q.pc ∉ s.me.q.body ∧ 512 ≤ s.me.q.body.length then .error (s.trapAt 0 ⟨0x01, 4, w0, 0⟩)
          else if s.iss.hdr.sl = false ∧ 16384 ≤ s.me.q.span then .error (s.trapAt 0 ⟨0x09, 0, s.me.q.span + 1, 0⟩)
          else .ok ())))) ∧
  (∀ (s s1 s2 s3 : State) (n k b w0 : Nat) (x : Ctx) (h : Header) (is on : List Instr) (f : Trap),
    (∀ e, s.cal.head? = some e → s.dueNow e = false) → phIssue ≤ s.ph → s.ph < phSeg → s.nextCore = some n →
    (s.beginTurn n).brdWaits n = none → k = (s.core n).holder → s1 = (s.beginTurn n).modCtx n k Ctx.atStop →
    x = s1.ctx n k → x.pendF = [] → x.dueTrap = none →
    s2 = { s1 with iss := { Iss.reset with core := n, ctx := k, pc := x.q.pc } } →
    s2.fetch x x.q.pc = some b → w0 = b % 2 ^ 32 → h = headerOf w0 →
    s2.decodeFrom x.q.loops.length 0 (bundleWords b) = .ok is → collide 0 (is.map x.dest) = none →
    s3 = { s2 with iss := { s2.iss with hdr := h, count := (is.filter fun i => match i with
      | .nop | .definedNop _ _ => false
      | _ => true).length } } →
    (h.sl = true → s2.slateFlt n k w0 = none ∧ s3.stopRow n k = none) →
    on = (if x.q.acts h then is else []) → s3.bundleRules on w0 = .error f → (s3.bundleFault n k f).oqOver n = none →
    step s = .next { s3.bundleFault n k f with ph := max s.ph (phIssue + n + 1) }) ∧
  ∀ (s : State) (n k : Nat) (f : Trap) (x : Ctx), x = s.ctx n k →
    (x.brdOut s.cyc = true → s.bundleFault n k f = s.setCtx n k { x with heldF := some f, q := { x.q with st := .holder } }) ∧
    (x.brdOut s.cyc = false → s.bundleFault n k f = s.takeFault n k f)) ∧
  (∀ (s : State) (g : Nat), (List.range 16).find? (fun i => s.me.gopen s.cyc i) = some g → ∀ i : Instr, s.rules i = .ok () →
    (∀ sa sb, i = .jt sa sb → Raises i s ⟨0x08, 3, g, 0⟩) ∧ (∀ off, i = .call off → Raises i s ⟨0x08, 3, g, 0⟩) ∧
    (∀ sa, i = .callg sa → Raises i s ⟨0x08, 3, g, 0⟩) ∧ (i = .ret → Raises i s ⟨0x08, 3, g, 0⟩) ∧
    (i = .eret → s.me.q.sup = true → Raises i s ⟨0x08, 3, g, 0⟩) ∧
    (∀ n, i = .syscall n → s.me.q.sup = false → Raises i s ⟨0x08, 3, g, 0⟩))

/-! ## Local accesses and the matrix array -/

/-- LD, VLD and VGATHER complete where every address passes its window, the banks are free and no granule read is poisoned: the
value, little-endian, sign- or zero-extended, is in flight and lands 6 or 8 cycles after issue: outside the control region it is
the bytes of memory, inside it what the register reads as, a free value where the spec states none. Otherwise the window's, the
bank's or the poison fault is raised (R163 to R167, R251, R305). What a load finds at a physical address: outside the control
region the bytes of memory, the lowest address least significant; inside it what the control register reads as for the
partition, and where the spec states no value a free value of the model; the partition registers, the ring, graph and queue
registers, SVC and the page tables read as they stand (R5, R305, Tables 04-7, 15-7, 15-9, 17-1). Points that the spec leaves to
a reading stand as the model’s log entries 6 and 61 say. -/
def Obligations.LoadsComplete : Prop :=
  (∀ (s : State) (g : Lit) (sa : Nat) (off : Int) (a : Word), s.Plain g → s.Reads .s sa (ofWord a) →
    (∀ (ty sd n pa : Nat) (u : State), ty < 7 → n = 2 ^ (ty / 2) →
      s.reachA .load ((a.toNat : Int) + off * n) n (decide (ty = 6)) = .ok pa →
      s.claim s.iss.core s.iss.slot (if regionOf pa = .ctl then [] else [offOf pa]) = .ok u →
      (u.poisonFlt pa n = none → ∀ v : BitVec (8 * n), v = BitVec.ofNat (8 * n) (u.readAt pa n) →
        exec (.ld g ty sd sa off) s = .next (({ u with free := if regionOf pa = .ctl then u.free + 1 else u.free } : State).landsS 6 sd
          (if ty % 2 = 0 then v.signExtend 64 else BitVec.ofNat 64 (u.readAt pa n)))) ∧
      (∀ e, u.poisonFlt pa n = some e → Raises (.ld g ty sd sa off) s e)) ∧
    (∀ (ty sd : Nat) (e : Flt), s.reachA .load ((a.toNat : Int) + off * (2 ^ (ty / 2) : Nat)) (2 ^ (ty / 2)) (decide (ty = 6)) = .error e →
      Raises (.ld g ty sd sa off) s e) ∧
    (∀ (ty sd n pa : Nat) (e : Flt), n = 2 ^ (ty / 2) → s.reachA .load ((a.toNat : Int) + off * n) n (decide (ty = 6)) = .ok pa →
      s.claim s.iss.core s.iss.slot (if regionOf pa = .ctl then [] else [offOf pa]) = .error e → Raises (.ld g ty sd sa off) s e) ∧
    (∀ (vd pa : Nat) (u : State), s.reachA .load ((a.toNat : Int) + off * 256) 256 false = .ok pa → regionOf pa ≠ .ctl →
      s.claim s.iss.core s.iss.slot [offOf pa] = .ok u →
      (u.poisonFlt pa 256 = none → exec (.vld g vd sa off) s = .next (u.lands 8 .v vd (BitVec.ofNat 2048 (u.load pa 256)) 0)) ∧
      ∀ e, u.poisonFlt pa 256 = some e → Raises (.vld g vd sa off) s e) ∧
    (∀ (vd : Nat) (e : Flt), s.reachA .load ((a.toNat : Int) + off * 256) 256 false = .error e → Raises (.vld g vd sa off) s e) ∧
    (∀ (vd pa : Nat) (e : Flt), s.reachA .load ((a.toNat : Int) + off * 256) 256 false = .ok pa → regionOf pa ≠ .ctl →
      s.claim s.iss.core s.iss.slot [offOf pa] = .error e → Raises (.vld g vd sa off) s e) ∧
    ∀ (vd vi : Nat) (x : Vec) (eas : List Int), s.Reads .v vi x → eas = (List.range 64).map (fun i => (a.toNat : Int) + laneAt 32 x i) →
      (∀ e, eas.mapM (fun ea => s.reachA .load ea 4 false) = .error e → Raises (.vgather g vd sa vi) s e) ∧
      ∀ pas, eas.mapM (fun ea => s.reachA .load ea 4 false) = .ok pas → (∀ pa ∈ pas, regionOf pa ≠ .ctl) →
        (∀ e, s.claim s.iss.core s.iss.slot (pas.map offOf) = .error e → Raises (.vgather g vd sa vi) s e) ∧
        ∀ u, s.claim s.iss.core s.iss.slot (pas.map offOf) = .ok u →
          (∀ e, pas.findSome? (fun pa => u.poisonFlt pa 4) = some e → Raises (.vgather g vd sa vi) s e) ∧
          ((∀ pa ∈ pas, u.poisonFlt pa 4 = none) →
            exec (.vgather g vd sa vi) s = .next (u.lands 8 .v vd (ofLanes 32 fun i => u.load (pas.getD i 0) 4) 0))) ∧
  (∀ (s : State) (pa n : Nat), s.Inv →
    (regionOf pa ≠ .ctl → s.readAt pa n = s.load pa n) ∧
    (∀ i < n, s.load pa n / 2 ^ (8 * i) % 256 = (memByte s.mem (pa + i)).toNat) ∧ s.load pa n < 2 ^ (8 * n) ∧
    (regionOf pa = .ctl →
      (∀ v, s.ctlRead s.me.q.part (pa - ctlBase) = some v → s.readAt pa n = v) ∧
      (s.ctlRead s.me.q.part (pa - ctlBase) = none → s.readAt pa n = (Config.freeValue s.free).toNat)) ∧
    ∀ who p i r : Nat, p < 16 → i < 256 → r < 0x200 →
      s.ctlRead who 0x100 = none ∧ s.ctlRead who (0x180 + 8 * p) = some (s.reg (0x180 + 8 * p)) ∧
      s.ctlRead who (0x208 + 16 * p) = some (s.graph p).gtid ∧
      s.ctlRead who (0x300 + 16 * p) = some ((s.graph p).st + (s.graph p).node * 4 + (s.graph p).err * 2 ^ 14) ∧
      s.ctlRead who (0x400 + 64 * p) = some (s.hring p).base ∧
      s.ctlRead who (0x408 + 64 * p) = some ((s.hring p).size + (s.hring p).en.toNat * 16 + (s.hring p).vec * 32) ∧
      s.ctlRead who (0x410 + 64 * p) = some (s.hring p).tail ∧ s.ctlRead who (0x418 + 64 * p) = some (s.hring p).head ∧
      s.ctlRead who (offPart p + r) = some (s.reg (offPart p + r)) ∧ s.ctlRead who offSvc = some s.svc ∧
      s.ctlRead who (0x10000 + 256 * i) =
        some ((s.queue i).prio + (s.queue i).en.toNat * 8 + (s.queue i).part * 16 + (s.queue i).size * 256) ∧
      s.ctlRead who (0x10008 + 256 * i) = some (s.queue i).base ∧ s.ctlRead who (0x10010 + 256 * i) = some (s.queue i).head ∧
      s.ctlRead who (0x10018 + 256 * i) = some (s.queue i).tail ∧ s.ctlRead who (0x10020 + 256 * i) = some (s.qstat (s.queue i)) ∧
      ∀ o < 0x100000, s.ctlRead who (offMirror + o) = some (s.reg (offMirror + o) &&& s.tableBits (offMirror + o)))

/-- ST and VSCATTER put a plain store on its way, ST.Z a lazy one, VST a row, each with the address and the bytes it computes
from its operands, to perform 4 cycles after issue, 6 where vv is cold; a window fault of any of them is raised at issue, and so
is the bank conflict with a store that performs in the same bank and cycle, and that of a VSCATTER with two rows of one bank
(R163 to R167, R251, R254). That a conflict of two stores is found where the later of them issues is the model's reading. Under
an open literal a store waits in the held-store buffer, with its addresses and bytes and the literal as its condition, beside at
most seven others; a ninth place is the fault 0x08 SUB 5. A check that fails for it is entered as a deferred trap under the
literal instead, at issue, where a seventeenth entry is the fault 0x08 SUB 6: that is the model's choice of the time (R178,
R185, R189). A scatter with two rows in one bank faults at once. Points that the spec leaves to a reading stand as the model’s
log entries 61 and 109 say. -/
def Obligations.StoresComplete : Prop :=
  (∀ (s : State) (g : Lit) (sa : Nat) (off : Int) (a : Word), s.Plain g → s.Reads .s sa (ofWord a) → s.me.heldCount ≤ 8 →
    let onWay (i : Instr) (due : Nat) (kind : SKind) (ws : List Wr) : Prop :=
      let made (id : Nat) : Store :=
        { id := id, ctx := s.iss.ctx, slot := s.iss.slot, fpc := s.iss.pc, iat := s.cyc, sup := s.me.q.sup, ord := 0, due := due, kind := kind, ws := ws,
          part := s.me.q.part, task := s.me.q.task, ep := s.myCore.epoch, cube := Cube.tt }
      (s.myCore.storeMeets s.cyc (made 0) = none → Completes i s fun t => s.SameMem t ∧ Ctx.SameRegs s.me t.me ∧ ∃ id : Nat,
        (t.core s.iss.core).stores = (s.core s.iss.core).stores ++ [made id] ∧
        t.cal = calInsert ⟨due, phWrite, s.iss.core, s.iss.slot, s.cyc, .storePerform s.iss.core s.iss.ctx id, CtlAcc.reset⟩
          (if kind = .lazy then calInsert ⟨due, phRoom, s.iss.core, 0, 0, .lazyDrain s.iss.core 0, CtlAcc.reset⟩ s.cal else s.cal)) ∧
      ∀ e, s.myCore.storeMeets s.cyc (made 0) = some e → Raises i s e
    (∀ (ty sv n pa : Nat) (v : Word), ty < 4 → n = 2 ^ ty → s.Reads .s sv (ofWord v) →
      (s.reachA .store ((a.toNat : Int) + off * n) n (decide (ty = 3)) = .ok pa →
        onWay (.st g ty sv sa off) (s.cyc + 4) (if regionOf pa = .ctl then .control else .plain) [⟨pa, n, v.toNat % 2 ^ (8 * n)⟩]) ∧
      (s.reachA .lazy ((a.toNat : Int) + off * n) n (decide (ty = 3)) = .ok pa → regionOf pa ≠ .ctl →
        onWay (.stZ g ty sv sa off) (s.cyc + 4) .lazy [⟨pa, n, v.toNat % 2 ^ (8 * n)⟩]) ∧
      (∀ e, s.reachA .store ((a.toNat : Int) + off * n) n (decide (ty = 3)) = .error e → Raises (.st g ty sv sa off) s e) ∧
      (∀ e, s.reachA .lazy ((a.toNat : Int) + off * n) n (decide (ty = 3)) = .error e → Raises (.stZ g ty sv sa off) s e)) ∧
    (∀ (vv pa : Nat) (x : Vec), s.Reads .v vv x → s.reachA .store ((a.toNat : Int) + off * 256) 256 false = .ok pa →
      regionOf pa ≠ .ctl → onWay (.vst g vv sa off) (s.cyc + (4 + s.cold [vv])) .row [⟨pa, 256, x.toNat⟩]) ∧
    (∀ (vv : Nat) (x : Vec) (e : Flt), s.Reads .v vv x → s.reachA .store ((a.toNat : Int) + off * 256) 256 false = .error e →
      Raises (.vst g vv sa off) s e) ∧
    (∀ (vv vi : Nat) (x y : Vec), s.Reads .v vv x → s.Reads .v vi y → ∀ eas, eas = (List.range 64).map (fun i => (a.toNat : Int) + laneAt 32 y i) →
      (∀ e, eas.mapM (fun ea => s.reachA .store ea 4 false) = .error e → Raises (.vscatter g vv sa vi) s e) ∧
      ∀ pas, eas.mapM (fun ea => s.reachA .store ea 4 false) = .ok pas → ∀ rs, rs = rowsOf (pas.map offOf) →
        ∀ r, rs.find? (fun r => rs.any fun q => decide (q.1 = r.1 ∧ q.2 ≠ r.2)) = some r →
          Raises (.vscatter g vv sa vi) s ⟨0x04, 0, r.1 + s.iss.slot * 2 ^ 8 + s.iss.slot * 2 ^ 12, 0⟩) ∧
    ∀ (vv vi : Nat) (x y : Vec) (pas : List Nat) (rs : List (Nat × Nat)), s.Reads .v vv x → s.Reads .v vi y →
      ((List.range 64).map fun i => (a.toNat : Int) + laneAt 32 y i).mapM (fun ea => s.reachA .store ea 4 false) = .ok pas →
      (∀ pa ∈ pas, regionOf pa ≠ .ctl) → rs = rowsOf (pas.map offOf) → (∀ p ∈ rs, ∀ q ∈ rs, q.1 = p.1 → q.2 = p.2) →
      onWay (.vscatter g vv sa vi) (s.cyc + (4 + s.cold [vv])) .plain
        ((List.range 64).map fun i => ⟨pas.getD i 0, 4, laneAt 32 x i⟩)) ∧
  (∀ (s : State) (g : Lit) (sa : Nat) (off : Int) (a : Word) (w : Cube), s.wlit g = some w → w.isTrue = false →
    s.Reads .s sa (ofWord a) → s.me.heldCount ≤ 8 →
    let held (i : Instr) (reg due : Nat) (kind : SKind) (ws : List Wr) : Prop :=
      (s.me.heldCount < 8 → exec i s = .next (s.setMe { s.me with held := s.me.held ++ [
        { id := 0, ctx := s.iss.ctx, slot := s.iss.slot, fpc := s.iss.pc, iat := s.cyc, sup := s.me.q.sup, ord := 0, due := due,
          kind := kind, ws := ws, part := s.me.q.part, task := s.me.q.task, ep := s.myCore.epoch, cube := w }] })) ∧
      (8 ≤ s.me.heldCount → Raises i s ⟨0x08, 5, reg, 0⟩)
    let late (i : Instr) (reg : Nat) (e : Flt) : Prop :=
      ∀ d, d = s.me.deferAdd w 0 (some { s.mkTrap e.code e.sub e.info0 e.info1 with defer := true }) →
        (∀ x, d = some x → exec i s = .next (s.setMe x)) ∧ (d = none → Raises i s ⟨0x08, 6, reg, 0⟩)
    (∀ (ty sv n pa : Nat) (v : Word), ty < 4 → n = 2 ^ ty → s.Reads .s sv (ofWord v) →
      (s.reachA .store ((a.toNat : Int) + off * n) n (decide (ty = 3)) = .ok pa → held (.st g ty sv sa off) (s.me.phys .s sv) (s.cyc + 4)
        (if regionOf pa = .ctl then .control else .plain) [⟨pa, n, v.toNat % 2 ^ (8 * n)⟩]) ∧
      (s.reachA .lazy ((a.toNat : Int) + off * n) n (decide (ty = 3)) = .ok pa → regionOf pa ≠ .ctl →
        held (.stZ g ty sv sa off) (s.me.phys .s sv) (s.cyc + 4) .lazy [⟨pa, n, v.toNat % 2 ^ (8 * n)⟩]) ∧
      (∀ e, s.reachA .store ((a.toNat : Int) + off * n) n (decide (ty = 3)) = .error e → late (.st g ty sv sa off) (s.me.phys .s sv) e) ∧
      (∀ e, s.reachA .lazy ((a.toNat : Int) + off * n) n (decide (ty = 3)) = .error e → late (.stZ g ty sv sa off) (s.me.phys .s sv) e)) ∧
    (∀ (vv pa : Nat) (x : Vec), s.Reads .v vv x →
      (s.reachA .store ((a.toNat : Int) + off * 256) 256 false = .ok pa → regionOf pa ≠ .ctl →
        held (.vst g vv sa off) (s.me.phys .v vv) (s.cyc + (4 + s.cold [vv])) .row [⟨pa, 256, x.toNat⟩]) ∧
      (∀ e, s.reachA .store ((a.toNat : Int) + off * 256) 256 false = .error e → late (.vst g vv sa off) (s.me.phys .v vv) e)) ∧
    ∀ (vv vi : Nat) (x y : Vec) (eas : List Int), s.Reads .v vv x → s.Reads .v vi y →
      eas = (List.range 64).map (fun i => (a.toNat : Int) + laneAt 32 y i) →
      (∀ e, eas.mapM (fun ea => s.reachA .store ea 4 false) = .error e → late (.vscatter g vv sa vi) (s.me.phys .v vv) e) ∧
      ∀ pas rs, eas.mapM (fun ea => s.reachA .store ea 4 false) = .ok pas → (∀ pa ∈ pas, regionOf pa ≠ .ctl) → rs = rowsOf (pas.map offOf) →
        (∀ r, rs.find? (fun r => rs.any fun q => decide (q.1 = r.1 ∧ q.2 ≠ r.2)) = some r →
          Raises (.vscatter g vv sa vi) s ⟨0x04, 0, r.1 + s.iss.slot * 2 ^ 8 + s.iss.slot * 2 ^ 12, 0⟩) ∧
        ((∀ p ∈ rs, ∀ q ∈ rs, q.1 = p.1 → q.2 = p.2) → held (.vscatter g vv sa vi) (s.me.phys .v vv) (s.cyc + (4 + s.cold [vv])) .plain
          ((List.range 64).map fun i => ⟨pas.getD i 0, 4, laneAt 32 x i⟩)))

/-- PSET loads a port's parameter set from its record, PTAG switches the port's checker on, SEAL puts a checked handle record in
flight, BIND starts a walk whose outcome takes effect 64 cycles later. While a deferred branch is outstanding, none of the
instructions of R188 issues: each raises 0x08 SUB 4 unless a check before it fails (R130, R168, R171, R188, R231, R358). That a
record's window and bank are checked before the branch, and its alignment after, is the model's reading. A pop gives the row
that the port's parameters address, base and walk or the handle's record, with the row's block scales where the requester takes
them, and advances the port; the walk is the mixed radix of its levels. Before PSET + 8, past the last row and, by the model's
choice, without a set the port is not ready; then come the window, the banks, the handle's rows, poison and tags (R36, R42,
R131, R168, R169, R171). The lowest-numbered window that holds an address gives the physical one, at its offset in the window;
no window is fault 0x0A SUB 0, and the checks of the window follow: range (0), privilege (7), in the control region anything but
LD.i64 and ST.i64 (3), whose INFO words are the model's reading, the regions an access may reach (6), alignment (1), read only
(5). A load or store reaches the scratchpad of its own core alone, a lazy one, by the model's reading, its own die (R163, R230,
R305, R307, Table 12-4). The walk of a BIND finds a range of virtual addresses where the entries of the partition's table are
valid, ascending and disjoint, map it whole to one contiguous physical range, each grant what the attribute and the privilege
ask, and the partition holds that range; nothing else. The descriptor, 32 bytes in the core's own scratchpad, gives the window
its range, attribute and reply queue; size 0 unbinds; one with reserved bits, attribute 3 or a ragged range, and a walk that
fails, fail, and by the model's reading one of attribute 2 outside the own scratchpad (R231, R306, R307). Points that the spec
leaves to a reading stand as the model’s log entries 17, 45, 69, 70, 71, 89, 112 and 114 say. -/
def Obligations.PortsHandlesWindows : Prop :=
  (∀ (s : State) (p sa x : Nat) (a : Word),
    (s.noBrd = .ok () →
      (s.Reads .s sa (ofWord a) → (∀ u r, s.readRec a.toNat 64 64 10 p = .ok (u, r) →
        (∀ ps, portSet u.me r = some ps → Completes (.pset p sa) s fun t =>
          agetD t.me.ports p Port.reset = ⟨some ps, s.cyc, 0, none, false⟩ ∧ s.SameMem t ∧ Ctx.SameRegs s.me t.me) ∧
        (portSet u.me r = none → Raises (.pset p sa) s ⟨0x0B, 10, p, 0⟩)) ∧
       (∀ e, s.readRec a.toNat 64 64 10 p = .error e → Raises (.pset p sa) s e) ∧
       (∀ u r, s.readRec a.toNat 64 64 1 x = .ok (u, r) →
        (sealCheck (BitVec.ofNat 512 r) = none → exec (.seal x sa) s =
          .next (u.flight Cube.tt (u.cyc + 8) .hnd x [⟨Cube.tt, BitVec.ofNat 2048 r, 0, none⟩])) ∧
        (∀ k, sealCheck (BitVec.ofNat 512 r) = some k → Raises (.seal x sa) s ⟨0x0B, k, x, 0⟩)) ∧
       (∀ e, s.readRec a.toNat 64 64 1 x = .error e → Raises (.seal x sa) s e)) ∧
      (Completes (.ptag p x) s fun t => agetD t.me.ports p Port.reset = { agetD s.me.ports p Port.reset with check := some x } ∧
        s.SameMem t ∧ Ctx.SameRegs s.me t.me) ∧
      (s.Reads .s sa (ofWord a) → a.toNat % 32 = 0 → (∀ b, s.me.bind = some b → b.due ≤ s.cyc) →
        Completes (.bind x sa) s fun t => s.SameMem t ∧ Ctx.SameRegs s.me t.me ∧
          t.me.bind = some (match s.bindWalk s.iss.core s.me a.toNat with
            | some new => ⟨x, s.cyc + 64, new, none⟩
            | none => ⟨x, s.cyc + 64, none, some (s.mkTrap 0x0A 2 x a.toNat)⟩) ∧
          t.cal = calInsert ⟨s.cyc + 64, phLand, s.iss.core, s.iss.ctx, 0, .bindComplete s.iss.core s.iss.ctx, CtlAcc.reset⟩ s.cal)) ∧
    (∀ b, s.me.brd = some b → b.issued < s.cyc → ∀ (ra rb rc sc : Nat) (f l : Bool),
      (∀ i ∈ [Instr.ptag p x, .fenceO, .pfence sc, .tqpeek ra x], Raises i s ⟨0x08, 4, b.lit.idx, 0⟩) ∧
      (∀ i ∈ [Instr.psave, .combine f sa], s.rulePlace i = .ok () → Raises i s ⟨0x08, 4, b.lit.idx, 0⟩) ∧
      (s.myCore.arr.owner = some s.iss.ctx → ∀ i ∈ [Instr.mrel, .mswap x, .mwload x p ra, .mclr x, .mlive p x, .mgrad p x ra rb,
          .mmulBank f false x p ra rb rc, .mdrain p x false f l ra rb], Raises i s ⟨0x08, 4, b.lit.idx, 0⟩) ∧
      (s.myCore.arr.owner = some s.iss.ctx → ∀ y, s.Reads .m sc y → Raises (.mmulTm f false x p sc rb rc) s ⟨0x08, 4, b.lit.idx, 0⟩) ∧
      (s.Reads .s sa (ofWord a) → (∀ pa u, translate s.me s.iss.core .load a.toNat 64 1 false = .ok pa →
          s.claim s.iss.core s.iss.slot [offOf pa, offOf (pa + 63)] = .ok u →
          Raises (.pset p sa) s ⟨0x08, 4, b.lit.idx, 0⟩ ∧ Raises (.seal x sa) s ⟨0x08, 4, b.lit.idx, 0⟩) ∧
        (a.toNat % 32 = 0 → (∀ f, s.me.bind = some f → f.due ≤ s.cyc) → Raises (.bind x sa) s ⟨0x08, 4, b.lit.idx, 0⟩) ∧
        Raises (.xslot ra sa) s ⟨0x08, 4, b.lit.idx, 0⟩ ∧ Raises (.xslotRel ra sa) s ⟨0x08, 4, b.lit.idx, 0⟩) ∧
      ∀ i ∈ [Instr.pset p sa, .ptag p x, .seal x sa, .bind x sa, .copy ra rb rc sa, .atom x false ra rb rc, .fenceO, .fenceX sa,
        .pflush sa ra, .pfence sc, .mown, .mrel, .mswap x, .mres p sa, .mwload x p ra, .mclr x, .mtopk x sa, .mtree sa, .mlive p x,
        .mgrad p x ra rb, .rtx x ra, .rtap x sa ra, .tqpeek ra x, .irq x, .xslot ra sa, .xslotRel ra sa, .accept ra sa,
        .pkey ra sa rb, .plook ra sa, .tqsend x ra, .tqrecv ra x, .bar sc x sa, .hring sa, .psave, .combine f sa,
        .mmulTm f l x p sc rb rc, .mmulBank f l x p ra rb rc, .mdrain p x f l f ra rb, .mdrain p x f l (!f) ra rb],
      ∃ e, Raises i s e)) ∧
  ((∀ (s : State) (n k port who : Nat) (sc : Bool) (x : Ctx) (p : Port), x = s.ctx n k → p = agetD x.ports port Port.reset →
    let fails (f : Flt) : Prop := s.pop n k port who sc = .error f
    let gives (u : State) (row : Nat) (so : Option Nat) (nb : Nat) (fmt : Option Nat) : Prop :=
      ∀ pa, pa = spad n + row →
      let hits : List (Nat × Nat) := (pa, 256) :: (so.elim [] fun o => [(spad n + o, nb)])
      (∀ f, u.poisonFlt pa 256 = some f → fails f) ∧
      (∀ o f, u.poisonFlt pa 256 = none → so = some o → u.poisonFlt (spad n + o) nb = some f → fails f) ∧
      ((∀ h ∈ hits, u.poisonFlt h.1 h.2 = none) →
        ((∀ t, p.check = some t → ∀ h ∈ hits, ∀ q, granOf h.1 ≤ q → q ≤ granOf (h.1 + h.2 - 1) → u.tag q = t) →
          s.pop n k port who sc = .ok (u.modCtx n k fun x => { x with ports := aset x.ports port { p with pos := p.pos + 1 } },
            ⟨BitVec.ofNat 2048 (u.load pa 256),
              so.elim unitScales (fun o => BitVec.ofNat 512 (u.load (spad n + o) nb)), fmt⟩)) ∧
        ∀ t q, p.check = some t → granOf pa ≤ q → q ≤ granOf (pa + 255) → u.tag q ≠ t →
          (∀ r, granOf pa ≤ r → r < q → u.tag r = t) → fails ⟨0x03, 1, port + t * 2 ^ 8 + u.tag q * 2 ^ 16, 64 * q⟩)
    (p.set = none → fails ⟨0x05, 1, port, 0⟩) ∧
    ∀ ps, p.set = some ps →
      (s.cyc < p.at_ + 8 ∨ ps.total ≤ p.pos → fails ⟨0x05, 1, port, 0⟩) ∧
      (p.at_ + 8 ≤ s.cyc → p.pos < ps.total → ∀ w, w = walkOf ps.cnt ps.str p.pos →
        (ps.hv = false → ∀ off : Int, off = ps.base + w →
          (off < 0 ∨ 0x400000 - 256 < off → fails ⟨0x0A, 0, 16, addr64 off⟩) ∧
          (0 ≤ off → off ≤ 0x400000 - 256 →
            (∀ e, s.claimPop n who (some off.toNat) none = .error e → fails e) ∧
            ∀ u, s.claimPop n who (some off.toNat) none = .ok u → gives u off.toNat none 64 none)) ∧
        (ps.hv = true → ps.hrec = none → fails ⟨0x0B, 0, port, 0⟩) ∧
        (∀ r, ps.hv = true → ps.hrec = some r → ∀ off : Int, off = recEBase r + w * recEStride r → 0 ≤ off → off ≤ 0x400000 - 256 →
          (w < 0 ∨ (recRows r : Int) ≤ w → ∀ u, s.claimPop n who (some off.toNat) none = .ok u → fails ⟨0x0B, 9, port, 0⟩) ∧
          (0 ≤ w → w < recRows r → ∀ so, so = (if sc = true ∧ recSMode r = 1 then some (recSBase r + w.toNat * recSStride r) else none) →
            (∀ e, s.claimPop n who (some off.toNat) so = .error e → fails e) ∧
            ∀ u, s.claimPop n who (some off.toNat) so = .ok u → gives u off.toNat so (fmtBlocks (recFmt r)) (some (recFmt r)))))) ∧
  (∀ (s : State) (n who r o : Nat), s.claimPop n who (some r) none = s.claim n who [r] ∧ s.claimPop n who none none = .ok s ∧
    (o / 2 ^ 20 = r / 2 ^ 20 → s.claimPop n who (some r) (some o) = .error ⟨0x04, 0, bankOf o + who * 2 ^ 8 + who * 2 ^ 12, 0⟩) ∧
    (o / 2 ^ 20 ≠ r / 2 ^ 20 → ∀ u, s.claim n who [r] = .ok u → s.claimPop n who (some r) (some o) = u.claim n who [o])) ∧
  (∀ (n0 n1 n2 n3 i0 i1 i2 i3 : Nat) (t0 t1 t2 t3 : Int), i0 < n0 → i1 < n1 → i2 < n2 → i3 < n3 →
    walkOf [n0, n1, n2, n3] [t0, t1, t2, t3] (i0 + n0 * (i1 + n1 * (i2 + n2 * i3))) = i0 * t0 + i1 * t1 + i2 * t2 + i3 * t3) ∧
  (∀ ps : PortSet, ∀ n0 n1 n2 n3 : Nat, ps.cnt = [n0, n1, n2, n3] → ps.total = max n0 1 * max n1 1 * max n2 1 * max n3 1) ∧
  ∀ (x : Ctx) (r : Nat) (ps : PortSet), portSet x r = some ps → ps.base = r % 2 ^ 22 ∧ ps.hv = r.testBit 28 ∧
    ps.hrec = aget x.hnd (r / 2 ^ 24 % 16) ∧ ps.cnt.length = 4 ∧ ps.str.length = 4 ∧
    ∀ j < 4, ps.cnt.getD j 0 = r / 2 ^ (64 * j + 64) % 2 ^ 16 ∧ ps.str.getD j 0 = sint 24 (r / 2 ^ (64 * j + 80) % 2 ^ 24)) ∧
  ((∀ (x : Ctx) (n : Nat) (k : Acc) (ea : Int) (len align : Nat) (word : Bool),
    let at_ : Except Flt Nat := translate x n k ea len align word
    ((∀ p ∈ x.win, ¬ ((p.2.vbase : Int) ≤ ea ∧ ea < p.2.vbase + p.2.size)) → at_ = .error ⟨0x0A, 0, 16, (ea % 2 ^ 64).toNat⟩) ∧
    ∀ w d, x.win.Pairwise (fun p q => p.1 < q.1) → (w, d) ∈ x.win → (d.vbase : Int) ≤ ea → ea < d.vbase + d.size →
      (∀ p ∈ x.win, p.1 < w → ¬ ((p.2.vbase : Int) ≤ ea ∧ ea < p.2.vbase + p.2.size)) →
      ∀ pa, pa = d.pbase + (ea - d.vbase).toNat → at_ =
        if (d.vbase : Int) + d.size < ea + len then .error ⟨0x0A, 0, w, (ea % 2 ^ 64).toNat⟩
        else if d.sup = true ∧ x.q.sup = false then .error ⟨0x0A, 7, w, (ea % 2 ^ 64).toNat⟩
        else if regionOf pa = .ctl then
          if word = true ∧ (k = .load ∨ k = .store) ∧ ea % 8 = 0 then
            if k.writes = true ∧ d.attr = 0 then .error ⟨0x0A, 5, w, (ea % 2 ^ 64).toNat⟩ else .ok pa
          else .error ⟨0x0A, 3, w, (ea % 2 ^ 64).toNat⟩
        else if k.reach n (regionOf pa) = false ∨ k.reach n (regionOf (pa + len - 1)) = false then
          .error ⟨0x0A, 6, w, (ea % 2 ^ 64).toNat⟩
        else if ea % align ≠ 0 then .error ⟨0x0A, 1, w, (ea % 2 ^ 64).toNat⟩
        else if k.writes = true ∧ d.attr = 0 then .error ⟨0x0A, 5, w, (ea % 2 ^ 64).toNat⟩
        else .ok pa) ∧
  ∀ n m : Nat,
    (∀ k ∈ [Acc.load, .store, .flush], k.reach n (.spad m) = decide (m = n) ∧
      ∀ r ∈ [Region.ring m, .hbm m, .lpddr, .tq m, .host, .pod, .unmapped], k.reach n r = false) ∧
    (Acc.lazy.reach n (.spad m) = decide (dieOf m = dieOf n) ∧ Acc.lazy.reach n (.ring m) = decide (m / 64 = dieOf n)) ∧
    (∀ r ∈ [Region.spad m, .ring m, .host, .pod], Acc.atom.reach n r = true) ∧
    (∀ r ∈ [Region.hbm m, .lpddr, .tq m], Acc.atom.reach n r = false) ∧
    (∀ r ∈ [Region.spad m, .ring m, .hbm m, .lpddr, .host, .pod], Acc.copySrc.reach n r = true ∧ Acc.copyDst.reach n r = true) ∧
    Acc.copySrc.reach n (.tq m) = false ∧ Acc.copyDst.reach n (.tq m) = true) ∧
  ((∀ (s : State) (p va n attr pa : Nat) (sup : Bool), 0 < n →
    let touches (e : Nat) : Prop := pteVa e < va + n ∧ va < pteEnd e
    let maps : Prop := ptesOk 0 (s.ptes p) = true ∧ (∀ e ∈ s.ptes p, touches e → pteGrants attr sup e = true) ∧
      ∀ b < n, ∃ e ∈ s.ptes p, pteVa e ≤ va + b ∧ va + b < pteEnd e ∧ pa + b = ptePa e + (va + b - pteVa e)
    (s.walk p va n attr sup = some pa → maps ∧ ∃ all, s.holdsRange p pa n all = true ∧
      (all = true ↔ ∀ e ∈ s.ptes p, touches e → e.testBit 116 = true)) ∧
    ∀ all : Bool, maps → (all = true ↔ ∀ e ∈ s.ptes p, touches e → e.testBit 116 = true) → s.holdsRange p pa n all = true →
      s.walk p va n attr sup = some pa) ∧
  (∀ (attr e : Nat) (sup : Bool), pteGrants attr sup e = true ↔ e.testBit 113 = true ∧ (attr = 0 ∨ e.testBit 114 = true) ∧
    (attr = 2 → e.testBit 115 = true) ∧ (e.testBit 116 = true → sup = true)) ∧
  ∀ (s m : State) (n va dpa d vb size attr : Nat) (x : Ctx), m = s.withMirror →
    (m.walk x.q.part va 32 0 x.q.sup = none → s.bindWalk n x va = none) ∧
    (m.walk x.q.part va 32 0 x.q.sup = some dpa →
      (regionOf dpa ≠ .spad n ∨ regionOf (dpa + 31) ≠ .spad n → s.bindWalk n x va = none) ∧
      (regionOf dpa = .spad n → regionOf (dpa + 31) = .spad n → d = m.load dpa 32 → vb = d % 2 ^ 64 → size = d / 2 ^ 64 % 2 ^ 40 →
        attr = d / 2 ^ 104 % 4 →
        (attr = 3 ∨ d / 2 ^ 112 % 2 ^ 144 ≠ 0 ∨ vb % 64 ≠ 0 ∨ size % 64 ≠ 0 → s.bindWalk n x va = none) ∧
        (attr ≠ 3 → d / 2 ^ 112 % 2 ^ 144 = 0 → vb % 64 = 0 → size % 64 = 0 →
          (size = 0 → s.bindWalk n x va = some none) ∧
          (0 < size → m.walk x.q.part vb size attr x.q.sup = none → s.bindWalk n x va = none) ∧
          ∀ pb, 0 < size → m.walk x.q.part vb size attr x.q.sup = some pb →
            (attr = 2 → regionOf pb ≠ .spad n ∨ regionOf (pb + size - 1) ≠ .spad n → s.bindWalk n x va = none) ∧
            (attr = 2 → regionOf pb = .spad n ∧ regionOf (pb + size - 1) = .spad n → s.bindWalk n x va = some (some
              { vbase := vb, size := size, attr := attr, rq := d / 2 ^ 106 % 64, pbase := pb, sup := x.q.sup })) ∧
            (attr ≠ 2 → s.bindWalk n x va = some (some
              { vbase := vb, size := size, attr := attr, rq := d / 2 ^ 106 % 64, pbase := pb, sup := x.q.sup }))))))

/-- MOWN takes a free array or keeps its own; MREL frees it once nothing is pending; MSWAP exchanges the copies of the banks it
names; MRES names the shadow's expert; MCLR clears tiles; MTOPK sets k, the base and the lists; MLIVE reads a tile's status
word. Another context's array raises the ownership fault before any other (R196 to R200, R207, R208, R212). The busy faults of
MREL and MCLR carry the opcode in INFO0 (log 17, log 45). Points that the spec leaves to a reading stand as the model’s log
entries 17, 45 and 114 say. -/
def Obligations.MatrixStateInstructions : Prop :=
  ∀ (s : State) (mask bank sa sd acc k : Nat) (v : Word),
    (s.noBrd = .ok () → s.myCore.arr.owner = none → Completes .mown s fun t => t.myCore.arr = { s.myCore.arr with owner := some s.iss.ctx } ∧ t.me = s.me) ∧
    (s.noBrd = .ok () → s.myCore.arr.owner = some s.iss.ctx → exec .mown s = .next s) ∧
    (∀ o, s.myCore.arr.owner = some o → o ≠ s.iss.ctx →
      Raises .mown s ⟨0x0F, 0, o, 0⟩ ∧ Raises .mrel s ⟨0x0F, 0, o, 0⟩ ∧ Raises (.mswap mask) s ⟨0x0F, 0, o, 0⟩ ∧
      Raises (.mres bank sa) s ⟨0x0F, 0, o, 0⟩ ∧ Raises (.mclr mask) s ⟨0x0F, 0, o, 0⟩ ∧ Raises (.mtopk k sa) s ⟨0x0F, 0, o, 0⟩ ∧
      Raises (.mlive sd acc) s ⟨0x0F, 0, o, 0⟩ ∧ Raises (.mtree sa) s ⟨0x0F, 0, o, 0⟩ ∧
      Raises (.mgrad bank acc k sd) s ⟨0x0F, 0, o, 0⟩ ∧ Raises (.mwload k bank sa) s ⟨0x0F, 0, o, 0⟩) ∧
    (s.noBrd = .ok () → s.myCore.arr.owner = some s.iss.ctx → ∀ a, a = s.myCore.arr →
      (a.pendingUntil ≤ s.cyc → Completes .mrel s fun t => t.myCore.arr.owner = none ∧ t.myCore.arr.conts = [] ∧
        t.myCore.arr.tiles = a.tiles ∧ t.myCore.arr.banks = a.banks ∧ t.myCore.arr.oq = a.oq ∧ t.me = s.me) ∧
      (s.cyc < a.pendingUntil → Raises .mrel s ⟨0x05, 4, 2, 0⟩) ∧
      ((∀ f, a.fill = some f → mask.testBit f.bank = false) → Completes (.mswap mask) s fun t => t.me = s.me ∧
        t.myCore.arr.tiles = a.tiles ∧ ∀ b < 4, t.myCore.arr.bank b =
          if mask.testBit b then ⟨(a.bank b).shd, (a.bank b).act, some s.cyc⟩ else a.bank b) ∧
      (s.Reads .s sa (ofWord v) → Completes (.mres bank sa) s fun t => t.me = s.me ∧ t.myCore.arr.tiles = a.tiles ∧
        (t.myCore.arr.bank bank).act = (a.bank bank).act ∧
        (t.myCore.arr.bank bank).shd = (if v.toNat % 2 ^ 32 = 0xFFFFFFFF then { (a.bank bank).shd with valid := false }
          else { (a.bank bank).shd with valid := true, expert := v.toNat % 2 ^ 32 })) ∧
      ((∀ j < 8, mask.testBit j = true → a.tileBusy j s.cyc = false) → Completes (.mclr mask) s fun t => t.me = s.me ∧
        t.myCore.arr.banks = a.banks ∧ ∀ j < 8, t.myCore.arr.tile j = if mask.testBit j then Tile.reset else a.tile j) ∧
      ((∃ j < 8, mask.testBit j = true ∧ a.tileBusy j s.cyc = true) → Raises (.mclr mask) s ⟨0x05, 4, 12, 0⟩) ∧
      (s.Reads .s sa (ofWord v) → (∀ d ∈ a.drains, d.topk = true → d.n ≤ d.read) → Completes (.mtopk k sa) s fun t => t.me = s.me ∧
        t.myCore.arr = { a with
          k := k, ibase := v.toNat % 2 ^ 32, lists := if v.getLsbD 32 = false ∨ k ≠ a.k then [] else a.lists }) ∧
      (exec (.mlive sd acc) s = .next (s.landsS 1 sd (BitVec.ofNat 64 ((a.tile acc).ev + (a.tile acc).live.toNat * 2 ^ 8 +
        (a.tileBusy acc s.cyc).toNat * 2 ^ 9)))))

/-- MWLOAD starts a fill of a bank's shadow, MMUL and MGRAD put their rows on the entry path from issue + 2 on, MDRAIN starts a
drain whose first row is read at issue + 3, MTREE's tree applies 66 cycles after its issue, where the array belongs to the
context and nothing is in the way (R198, R203, R209, R211, R214, R216). Points that the spec leaves to a reading stand as the
model’s log entries 45 and 114 say. -/
def Obligations.MatrixStreamInstructions : Prop :=
  ∀ (s : State) (a : Arr) (id : Nat), s.noBrd = .ok () → s.myCore.arr.owner = some s.iss.ctx → a = s.myCore.arr → id = s.seqNo + 1 →
    (∀ fmt bank p : Nat, s.portFmt p = some fmt → ¬ (s.svcMode = 1 ∧ fmt ≠ 4) → a.fill = none →
      (∀ t, (a.bank bank).swapAt = some t → t + 260 ≤ s.cyc) → Completes (.mwload fmt bank p) s fun t => t.me = s.me ∧
        t.myCore.arr.fill = some
          { id := id, bank := bank, ctx := s.iss.ctx, slot := s.iss.slot, fpc := s.iss.pc, iat := s.cyc, sup := s.me.q.sup, port := p,
            fmt := fmt, cols := [], scl := [] } ∧
        (t.myCore.arr.bank bank).shd = { (a.bank bank).shd with valid := false } ∧
        t.cal = calInsert ⟨s.cyc + 2, phArray, s.iss.core, s.cyc, 5, .mwloadFillPop s.iss.core id 0, CtlAcc.reset⟩ s.cal) ∧
    (∀ (init live : Bool) (acc p m bank n sl lv : Nat) (x : Vec) (w : Word), a.entryBusy (s.cyc + 2) = false →
      (init = true ∨ (a.tile acc).poison = false) → (live = true → s.Reads .s sl (ofWord w)) →
      lv = min (if live then w.toNat else n) n →
      let streams (i : Instr) (tags : BitVec 512) : Prop := Completes i s fun t => t.me = s.me ∧ s.SameMem t ∧
        t.myCore.arr.tagrec = tags ∧ t.myCore.arr.lrec = lv ∧ t.myCore.arr.tiles = a.tiles ∧
        t.myCore.arr.passes = (a.passes.filter fun y => decide (s.cyc ≤ y.lastEntry) || (y.grad && decide (s.cyc < y.lastLand))) ++ [
          { id := id, grad := false, ctx := s.iss.ctx, slot := s.iss.slot, fpc := s.iss.pc, iat := s.cyc, sup := s.me.q.sup,
            c4 := s.me.ar.c4, port := p, tile := acc, init := init, n := n, live := lv, bank := 0, tags := tags, x0 := s.cyc + 2,
            r0 := 0, pops := [] }] ∧
        (0 < lv → t.cal = calInsert ⟨s.cyc + 2, phArray, s.iss.core, s.cyc, 5, .mmulRowEntry s.iss.core id 0, CtlAcc.reset⟩ s.cal)
      (s.Reads .m m x → streams (.mmulTm init live acc p m n sl) (x.setWidth 512)) ∧
      streams (.mmulBank init live acc p bank n sl) (allTags bank)) ∧
    (∀ bank acc p n f : Nat, s.portFmt p = some f → fmtClass f = 1 → a.entryBusy (s.cyc + 2) = false → (a.tile acc).poison = false →
      Completes (.mgrad bank acc p n) s fun t => t.me = s.me ∧ s.SameMem t ∧ t.myCore.arr.tiles = a.tiles ∧
        (∃ y : Pass, t.myCore.arr.passes = (a.passes.filter fun y => decide (s.cyc ≤ y.lastEntry) || (y.grad && decide (s.cyc < y.lastLand))) ++
          [y] ∧ y.id = id ∧ y.grad = true ∧ y.port = p ∧
          y.tile = acc ∧ y.n = n ∧ y.live = a.lrec ∧ y.tags = a.tagrec ∧ y.x0 = s.cyc + 2) ∧
        t.cal = calInsert ⟨s.cyc + 2, phArray, s.iss.core, s.cyc, 5, .mmulRowEntry s.iss.core id 0, CtlAcc.reset⟩ s.cal) ∧
    (∀ (oq acc n sp : Nat) (topk tree : Bool), a.drainBusy (s.cyc + 4 + (if topk then 8 else 0)) (drainEnd s.cyc topk n) = false →
      (topk = true → n ≤ 512 / a.k) → (tree = true → a.treeNew = []) → (a.tile acc).poison = false →
      Completes (.mdrain oq acc false topk tree sp n) s fun t => t.me = s.me ∧ s.SameMem t ∧ t.myCore.arr.oq = a.oq ∧
        (∃ d : Drain, t.myCore.arr.drains = a.drains ++ [d] ∧ d.id = id ∧ d.oq = oq ∧ d.tile = acc ∧ d.n = n ∧ d.read = 0 ∧ d.segs = [] ∧
          d.fin = s.cyc + 3 + (if topk then 8 else 0) + 4 * n) ∧
        t.cal = calInsert ⟨s.cyc + 3, phDrain, s.iss.core, s.cyc, 0, .drainRowRead s.iss.core id 0, CtlAcc.reset⟩ s.cal) ∧
    (∀ (oq acc n sp pa : Nat) (topk tree : Bool) (w : Word) (u : State),
      a.drainBusy (s.cyc + 4 + (if topk then 8 else 0)) (drainEnd s.cyc topk n) = false →
      (topk = true → n ≤ 512 / a.k) → (tree = true → a.treeNew = []) → (a.tile acc).poison = false → s.Reads .s sp (ofWord w) →
      translate s.me s.iss.core .load w.toNat 1024 256 false = .ok pa → s.claim s.iss.core 10 [offOf pa] = .ok u →
      u.poisonFlt pa 256 = none → Completes (.mdrain oq acc true topk tree sp n) s fun t => t.me = s.me ∧ s.SameMem t ∧
        ∃ d : Drain, t.myCore.arr.drains = a.drains ++ [d] ∧ d.id = id ∧ d.scale = true ∧ d.sbase = pa ∧ d.n = n ∧
          d.scales = [(0, BitVec.ofNat 2048 (s.load pa 256))]) ∧
    (∀ (sa r : Nat) (w : Word) (u : State) (tr : Tree), s.Reads .s sa (ofWord w) → (∀ d ∈ a.drains, d.tree = true → d.n ≤ d.read) →
      s.readRec w.toNat 128 128 11 0 = .ok (u, r) → treeOf r = some tr →
      Completes (.mtree sa) s fun t => t.me = s.me ∧ s.SameMem t ∧ t.myCore.arr.treeNew = a.treeNew ++ [(id, tr)] ∧
        t.cal = calInsert ⟨s.cyc + 66, phLandA, s.iss.core, 5, id, .treeApply s.iss.core id, CtlAcc.reset⟩ s.cal)

/-! ## Copies, atomics, fences, persists, queues, engines at issue -/

/-- COPY, where its alignment, windows, start and path class allow it, puts an entry into the copy unit that starts at base +
START and, between two regions of the package, arrives its latency later; a start not after the issue, or one before the class
is free, is a schedule fault, the latter with the cycle from which the class is free, and one more than 2^20 cycles away a
timing fault with the opcode in INFO0 (R235, R236, R237, R41). That INFO0 holds the opcode there is the model's reading. ATOM on
a region of the package puts an atomic on its way that performs 4 cycles and its travel after issue, with its result in flight
to sd for issue + 6 + twice the travel; on host memory, where the host has atomics, and in another package, FetchAdd, Swap and
CAS depart to the outside from issue + 4 on, in the order of their keys, and sd receives the sequence number of the atomic at
issue + 1, where the partition holds the reply queue of the window, else it is a queue fault; a misaligned address is a fault
before an outstanding branch is (R244, R245, R246, R266, R358). Points that the spec leaves to a reading stand as the model’s
log entries 17, 63 and 103 say. -/
def Obligations.CopyAtomicIssue : Prop :=
  (∀ (s : State) (rd ra rn rt src dst start : Nat) (d a n st : Word) (k : PathClass),
    s.Reads .s rd (ofWord d) → s.Reads .s ra (ofWord a) → s.Reads .s rn (ofWord n) → s.Reads .s rt (ofWord st) →
    d.toNat % 64 = 0 → a.toNat % 64 = 0 → n.toNat % 64 = 0 → 64 ≤ n.toNat → n.toNat ≤ 0x400000 →
    translate s.me s.iss.core .copySrc a.toNat n.toNat 1 false = .ok src →
    translate s.me s.iss.core .copyDst d.toNat n.toNat 1 false = .ok dst →
    (isTq (regionOf dst) = true → n.toNat ≤ 4096 ∧ dst % 0x1000 + n.toNat ≤ 0x1000) →
    (isOuter (regionOf src) = true → isTq (regionOf dst) = true) →
    start = s.me.q.base + st.toNat % 2 ^ 48 → k = pathClass (regionOf src) (regionOf dst) →
    (s.cyc < start → st.toNat < 2 ^ 56 → start ≤ s.cyc + 2 ^ 20 → s.myCore.copies.length < 1536 → s.myCore.busy k ≤ start →
      (∀ b, s.me.brd = some b → b.issued < s.cyc → Raises (.copy rd ra rn rt) s ⟨0x08, 4, b.lit.idx, 0⟩) ∧
      (s.noBrd = .ok () → Completes (.copy rd ra rn rt) s fun t => t.me = s.me ∧ s.SameMem t ∧ ∃ e : CopyEnt, t.myCore.copies = s.myCore.copies ++ [e] ∧
        e.start = start ∧ e.src = src ∧ e.dst = dst ∧ e.len = n.toNat ∧ e.tag = st.toNat / 2 ^ 48 ∧ e.seq = s.myCore.copySeq ∧
        (isOuter (regionOf src) = false → isOuter (regionOf dst) = false →
          e.arrive = start + copyLatency s.iss.core (regionOf src) (regionOf dst) n.toNat) ∧
        t.myCore.copySeq = (s.myCore.copySeq + 1) % 2 ^ 32 ∧
        (k ≠ .outer → t.myCore.busy k = start + (n.toNat + k.rate - 1) / k.rate) ∧
        t.cal = calInsert ⟨start, phArray, s.iss.core, 6, s.cyc, .copyStart s.iss.core e.id, CtlAcc.reset⟩ s.cal)) ∧
    (s.cyc + 2 ^ 20 < start → st.toNat < 2 ^ 56 → Raises (.copy rd ra rn rt) s ⟨0x05, 5, 36, 0⟩) ∧
    (start ≤ s.cyc ∨ 2 ^ 56 ≤ st.toNat → Raises (.copy rd ra rn rt) s ⟨0x03, 2, st.toNat, 0⟩) ∧
    (s.cyc < start → st.toNat < 2 ^ 56 → start ≤ s.cyc + 2 ^ 20 → s.myCore.copies.length < 1536 → start < s.myCore.busy k →
      Raises (.copy rd ra rn rt) s ⟨0x03, 4, s.myCore.busy k, 0⟩)) ∧
  (∀ (s : State) (op sd sa sb len pa p : Nat) (wide : Bool) (a b c : Word), s.noBrd = .ok () →
    s.Reads .s sa (ofWord a) → s.Reads .s sb (ofWord b) → (op = 4 → s.Reads .s sd (ofWord c)) →
    len = (if wide then 8 else 4) → a.toNat % len = 0 → translate s.me s.iss.core .atom a.toNat len len false = .ok pa →
    p = atomTravel s.iss.core (regionOf pa) →
    let departs (due : Nat) (t : State) (f : AtomFl) : Prop :=
      t.myCore.atoms = s.myCore.atoms ++ [f] ∧ f.op = op ∧ f.wide = wide ∧ f.addr = pa ∧ f.b = b.toNat ∧
        (op = 4 → f.cmp = c.toNat) ∧ f.seq = s.myCore.atomSeq ∧ s.SameMem t ∧ Ctx.SameRegs s.me t.me ∧
        ∃ r : Flight, t.me.fl = s.me.fl ++ [r] ∧ r.cls = .s ∧ r.reg = s.me.phys .s sd ∧ r.due = due
    (isOuter (regionOf pa) = false → Completes (.atom op wide sd sa sb) s fun t => ∃ f : AtomFl, departs (s.cyc + 6 + 2 * p) t f ∧
      f.due = s.cyc + 4 + p ∧ ⟨f.due, phWrite, s.iss.core, 6, s.cyc, .atomPerform s.iss.core f.id, CtlAcc.reset⟩ ∈ t.cal) ∧
    (isOuter (regionOf pa) = true → op = 0 ∨ op = 3 ∨ op = 4 → (regionOf pa = .host → Config.hostAtomics = true) →
      ∀ w, s.me.window a.toNat = some w →
      (s.holdsTq s.me.q.part (dieOf s.iss.core * 64 + w.2.rq) = false → Raises (.atom op wide sd sa sb) s ⟨0x06, 5, w.2.rq, 0⟩) ∧
      (s.holdsTq s.me.q.part (dieOf s.iss.core * 64 + w.2.rq) = true → Completes (.atom op wide sd sa sb) s fun t => ∃ f : AtomFl, departs (s.cyc + 1) t f ∧ f.rq = dieOf s.iss.core * 64 + w.2.rq ∧
        t.out = s.out ∧ t.wait = waitInsert ⟨s.cyc + 4, [s.cyc + 4, s.iss.core, 1, 0],
          if regionOf pa = .host then 0 else bits pa 43 24 + 1, none, .atomic pa op wide f.b f.cmp f.seq⟩ s.wait ∧
        ∃ r : Flight, t.me.fl = s.me.fl ++ [r] ∧ r.pairs = [⟨Cube.tt, ofWord (BitVec.ofNat 64 s.myCore.atomSeq), 0, none⟩])) ∧
    ∀ u : State, u.Reads .s sa (ofWord a) → a.toNat % len ≠ 0 → Raises (.atom op wide sd sa sb) u (u.winFlt 1 a.toNat))

/-- FENCE.O begins a new epoch of its core's stores. FENCE.X brings the drains of the lazy stores of a core of its partition,
made before it, forward to before its bound, 64 cycles and 24 for each die crossing after it, with the order of the epochs kept;
a core of no use to it is a window fault, before an outstanding branch is one (R241, R242, R243, R262, R358). PFLUSH captures
the granules of an aligned range of a persistent window, to persist one every second cycle from issue + 16 on, behind earlier
flushes and fences; PFENCE holds the core's later persists behind all flushes, saves and queue changes that its scope has issued
up to and in its cycle; PSAVE, in a persist slate, captures the context's landed registers in a record; without the negative's
readiness flush and save are faults (R247, R248, R249, R264, R265). Points that the spec leaves to a reading stand as the
model’s log entries 7, 17, 64 and 107 say. -/
def Obligations.FencesPersists : Prop :=
  (∀ (s : State),
    (s.noBrd = .ok () → Completes .fenceO s fun t => t.me = s.me ∧ s.SameMem t ∧ t.cal = s.cal ∧ t.myCore.epoch = s.myCore.epoch + 1 ∧
      t.myCore.lazy = s.myCore.lazy) ∧
    ∀ (sa bound : Nat) (n : Word), s.Reads .s sa (ofWord n) → bound = s.cyc + 64 + 24 * crossings (dieOf s.iss.core) (dieOf n.toNat) →
      (n.toNat < 512 → s.holdsCore s.me.q.part n.toNat = true →
        (∀ b, s.me.brd = some b → b.issued < s.cyc → Raises (.fenceX sa) s ⟨0x08, 4, b.lit.idx, 0⟩) ∧
        (s.noBrd = .ok () → Completes (.fenceX sa) s fun t => t.me = s.me ∧ s.SameMem t ∧
          (∀ e ∈ (t.core n.toNat).lazy, e.first ≤ s.cyc → e.due < bound) ∧
          (t.core n.toNat).lazy = epochOrder ((s.core n.toNat).lazy.map fun e =>
            if e.first ≤ s.cyc then { e with due := min e.due (bound - 1) } else e))) ∧
      (512 ≤ n.toNat ∨ s.holdsCore s.me.q.part n.toNat = false → Raises (.fenceX sa) s ⟨0x0A, 6, 16, n.toNat⟩)) ∧
  (∀ (s : State), s.noBrd = .ok () →
    (∀ (sa sn pa w : Nat) (win : Win) (a n : Word), s.Reads .s sa (ofWord a) → s.Reads .s sn (ofWord n) →
      (s.negReady = false → Raises (.pflush sa sn) s ⟨0x05, 8, 40, 0⟩) ∧
      (s.negReady = true → a.toNat % 64 = 0 → n.toNat % 64 = 0 → 64 ≤ n.toNat → n.toNat ≤ 0x100000 →
        translate s.me s.iss.core .flush a.toNat n.toNat 1 false = .ok pa → s.me.window a.toNat = some (w, win) → win.attr = 2 →
        Completes (.pflush sa sn) s fun t => t.me = s.me ∧ s.SameMem t ∧ ∃ f : Flush, t.myCore.flushes = s.myCore.flushes ++ [f] ∧
          f.p0 = max (s.cyc + 16) (max s.myCore.flushFree (s.fencePoint s.iss.core + 1)) ∧ f.grans.length = n.toNat / 64 ∧
          (∀ i < n.toNat / 64, f.grans.getD i (0, 0, 0, false) = ((offOf (pa + 64 * i)) / 64, BitVec.ofNat 512 (s.load (pa + 64 * i) 64),
            s.tag (granOf (pa + 64 * i)), s.poisoned (pa + 64 * i) 64)) ∧
          t.myCore.flushFree = f.p0 + 2 * (n.toNat / 64 - 1) + 1 ∧
          t.cal = calInsert ⟨f.p0, phArray, s.iss.core, 6, f.id, .flushGranulePersist s.iss.core f.id 0, CtlAcc.reset⟩ s.cal)) ∧
    (∀ sc : Nat, Completes (.pfence sc) s fun t => t.me = s.me ∧ s.SameMem t ∧ t.cal = s.cal ∧
      t.myCore.fence = s.fencePoint s.iss.core ∧ (s.cyc, sc) ∈ t.myCore.fenceAt) ∧
    (∀ c sc n : Nat, (c, sc) ∈ (s.core n).fenceAt → c < s.cyc →
      (∀ x ∈ s.cores, inScope sc n x.1 = true → (∀ f ∈ x.2.flushes, f.iat ≤ c → f.last ≤ s.fencePoint n) ∧
        ∀ v ∈ x.2.saves, v.kind = 1 → v.iat ≤ c → v.header ≤ s.fencePoint n) ∧
      ∀ d ∈ s.dies, sc = 4 ∨ (sc = 3 ∧ d.1 = dieOf n) →
        ∀ q ∈ d.2.tqs, ∀ g ∈ q.2.chg, g.at_ ≤ c → g.change = true → g.at_ + 32 ≤ s.fencePoint n) ∧
    (s.rulePlace .psave = .ok () →
      (s.negReady = false → Raises .psave s ⟨0x05, 8, 42, 0⟩) ∧
      (s.negReady = true → Completes .psave s fun t => t.me = s.me ∧ s.SameMem t ∧ ∃ v : Save, t.myCore.saves = s.myCore.saves ++ [v] ∧
        v.ctx = s.iss.ctx ∧ v.kind = 1 ∧ v.pay.resume = s.me.q.npc ∧ v.pay.ctx.s = s.me.s ∧ v.pay.ctx.v = s.me.v ∧
        v.pay.ctx.m = s.me.m ∧ v.pay.ctx.hnd = s.me.hnd ∧ v.pay.ctx.tr = s.me.tr ∧
        v.from_ = max (s.cyc + 1) s.myCore.shadowFree ∧ v.start = v.from_ ∧ v.slot = none ∧
        v.header = max (v.from_ + 46) (s.fencePoint s.iss.core + 1) ∧
        t.cal = [v.from_, v.start, v.header].foldl (fun c at_ =>
          calInsert ⟨at_, phArray, s.iss.core, 6, v.id, .psaveHeaderWrite s.iss.core v.id, CtlAcc.reset⟩ c) s.cal)))

/-- RTX puts a flit with va on its lane of the reel, unless another flit holds its lane slot, which is a schedule fault; RTAP
puts the flit available to its stop on its way to the scratchpad, to be written in the next cycle, and does nothing where there
is none (R233, R234, R43). TQSEND sends the low 64 bytes of v as an entry receivable 6 cycles later where the queue has a place,
and blocks where it has none; TQRECV removes the entry reserved for it, or the oldest free one, which lands 8 cycles later, a
poisoned one with the poison fault, and blocks where there is none; TQPEEK counts the receivable entries; a queue the partition
does not hold is a fault (R95, R45, R338). That a sent entry takes its place at issue, before it is receivable, is the model's
reading. Points that the spec leaves to a reading stand as the model’s log entries 59 and 63 say. -/
def Obligations.ReelQueues : Prop :=
  (∀ (s : State) (lane v sa t : Nat) (x : Vec) (a : Word), s.noBrd = .ok () →
    (∀ e, e = s.cyc + s.cold [v] → s.Reads .v v x →
      ((∀ f ∈ (s.die (dieOf s.iss.core)).flits, f.meets lane (stopOf s.iss.core) e = false) →
        Completes (.rtx lane v) s fun t => t.me = s.me ∧ s.SameMem t ∧ ∃ f : Flit,
          (t.die (dieOf s.iss.core)).flits = (s.die (dieOf s.iss.core)).flits ++ [f] ∧ f.lane = lane ∧ f.stop = stopOf s.iss.core ∧
          f.enter = e ∧ f.core = s.iss.core ∧ f.part = s.me.q.part ∧ f.data = x) ∧
      (∀ f, (s.die (dieOf s.iss.core)).flits.find? (fun f => f.meets lane (stopOf s.iss.core) e) = some f →
        Raises (.rtx lane v) s ⟨0x03, 3, lane + f.core * 2 ^ 16, 0⟩)) ∧
    ∀ (pa : Nat) (got : Option Flit), s.Reads .s sa (ofWord a) → s.reachA .store a.toNat 256 false = .ok pa →
      got = (s.die (dieOf s.iss.core)).flits.find? (fun f => f.availableTo lane (stopOf s.iss.core) s.cyc && f.part = s.me.q.part) →
      (got = none → exec (.rtap lane sa t) s = .next s) ∧
      ∀ f, got = some f → Completes (.rtap lane sa t) s fun u => u.me = s.me ∧ s.SameMem u ∧ ∃ w : Store,
        u.myCore.stores = s.myCore.stores ++ [w] ∧ w.ws = [⟨pa, 256, f.data.toNat⟩] ∧ w.due = s.cyc + 1 ∧ w.ep = t ∧
        u.cal = calInsert ⟨s.cyc + 1, phWrite, s.iss.core, 7, s.cyc, .storePerform s.iss.core s.iss.ctx w.id, CtlAcc.reset⟩ s.cal) ∧
  (∀ (s : State) (q v sd qn : Nat) (x : Vec) (r : Tq), s.noBrd = .ok () → qn = s.myTq q → r = s.tq qn →
    (s.holdsTq s.me.q.part qn = true →
      (s.rulePlace (.tqsend q v) = .ok () → s.Reads .v v x →
        ((s.released (.send qn)).isSome = true ∨ r.taken < 64 → Completes (.tqsend q v) s fun t => t.me = s.me ∧ s.SameMem t ∧ ∃ e : TqIn,
          (t.tq qn).sent = r.sent ++ [e] ∧ (t.tq qn).ents = r.ents ∧ e.data = x.setWidth 512 ∧ e.since = s.cyc + 6 + s.cold [v] ∧
          e.src = s.iss.core ∧ e.poison = false ∧
          t.cal = calInsert ⟨e.since, phQueue, s.iss.core, 0, e.id, .tqEntryReceivable qn e.id, CtlAcc.reset⟩ s.cal) ∧
        (s.released (.send qn) = none → 64 ≤ r.taken → exec (.tqsend q v) s = .next (s.blockOn (.send qn)))) ∧
      (s.rulePlace (.tqrecv v q) = .ok () →
        ∀ got : Option TqEnt, got = ((s.released (.recv qn)).bind fun b => r.ents.find? fun e => some e.id = b.entry).or
          (r.ents.find? fun e => e.resv.isNone) →
        (got = none → exec (.tqrecv v q) s = .next (s.blockOn (.recv qn))) ∧
        ∀ e, got = some e → Completes (.tqrecv v q) s fun t => s.SameMem t ∧ Ctx.SameRegs s.me t.me ∧
          (t.tq qn).ents = r.ents.filter (fun y => y.id ≠ e.id) ∧
          ∃ f : Flight, t.me.fl = s.me.fl ++ [f] ∧ f.cls = .v ∧ f.reg = s.me.phys .v v ∧ f.due = s.cyc + 8 ∧
            (e.poison = false → f.pairs = [⟨Cube.tt, e.data.setWidth 2048, 0, none⟩]) ∧
            (e.poison = true → f.pairs = [⟨Cube.tt, e.data.setWidth 2048, 0, some (s.mkTrap 0x0C 0 q 0)⟩])) ∧
      exec (.tqpeek sd q) s = .next (s.landsS 2 sd (BitVec.ofNat 64 r.ents.length))) ∧
    (s.holdsTq s.me.q.part qn = false → Raises (.tqpeek sd q) s ⟨0x06, 5, q, 0⟩ ∧
      (s.rulePlace (.tqsend q v) = .ok () → Raises (.tqsend q v) s ⟨0x06, 5, q, 0⟩) ∧
      (s.rulePlace (.tqrecv v q) = .ok () → Raises (.tqrecv v q) s ⟨0x06, 5, q, 0⟩)))

/-- BAR in a slate bundle arrives and blocks where its count agrees with the phase's and the scope, is a schedule fault where it
does not, and issues once released, with LASTREL the release cycle; the empty scope does nothing. IRQ posts its vector to the
host where the partition owns it, with the key (issue + 4, core, 3, 0), in any bundle and at either privilege, and is a
privilege fault where the partition does not own it, else a guard fault while a deferred branch is outstanding (R97, R45, R304,
R358). COMBINE and COMBINE.RN arrive at the phase their header names and block where the header agrees with it, are a schedule
fault where it does not and a seal fault, check 15, where reserved bits of the header are set; released, they issue, with the
merge's events in ASTAT (R290, R291). Points that the spec leaves to a reading stand as the model’s log entries 31 and 40 say.
-/
def Obligations.BarriersInterruptsCombines : Prop :=
  (∀ (s : State) (sc b sp n : Nat) (a : Word), s.noBrd = .ok () →
    (s.rulePlace (.bar sc b sp) = .ok () →
      (sc = 0 → exec (.bar sc b sp) s = .next s) ∧
      (1 ≤ sc → s.Reads .s sp (ofWord a) → ∀ (key : Nat) (x : Barrier),
        key = barKey s.me.q.part sc (scopeInst sc s.iss.core) b → x = agetD s.bars key Barrier.reset →
        (∀ r c, s.released (.bar key) = some r → r.entry = some c → r.poisoned = false → Completes (.bar sc b sp) s fun t =>
          t.me.q.lastrel = c ∧ s.SameMem t ∧ Ctx.SameRegs s.me t.me ∧ t.bars = s.bars) ∧
        (s.released (.bar key) = none →
          (∀ size m first : Nat, s.scopeSize s.me.q.part sc (scopeInst sc s.iss.core) = size →
            m = (if a.toNat = 0 then size else a.toNat) → first = (if x.isOpen || x.closing sc s.cyc then x.n else m) →
            (m = first → m ≤ size → exec (.bar sc b sp) s = .next (s.blockOn (.bar key))) ∧
            (m ≠ first ∨ size < m → Raises (.bar sc b sp) s ⟨0x03, 5, first % 256 + m % 256 * 2 ^ 8, 0⟩))))) ∧
    (s.vbase s.me.q.part ≤ n → n < s.vbase s.me.q.part + s.vcnt s.me.q.part → Completes (.irq n) s fun t => t.me = s.me ∧ s.SameMem t ∧
      t.out = s.out ∧ t.wait = waitInsert ⟨s.cyc + 4, [s.cyc + 4, s.iss.core, 3, 0], 0, none, .msix n⟩ s.wait) ∧
    (n < s.vbase s.me.q.part ∨ s.vbase s.me.q.part + s.vcnt s.me.q.part ≤ n → Raises (.irq n) s ⟨0x02, 2, n, 0⟩) ∧
    ∀ (u : State) (d : Brd), u.vbase u.me.q.part ≤ n → n < u.vbase u.me.q.part + u.vcnt u.me.q.part →
      u.me.brd = some d → d.issued < u.cyc → Raises (.irq n) u ⟨0x08, 4, d.lit.idx, 0⟩) ∧
  (∀ (s : State) (rn : Bool) (sa : Nat) (a : Word), s.noBrd = .ok () → s.rulePlace (.combine rn sa) = .ok () →
    (∀ (key c : Nat) (ev : Option Nat) (p : Bool), s.me.q.block = some ⟨.combine key c, s.me.q.block.elim 0 (·.since), true, ev, p⟩ →
      Completes (.combine rn sa) s fun t => t.me = { s.me with ar := s.me.ar.record s.cyc (ev.getD 0) } ∧ s.SameMem t) ∧
    (s.me.q.block = none → s.Reads .s sa (ofWord a) → ∀ (pa h key : Nat) (u : State), s.ownRw a.toNat 1280 256 = .ok pa →
      s.claim s.iss.core 11 [offOf pa] = .ok u → h = s.load pa 256 → key = combKey s.me.q.part (hdrGroup h) (hdrPhase h) →
      ((∀ c, aget s.combs key = some c → c.clash h = false) → hdrIndex h < hdrN h → bits h 31 18 = 0 → bits h 1535 96 = 0 →
        u.poisonFlt pa 768 = none → exec (.combine rn sa) s = .next (u.blockOn (.combine key (hdrPhase h)))) ∧
      ((∀ c, aget s.combs key = some c → c.clash h = false) → hdrIndex h < hdrN h → bits h 31 18 ≠ 0 ∨ bits h 1535 96 ≠ 0 →
        Raises (.combine rn sa) s ⟨0x0B, 15, 0, 0⟩) ∧
      (∀ c, aget s.combs key = some c → c.clash h = true →
        Raises (.combine rn sa) s ⟨0x03, 5, c.n + hdrN h * 2 ^ 8, 0⟩) ∧
      (aget s.combs key = none → hdrN h ≤ hdrIndex h → Raises (.combine rn sa) s ⟨0x03, 5, hdrN h + hdrN h * 2 ^ 8, 0⟩)))

/-- XSLOT and XSLOT.rel perform at issue + 260, ACCEPT at issue + 40, PKEY at issue + 96 and PLOOK at issue + 32, each with its
result in flight to sd for that cycle; ACCEPT reads row 0 of its record at issue and the two others in the next two cycles, PKEY
takes the digest of the parent key and the tokens, PLOOK the key and the insert operand (R202, R276, R278, R280). HRING, for the
position its sequence stands at, takes the next place of its partition's ring, with the slot's tail in its low word, to depart
32 cycles later; a position gone by has no effect, a later one is a fault, and a ring that is off or full blocks (R287). Points
that the spec leaves to a reading stand as the model’s log entries 41 and 42 say. -/
def Obligations.EngineRequests : Prop :=
  (∀ (s : State) (sd sa sb : Nat) (a b : Word), s.noBrd = .ok () → s.Reads .s sa (ofWord a) →
    let asks (i : Instr) (due : Nat) (j : State → Job → Prop) (ev : Nat → Instr) : Prop := Completes i s fun t => s.SameMem t ∧
      Ctx.SameRegs s.me t.me ∧ ∃ w : Job, t.myCore.jobs = s.myCore.jobs ++ [w] ∧ w.ctx = s.iss.ctx ∧ w.part = s.me.q.part ∧ j t w ∧
        (∃ f : Flight, t.me.fl = s.me.fl ++ [f] ∧ f.id = w.id ∧ f.cls = .s ∧ f.reg = s.me.phys .s sd ∧ f.due = due) ∧
        ⟨due, phWrite, s.iss.core, 7, s.cyc, ev w.id, CtlAcc.reset⟩ ∈ t.cal
    asks (.xslot sd sa) (s.cyc + 260) (fun _ w => w.rel = false ∧ w.a = a.toNat % 2 ^ 32) (fun id => .xslotPerform s.iss.core id) ∧
    asks (.xslotRel sd sa) (s.cyc + 260) (fun _ w => w.rel = true ∧ w.a = a.toNat % 2 ^ 32) (fun id => .xslotPerform s.iss.core id) ∧
    (∀ (pa : Nat) (u : State) (r0 : Vec), s.ownRw a.toNat 1280 256 = .ok pa → s.claim s.iss.core 11 [offOf pa] = .ok u →
      r0 = BitVec.ofNat 2048 (s.load pa 256) →
      (treeBad r0 = true ∨ 2 ^ 1056 ≤ r0.toNat → Raises (.accept sd sa) s ⟨0x0B, 14, 0, 0⟩) ∧
      (treeBad r0 = false → r0.toNat < 2 ^ 1056 → u.poisonFlt pa 256 = none →
        asks (.accept sd sa) (s.cyc + 40) (fun t w => w.a = pa ∧ w.rows = [r0] ∧
          ⟨s.cyc + 1, phArray, s.iss.core, s.cyc, 7, .acceptRowRead s.iss.core w.id 1, CtlAcc.reset⟩ ∈ t.cal ∧
          ⟨s.cyc + 2, phArray, s.iss.core, s.cyc, 7, .acceptRowRead s.iss.core w.id 2, CtlAcc.reset⟩ ∈ t.cal) (fun id => .acceptComplete s.iss.core id))) ∧
    (∀ (pa pb : Nat) (u : State), s.Reads .s sb (ofWord b) → s.ownRw a.toNat 32 16 = .ok pa → s.ownRw b.toNat 64 64 = .ok pb →
      s.claim s.iss.core s.iss.slot [offOf pa, offOf pb] = .ok u → u.poisonFlt pa 16 = none → u.poisonFlt pb 64 = none →
      asks (.pkey sd sa sb) (s.cyc + 96) (fun _ w => w.a = pa + 16 ∧
        w.b = ofBytes ((sha512 (bytesOf 16 (s.load pa 16) ++ bytesOf 64 (s.load pb 64))).take 16))
        (fun id => .pkeyComplete s.iss.core id)) ∧
    (∀ (pa : Nat) (u : State), translate s.me s.iss.core .load a.toNat 32 32 false = .ok pa →
      s.claim s.iss.core s.iss.slot [offOf pa] = .ok u → u.poisonFlt pa 32 = none →
      asks (.plook sd sa) (s.cyc + 32) (fun _ w => w.a = s.load pa 32 % 2 ^ 128 ∧ w.b = bits (s.load pa 32) 175 128)
        (fun id => .plookPerform s.iss.core id))) ∧
  (∀ (s : State) (sa pa v sid pos cur : Nat) (a : Word) (r : HRing) (u : State), s.noBrd = .ok () → s.rulePlace (.hring sa) = .ok () →
    s.Reads .s sa (ofWord a) → s.ownRw a.toNat 32 32 = .ok pa → s.claim s.iss.core s.iss.slot [offOf pa] = .ok u →
    u.poisonFlt pa 32 = none → v = s.load pa 32 →
    sid = v / 2 ^ 32 % 2 ^ 8 → pos = v / 2 ^ 64 % 2 ^ 32 → r = s.hring s.me.q.part → cur = agetD r.pos sid 0 →
    (pos < cur → exec (.hring sa) s = .next u) ∧
    (cur < pos → Raises (.hring sa) s ⟨0x06, 4, sid, pos⟩) ∧
    (pos = cur → r.en = false ∨ (r.tail + 2 ^ 32 - r.head) % 2 ^ 32 = 2 ^ r.size →
      exec (.hring sa) s = .next (u.blockOn (.hring s.me.q.part))) ∧
    (pos = cur → r.en = true → (r.tail + 2 ^ 32 - r.head) % 2 ^ 32 ≠ 2 ^ r.size → Completes (.hring sa) s fun t =>
      t.me = s.me ∧ s.SameMem t ∧ (t.hring s.me.q.part).tail = (r.tail + 1) % 2 ^ 32 ∧
      agetD (t.hring s.me.q.part).pos sid 0 = cur + 1 ∧ ∃ p : Post, (t.hring s.me.q.part).posts = r.posts ++ [p] ∧ p.seqid = sid ∧
        p.due = s.cyc + 32 ∧ p.exit = v.testBit 130 ∧ p.slot = BitVec.ofNat 256 (v / 2 ^ 32 * 2 ^ 32 + r.tail) ∧
        t.cal = calInsert ⟨s.cyc + 32, phSched, s.me.q.part, 2, p.id, .hringDepart s.me.q.part p.id, CtlAcc.reset⟩ s.cal))

/-- The frame of every instruction of a bundle: when it issues, no byte of memory, tag or poison changes, and in no context a
landed scalar, vector or mask register, a handle, a window, a trap register, a landed guard or a control register; of the
arithmetic state only a stochastically rounding VCVT advances SRCTR and a released COMBINE records events. All other effects
come from the events it leaves. -/
def Obligations.IssueFrame : Prop :=
  ∀ (i : Instr) (s t : State), (i.cls.isSome = true ∨ i = .nop) → exec i s = .next t →
    s.SameMem t ∧ t.ctl = s.ctl ∧ t.cyc = s.cyc ∧ ∀ n k : Nat, Ctx.SameRegs (s.ctx n k) (t.ctx n k) ∧
      (t.ctx n k).poison = (s.ctx n k).poison ∧ (∀ j, ((t.ctx n k).guard j).val = ((s.ctx n k).guard j).val) ∧
      (t.ctx n k).ar.c4 = (s.ctx n k).ar.c4 ∧ (t.ctx n k).ar.srkey = (s.ctx n k).ar.srkey ∧
      ((∀ g dst src vd va, i ≠ .vcvt g dst 2 src vd va) → (t.ctx n k).ar.srctr = (s.ctx n k).ar.srctr) ∧
      ((∀ rn sa, i ≠ .combine rn sa) → (t.ctx n k).ar.astat = (s.ctx n k).ar.astat)

/-! ## Events of the calendar -/

/-- A result lands: under a true literal, one value without an enabled event becomes the register's only take, clears its poison
and records its events in ASTAT; an enabled event is an arithmetic fault and the register keeps its takes and its poison; a CSR
or a handle is written, and into a written ASTAT go the events of its cycle; a dead result changes no register; one that an
earlier result to its register has yet to precede waits for it (R34, R125, R136, R137, R176, R177, R338). A result of several
pairs, or under an open write literal, lands in a take-capable register: where a value of the guards meets the write literal,
the register reads as the pair that meets it, without poison, elsewhere as before; a fifth take is the fault 0x08 SUB 1, which
comes before that of a seventeenth entry, and with either the events are lost and the register and its poison stay. A pair whose
condition is true and that carries a trap, a division by zero's, a poisoned entry's or a poisoned atomic's, raises it and leaves
the register; one under an open condition leaves 0 there and its trap and events in the deferred-event table, which holds
sixteen entries, one for a condition where one trap is enough; a seventeenth is the fault 0x08 SUB 6 (R338, R177, R178, R179,
R180, R181, R189, R137). A guard lands in its cycle with the value of its instance: it is no longer open, the other guards keep
their landed values, and of every register the takes under the contrary literal vanish while the others lose the literal, as do
poisons under a condition (R176, R191, R338). When the last guard due in a cycle has landed, what it has made certain is
settled: a held store whose condition has become true leaves the buffer, to be released from the next cycle on, and one whose
condition has become false is gone; a deferred entry whose condition has become true records its events and its trap is taken,
and one whose condition has become false vanishes, its trap counted among the dropped (R176, R185, R186, R190). Points that the
spec leaves to a reading stand as the model’s log entries 109, 117 and 125 say. -/
def Obligations.ResultsGuardsLand : Prop :=
  (∀ (s : State) (core ctx id ev : Nat) (f : Flight) (x : Ctx) (y : Vec), x = s.ctx core ctx → x.fl.find? (·.id = id) = some f →
    let lands (P : Ctx → Prop) : Prop := Happens (.resultLanding core ctx id) s fun t => P (t.ctx core ctx) ∧ s.SameMem t ∧
      s.SameOthers t core ctx
    (x.behind s.cyc f = true → Happens (.resultLanding core ctx id) s fun t => s.SameMem t ∧ s.SameCtxs t ∧
      t.cal = calInsert ⟨s.cyc, phWrite, core, 8, id, .resultLanding core ctx id, CtlAcc.reset⟩ s.cal) ∧
    (x.behind s.cyc f = false → f.dead = true → lands fun z => z = { x with fl := x.fl.filter (·.id ≠ id) }) ∧
    (x.behind s.cyc f = false → f.dead = false → f.w = Cube.tt → f.pairs = [⟨Cube.tt, y, ev, none⟩] →
      (f.cls ∈ [RCls.s, .v, .m] → firstEv (ev &&& x.ar.en.toNat) = none → lands fun z =>
        z.takes f.cls f.reg = (if f.cls = .s ∧ f.reg = 0 then oneTake 0 else oneTake y) ∧
        (∀ c r, ¬ (c = f.cls ∧ r = f.reg) → z.takes c r = x.takes c r) ∧
        z.poison = x.poison.filter (fun p => !(p.cls = f.cls && p.reg = f.reg)) ∧ z.ar = x.ar.record s.cyc ev ∧ z.fl = x.fl.filter (·.id ≠ id) ∧
        z.q = x.q ∧ z.tr = x.tr ∧ z.hnd = x.hnd ∧ z.win = x.win ∧ z.g = x.g) ∧
      (∀ e, f.cls ∈ [RCls.s, .v, .m] → firstEv (ev &&& x.ar.en.toNat) = some e → x.q.st = .holder → x.q.block = none →
        x.fault = none → (x.q.sup = true → f.sup = true) →
        Happens (.resultLanding core ctx id) s fun t => (∀ c r, (t.ctx core ctx).takes c r = x.takes c r) ∧
          (t.ctx core ctx).ar = x.ar.record s.cyc ev ∧ (t.ctx core ctx).poison = x.poison ∧ s.SameMem t ∧ (t.ctx core ctx).fault = some
            { code := 0x0D, sub := e, slot := f.slot, slot2 := 0, fpc := f.fpc, info0 := f.reg, info1 := 0, iat := f.iat,
              defer := false, sys := false, sup := f.sup }) ∧
      (f.cls = .csr → lands fun z => z = ({ x with
        fl := x.fl.filter (·.id ≠ id) } : Ctx).writeCsr s.cyc f.reg (toWord y)) ∧
      (f.cls = .csr → f.reg = 0x012 → lands fun z => z.ar.en = BitVec.ofNat 6 ((toWord y).toNat / 2 ^ 8) ∧
        z.ar.drops = BitVec.ofNat 16 ((toWord y).toNat / 2 ^ 16) ∧
        z.ar.ev = BitVec.ofNat 6 (toWord y).toNat ||| (if x.ar.evAt = s.cyc then x.ar.evNew else 0)) ∧
      (x.ar.record s.cyc ev).ev = x.ar.ev ||| BitVec.ofNat 6 ev ∧
      (x.ar.record s.cyc ev).evOf s.cyc = x.ar.evOf s.cyc ||| BitVec.ofNat 6 ev ∧
      (f.cls = .hnd → lands fun z => z = { x with
        fl := x.fl.filter (·.id ≠ id), hnd := aset x.hnd f.reg (y.setWidth 512) }))) ∧
  ((∀ (s : State) (core ctx id : Nat) (f : Flight) (x : Ctx), x = s.ctx core ctx → x.fl.find? (·.id = id) = some f →
    x.behind s.cyc f = false → f.dead = false → f.cls ∈ [RCls.s, .v, .m] →
    let old : List Take := x.takes f.cls f.reg
    let live : List (Cube × Pair) := f.pairs.filterMap fun p => (p.cube.conj f.w).map fun k => (k, p)
    let zero : Prop := f.cls = .s ∧ f.reg = 0
    let clean (t : Trap) : Prop := x.q.st = .holder ∧ x.q.block = none ∧ x.fault = none ∧ (x.q.sup = true → t.sup = true)
    let lands (P : Ctx → Prop) : Prop := Happens (.resultLanding core ctx id) s fun t => P (t.ctx core ctx) ∧ s.SameMem t ∧
      s.SameOthers t core ctx
    let reads (new : List Take) (z : Ctx) : Prop := z.takes f.cls f.reg = (if zero then oneTake 0 else new) ∧
      (∀ c r, ¬ (c = f.cls ∧ r = f.reg) → z.takes c r = x.takes c r) ∧ z.fl = x.fl.filter (·.id ≠ id) ∧ z.g = x.g
    let stays (t : Trap) : Prop := clean t → lands fun z => (∀ c r, z.takes c r = x.takes c r) ∧ z.poison = x.poison ∧ z.fault = some t
    let cured (z : Ctx) : Prop := ∀ v : BitVec 15, ∀ c r,
      (∃ p ∈ z.poison, p.cls = c ∧ p.reg = r ∧ v &&& p.cube.care = p.cube.val) ↔
        (∃ p ∈ x.poison, p.cls = c ∧ p.reg = r ∧ v &&& p.cube.care = p.cube.val) ∧
          ¬ (c = f.cls ∧ r = f.reg ∧ v &&& f.w.care = f.w.val)
    ((∀ p ∈ f.pairs, p.trap = none ∧ p.ev = 0) → ∀ new, new = landWrite old (live.map fun q => (q.1, q.2.x)) f.w →
      (new.length ≤ 4 ∨ zero → lands fun z => reads new z ∧ z.defer = x.defer ∧ z.fault = x.fault ∧
        (f.w.val &&& ~~~ f.w.care = 0 → (∀ p ∈ x.poison, p.cube.val &&& ~~~ p.cube.care = 0) → cured z)) ∧
      (4 < new.length → ¬ zero → stays (f.takeTrap 1))) ∧
    (∀ y ev t, f.w = Cube.tt → f.pairs = [⟨Cube.tt, y, ev, some t⟩] →
      stays t ∧ (clean t → lands fun z => z.ar = x.ar.record s.cyc ev ∧ z.defer = x.defer)) ∧
    ((∀ q ∈ live, q.1.isTrue = false) → ∀ new dfr,
      new = landWrite old (live.map fun q => (q.1, if (f.trapOf x.ar q.2).isSome = true then 0 else q.2.x)) f.w →
      dfr = (live.filter fun q => q.2.ev ≠ 0 ∨ (f.trapOf x.ar q.2).isSome = true).map (fun q =>
        (q.1, q.2.ev, (f.trapOf x.ar q.2).map fun t => { t with defer := true })) →
      (new.length ≤ 4 ∨ zero →
        (∀ y, x.deferAll dfr = some y → lands fun z => reads new z ∧ z.defer = y.defer ∧ z.fault = x.fault ∧ z.ar.ev = x.ar.ev) ∧
        (x.deferAll dfr = none → stays (f.takeTrap 6) ∧ (clean (f.takeTrap 6) → lands fun z => z.ar = x.ar ∧ z.defer = x.defer))) ∧
      (4 < new.length → ¬ zero → stays (f.takeTrap 1) ∧ (clean (f.takeTrap 1) → lands fun z => z.ar = x.ar ∧ z.defer = x.defer))) ∧
    ∀ p ∈ f.pairs, (∀ t, p.trap = some t → f.trapOf x.ar p = some t) ∧
      (p.trap = none → firstEv (p.ev &&& x.ar.en.toNat) = none → f.trapOf x.ar p = none) ∧
      ∀ e, p.trap = none → firstEv (p.ev &&& x.ar.en.toNat) = some e → f.trapOf x.ar p = some
        { code := 0x0D, sub := e, slot := f.slot, slot2 := 0, fpc := f.fpc, info0 := f.reg, info1 := 0, iat := f.iat,
          defer := false, sys := false, sup := f.sup }) ∧
  (∀ (old : List Take) (new : List (Cube × Vec)) (w : Cube) (v : BitVec 15) (x : Vec),
    let ok (k : Cube) : Prop := k.val &&& ~~~ k.care = 0
    let meets (k : Cube) : Prop := v &&& k.care = k.val
    ok w → (∀ t ∈ old, ok t.cube) → (∀ p ∈ new, ok p.1) →
      (meets w → ((∃ t ∈ landWrite old new w, t.x = x ∧ meets t.cube) ↔ ∃ p ∈ new, p.2 = x ∧ meets p.1)) ∧
      (¬ meets w → ((∃ t ∈ landWrite old new w, t.x = x ∧ meets t.cube) ↔ ∃ t ∈ old, t.x = x ∧ meets t.cube))) ∧
  ∀ (x : Ctx) (k : Cube) (ev : Nat) (t : Option Trap),
    let fits (e : Deferred) : Prop := e.cube = k ∧ e.due = false ∧ e.kept = false ∧ (t = none ∨ e.trap = none)
    ((∀ e ∈ x.defer, ¬ fits e) →
      ((x.defer.filter fun e => !e.kept).length < 16 →
        x.deferAdd k ev t = some { x with defer := x.defer ++ [⟨k, ev, t, false, false⟩] }) ∧
      (16 ≤ (x.defer.filter fun e => !e.kept).length → x.deferAdd k ev t = none)) ∧
    ∀ l e r, x.defer = l ++ e :: r → (∀ d ∈ l, ¬ fits d) → fits e →
      x.deferAdd k ev t = some { x with defer := l ++ { e with ev := evOr e.ev ev, trap := e.trap.or t } :: r }) ∧
  (∀ (s : State) (core ctx gi : Nat) (o : GOpen) (x : Ctx), x = s.ctx core ctx → (x.guard gi).opn = some o → o.due = s.cyc →
    Happens (.guardLanding core ctx gi) s fun t => ∀ z, z = t.ctx core ctx →
      z.guard gi = ⟨o.value, none⟩ ∧ (∀ j, j ≠ gi → (z.guard j).val = (x.guard j).val) ∧
      (∀ c r, c ∈ [RCls.s, .v, .m] → z.takes c r = (x.takes c r).filterMap fun k =>
        (k.cube.land gi o.value).map fun q => { k with cube := q }) ∧
      z.poison = (x.poison.filterMap fun p => (p.cube.land gi o.value).map fun q => { p with cube := q }) ∧
      z.tr = x.tr ∧ z.hnd = x.hnd ∧ z.win = x.win ∧ s.SameMem t) ∧
  (∀ (s : State) (core ctx gi : Nat) (o : GOpen) (x : Ctx), x = s.ctx core ctx → (x.guard gi).opn = some o → o.due = s.cyc →
    (∀ p ∈ (x.landGuard s.cyc gi).g, ∀ q, p.2.opn = some q → q.due ≠ s.cyc) → x.fl = [] →
    let after (P : State → Ctx → Prop) : Prop := Happens (.guardLanding core ctx gi) s fun t => P t (t.ctx core ctx) ∧ s.SameMem t ∧
      s.SameOthers t core ctx
    (∀ h, x.held = [h] → x.relq = [] → x.defer = [] →
      (h.cube.land gi o.value = some Cube.tt → after fun t z => z.held = [] ∧
        z.relq = [{ h with cube := Cube.tt, due := s.cyc }] ∧
        ⟨s.cyc + 1, phRelease, core, ctx, 0, .heldStoreRelease core ctx, CtlAcc.reset⟩ ∈ t.cal) ∧
      (h.cube.land gi o.value = none → after fun _ z => z.held = [] ∧ z.relq = []) ∧
      (∀ k, h.cube.land gi o.value = some k → k.isTrue = false → after fun _ z => z.held = [{ h with cube := k }] ∧ z.relq = [])) ∧
    ∀ e, x.defer = [e] → x.held = [] → e.due = false → e.cube.isTrue = false →
      (e.cube.land gi o.value = some Cube.tt →
        (e.trap = none → after fun _ z => z.defer = [] ∧ z.fault = x.fault ∧ z.ar.ev = x.ar.ev ||| BitVec.ofNat 6 e.ev) ∧
        ∀ t, e.trap = some t → x.q.st = .holder → x.q.block = none → x.fault = none → (x.q.sup = true → t.sup = true) →
          after fun _ z => z.defer = [] ∧ z.fault = some t ∧ z.ar.ev = x.ar.ev ||| BitVec.ofNat 6 e.ev ∧ z.ar.drops = x.ar.drops) ∧
      (e.cube.land gi o.value = none → after fun _ z => z.defer = [] ∧ z.fault = x.fault ∧ z.ar.ev = x.ar.ev ∧
        z.ar.drops.toNat = min (x.ar.drops.toNat + e.trap.isSome.toNat) 0xFFFF) ∧
      (∀ k, e.cube.land gi o.value = some k → k.isTrue = false → after fun _ z => z.defer = [{ e with cube := k }] ∧ z.fault = x.fault))

/-- A store performs in its cycle: a plain store and a row write exactly their bytes, a row clears the poison of its granules, a
tap delivers its flit with the tag, a lazy store enters the buffer of its core, a control store starts the events of its
register, or notes the refusal in PERR; a store with several writes leaves in each byte what the last of them that covers it
holds, and changes no byte outside them (R164, R166, R165, R232, R234, R240, R305). -/
def Obligations.StoresPerform : Prop :=
  ∀ (s : State) (core ctx id a n v m : Nat) (t : Store), s.Inv →
    (s.core core).stores.find? (fun t => t.id = id && t.due = s.cyc) = some t →
    (t.kind = .plain → Happens (.storePerform core ctx id) s fun u => s.SameCtxs u ∧
      u.tags = s.tags ∧ u.pois = s.pois ∧
      (∀ b, (∀ w ∈ t.ws, b < w.addr ∨ w.addr + w.len ≤ b) → memByte u.mem b = memByte s.mem b) ∧
      ∀ (l r : List Wr) (w : Wr) (i : Nat), t.ws = l ++ w :: r → i < w.len →
        (∀ y ∈ r, w.addr + i < y.addr ∨ y.addr + y.len ≤ w.addr + i) →
        memByte u.mem (w.addr + i) = BitVec.ofNat 8 (w.val / 2 ^ (8 * i))) ∧
    (t.ws = [⟨a, n, v⟩] →
      (t.kind = .plain → Happens (.storePerform core ctx id) s fun u => s.Wrote u a n v ∧ s.SameCtxs u ∧ u.tags = s.tags ∧
        u.pois = s.pois) ∧
      (t.kind = .row → Happens (.storePerform core ctx id) s fun u => s.Wrote u a n v ∧ s.SameCtxs u ∧ u.tags = s.tags ∧
        ∀ g, g ∈ u.pois ↔ g ∈ s.pois ∧ ¬ (granOf a ≤ g ∧ g < granOf a + n / 64)) ∧
      (t.kind = .tap → t.ep < 256 → n = 64 * m → a % 64 = 0 → (∀ i < m, isSpad (a + 64 * i) = true) →
        Happens (.storePerform core ctx id) s fun u => s.Wrote u a n v ∧ s.SameCtxs u ∧
          ∀ i < m, u.tag (granOf a + i) = t.ep ∧ granOf a + i ∉ u.pois) ∧
      (t.kind = .lazy → 0 < n → a % 64 + n ≤ 64 → (s.core core).lazy.length < 64 →
        Happens (.storePerform core ctx id) s fun u => s.SameMem u ∧ s.SameCtxs u ∧
          ∃ e ∈ (u.core core).lazy, e.gran = a / 64 ∧ e.epoch = t.ep ∧ ∀ i < n, e.mask.testBit (a % 64 + i) = true) ∧
      (t.kind = .control → ∀ s1, s1 = s.modCore core (fun c => c.pruneStores s.cyc) →
        Happens (.storePerform core ctx id) s fun u => s.SameMem u ∧ s.SameCtxs u ∧
          (s1.ctlRight t.part (a - ctlBase) true = true → u.ctl = s.ctl ∧ ∀ i ∈ s1.ctlRows (a - ctlBase) v, ∃ e ∈ u.cal, e.ev = i ∧
            e.at_ = s.cyc ∧ e.cw = ⟨t.part, whoOf core t.ctx, a - ctlBase, v, true, 8⟩) ∧
          (s1.ctlRight t.part (a - ctlBase) true = false →
            u.ctl = aset s.ctl (offPart t.part + 0x1F8) (BitVec.ofNat 64 (5 + (a - ctlBase) * 16)))))

/-- A held store released from its guard leaves the held-store buffer in order, to perform 4 cycles later and after those
released before it; it then writes exactly its bytes, or performs in the next cycle where an ordinary store of its context is in
its bank; where a store of another context is, it writes nothing and raises the bank-conflict fault, as the model reads it. A
lazy entry that drains writes exactly the bytes of its mask, and clears the poison of a granule it covers; before lazy stores
enter a full buffer, its first entries become due (R22, R186, R241, R242). Points that the spec leaves to a reading stand as the
model’s log entries 7, 61 and 97 say. -/
def Obligations.LateStoresPerform : Prop :=
  ∀ (s : State) (core ctx id : Nat), s.Inv →
    (∀ (h : Store) (r : List Store), (s.ctx core ctx).relq = h :: r → Happens (.heldStoreRelease core ctx) s fun t =>
      (t.ctx core ctx).relq = r ∧ s.SameMem t ∧ s.SameOthers t core ctx ∧ ∃ w : Store, (t.core core).stores = (s.core core).stores ++ [w] ∧
        w.ws = h.ws ∧ w.kind = h.kind ∧ s.cyc + 4 ≤ w.due ∧
        (∀ v ∈ (s.core core).stores, v.ctx = ctx → v.cube.isTrue = false → v.due < w.due) ∧
        ⟨w.due, phWrite, core, w.slot, w.iat, .heldStorePerform core ctx w.id, CtlAcc.reset⟩ ∈ t.cal) ∧
    (∀ (t : Store) (a n v : Nat), (s.core core).stores.find? (fun t => t.id = id && t.due = s.cyc) = some t →
      t.ws = [⟨a, n, v⟩] → t.kind = .plain →
      ((s.core core).meetsStore s.cyc t = false → s.heldMeets core t = none → Happens (.heldStorePerform core ctx id) s fun u =>
        s.Wrote u a n v ∧ s.SameCtxs u ∧ u.tags = s.tags ∧ u.pois = s.pois) ∧
      ((s.core core).meetsStore s.cyc t = true → Happens (.heldStorePerform core ctx id) s fun u => s.SameMem u ∧ s.SameCtxs u ∧
        (((s.core core).stores.filter fun w => w.ctx = ctx && !w.cube.isTrue && s.cyc ≤ w.due).head? = some t →
          (∀ w ∈ (s.core core).stores, w.id = id → w = t) → { t with due := s.cyc + 1 } ∈ (u.core core).stores ∧
            ⟨s.cyc + 1, phWrite, core, t.slot, t.iat, .heldStorePerform core ctx id, CtlAcc.reset⟩ ∈ u.cal)) ∧
      ∀ (f : Trap) (w : Store), (s.core core).meetsStore s.cyc t = false → (s.core core).stores.find? (fun w =>
          w.ctx ≠ t.ctx && w.due = s.cyc && w.meets t && (w.cube.isTrue || decide (w.id < t.id))) = some w →
        s.heldMeets core t = some f ∧ f.code = 0x04 ∧ f.slot = t.slot ∧ f.fpc = t.fpc ∧ f.iat = t.iat ∧
        ((s.ctx core ctx).q.st = .holder → (s.ctx core ctx).q.block = none → (s.ctx core ctx).fault = none →
          ((s.ctx core ctx).q.sup = true → t.sup = true) → Happens (.heldStorePerform core ctx id) s fun u => s.SameMem u ∧
            s.SameOthers u core ctx ∧ (u.ctx core ctx).fault = some f)) ∧
    (∀ e : LazyEnt, (s.core core).lazy.find? (fun e => e.id = id && e.due = s.cyc) = some e →
      0 < id → (s.core core).lazyBehind s.cyc e.epoch = false →
      Happens (.lazyDrain core id) s fun u => s.SameCtxs u ∧ u.tags = s.tags ∧
        (u.core core).lazy = (s.core core).lazy.filter (·.id ≠ id) ∧
        (∀ i < 64, memByte u.mem (e.gran * 64 + i) =
          if e.mask % 2 ^ 64 / 2 ^ i % 2 = 1 then BitVec.ofNat 8 (e.data / 2 ^ (8 * i)) else memByte s.mem (e.gran * 64 + i)) ∧
        s.SameBut u (e.gran * 64) 64 ∧
        u.pois = (if e.mask = 2 ^ 64 - 1 then s.pois.filter (· ≠ e.gran) else s.pois)) ∧
    Happens (.lazyDrain core 0) s fun u => s.SameMem u ∧ s.SameCtxs u ∧
      (u.core core).lazy = epochOrder ((s.core core).makeRoom s.cyc)

/-- At the quiet point of a fault the context enters its handler: TCAUSE, TPC, TFPC, TINFO0 and TINFO1 hold the fault, the stop
point and the fault's bundle, the privilege is supervisor, its open loop levels are set aside, and the bundle at SVEC issues 4
cycles later; every landed register stays. A taken branch that waited has moved the stop point to its target, and dropped a
fault held in its shadow (R321, R323, R84). A fault at supervisor privilege, a supervisor call apart, and a breakpoint with a
debugger attached stop the context at the quiet point: its stop record holds the fault, and every trap CSR and landed register
stays; no other fault stops it (R324, R325, R360). TCAUSE, and STOPCAUSE with it, hold code, subcode, the two slots, the
privilege that ERET returns to, whether the fault was deferred and whether it is a SYSCALL, and 0 in every other bit (Table
18-3). Points that the spec leaves to a reading stand as the model’s log entries 24, 29, 68 and 108 say. -/
def Obligations.FaultsTaken : Prop :=
  (∀ (s : State) (core ctx : Nat) (t : Trap) (x : Ctx) (at_ : Nat), x = s.ctx core ctx → x.fault = some t → x.quietAt s.cyc = s.cyc →
    (∀ b, x.brd = some b → b.taken = some true → at_ = b.target) →
    ((∀ b, x.brd = some b → b.taken ≠ some true) → at_ = x.q.pc) →
    s.stopsAt x t = false → Happens (.handlerEntry core ctx) s fun u => ∀ z, z = u.ctx core ctx →
      z.tr.tcause = t.cause x.q.sup ∧ z.tr.tpc = BitVec.ofNat 64 (at_ / 32 * 32) ∧
      z.tr.tfpc = BitVec.ofNat 64 (t.fpc / 32 * 32) ∧ z.tr.tinfo0 = BitVec.ofNat 64 t.info0 ∧ z.tr.tinfo1 = BitVec.ofNat 64 t.info1 ∧
      z.tr.tscr0 = x.tr.tscr0 ∧ z.tr.tscr1 = x.tr.tscr1 ∧ z.tr.tscr2 = x.tr.tscr2 ∧ z.tr.tscr3 = x.tr.tscr3 ∧
      z.tr.stopCause = x.tr.stopCause ∧ z.q.sup = true ∧ z.q.pc = s.svec x.q.part ∧ z.q.at_ = s.cyc + 4 ∧ z.q.loops = [] ∧
      z.q.xfer = none ∧ z.fault = none ∧ z.heldF = none ∧ z.brd = none ∧ z.s = x.s ∧ z.v = x.v ∧ z.m = x.m ∧ z.hnd = x.hnd ∧
      z.win = x.win ∧ z.ar = (if (x.brd.any fun b => b.taken == some true) && x.heldF.isSome then x.ar.drop 1 else x.ar) ∧
      s.SameMem u ∧ s.SameOthers u core ctx) ∧
  ((∀ (s : State) (x : Ctx) (t : Trap), s.stopsAt x t = true ↔
    (x.q.sup = true ∧ t.sys = false) ∨ (t.code = 0x0E ∧ (s.reg (0xB000 + 8 * x.q.part)).testBit 0 = true)) ∧
  (∀ (t : Trap) (p : Bool), let c := t.cause p
    c.extractLsb' 0 8 = BitVec.ofNat 8 t.code ∧ c.extractLsb' 8 8 = BitVec.ofNat 8 t.sub ∧
    c.extractLsb' 16 3 = BitVec.ofNat 3 t.slot ∧ c.getLsbD 19 = false ∧ c.extractLsb' 20 3 = BitVec.ofNat 3 t.slot2 ∧
    c.getLsbD 23 = false ∧ c.getLsbD 24 = p ∧ c.getLsbD 25 = t.defer ∧ c.getLsbD 26 = t.sys ∧ ∀ i, 27 ≤ i → c.getLsbD i = false) ∧
  ∀ (s : State) (core ctx : Nat) (t : Trap) (x : Ctx) (at_ : Nat), x = s.ctx core ctx → x.fault = some t → x.quietAt s.cyc = s.cyc →
    (∀ b, x.brd = some b → b.taken = some true → at_ = b.target) →
    ((∀ b, x.brd = some b → b.taken ≠ some true) → at_ = x.q.pc) → x.q.block = none →
    s.stopsAt x t = true → Happens (.faultStop core ctx) s fun u => ∀ z, z = u.ctx core ctx →
      z.q.st = .stopped ∧ z.q.sup = x.q.sup ∧ z.q.pc = at_ ∧ z.fault = none ∧
      z.tr = { x.tr with
        stopCause := t.cause x.q.sup, stopPc := BitVec.ofNat 64 (at_ / 32 * 32),
        stopFpc := BitVec.ofNat 64 (t.fpc / 32 * 32), stopInfo0 := BitVec.ofNat 64 t.info0, stopInfo1 := BitVec.ofNat 64 t.info1 } ∧
      z.s = x.s ∧ z.v = x.v ∧ z.m = x.m ∧ z.hnd = x.hnd ∧ z.win = x.win ∧
      z.ar = (if (x.brd.any fun b => b.taken == some true) && x.heldF.isSome then x.ar.drop 1 else x.ar) ∧
      s.SameMem u ∧ s.SameOthers u core ctx)

/-- A switch gives the core to the Ready context it chose, 4 cycles after it began, and leaves the base of a context that
nothing has marked as slipped, as the model reads R76; the end of a wait and the release of a block return their contexts to
issue. A holder that issues, holds or waits keeps its core: another context that becomes Ready begins no switch, and whether the
core issues is a matter of its holder alone (R75, R90, R94, Table 04-3). A BIND takes effect: its window holds the walk's
result, or is unbound where the walk failed, whose fault is taken (R231). Points that the spec leaves to a reading stand as the
model’s log entries 67 and 74 say. -/
def Obligations.SwitchesBindsComplete : Prop :=
  ((∀ (s : State) (n k : Nat) (q : Seq), q = (s.ctx n (s.core n).holder).q → k ≠ (s.core n).holder →
    ((q.st = .holder ∨ q.st = .holding ∨ q.st = .waiting) → (s.makeReady n k).cal = s.cal ∧
      ((s.makeReady n k).core n).holder = (s.core n).holder ∧ ((s.makeReady n k).core n).switchTo = (s.core n).switchTo ∧
      ((s.makeReady n k).ctx n k).q.st = .ready) ∧
    ∀ x : Ctx, s.mayIssue n ((s.core n).setCtx k x) = s.mayIssue n (s.core n)) ∧
  ∀ (s : State) (core ctx : Nat) (x : Ctx), x = s.ctx core ctx →
    ((s.core core).switchTo = some ctx → x.q.st = .ready → (s.cyc < x.q.at_ ∨ x.pendF = []) →
      Happens (.contextSwitch core) s fun t => (t.core core).holder = ctx ∧ (t.core core).switchTo = none ∧
        t.ctx core ctx = { x with q := { x.q with st := .holder, at_ := max x.q.at_ s.cyc } } ∧ s.SameMem t ∧
        s.SameOthers t core ctx) ∧
    (∀ w, x.q.st = .waiting → x.q.wait = some w → w.till = s.cyc → Happens (.waitEnd core ctx) s fun t =>
      t.ctx core ctx = { x with q := { x.q with st := .holder, wait := none, at_ := s.cyc, slip := true } } ∧ s.SameMem t ∧
      s.SameOthers t core ctx) ∧
    (∀ b, x.q.block = some b → ctx < 4 → (∃ p, b.kind = .hring p) ∨ (∃ k c, b.kind = .combine k c) → s.holds core ctx = true →
      Happens (.blockRelease core ctx) s fun t => t.ctx core ctx = { x with q := { x.q with
        block := some { b with go := true, entry := none, poisoned := false }, st := .holder, at_ := max x.q.at_ s.cyc } } ∧
        s.SameMem t ∧ s.SameOthers t core ctx)) ∧
  (∀ (s : State) (core ctx : Nat) (b : BindFl) (x : Ctx), x = s.ctx core ctx → x.bind = some b → b.due = s.cyc →
    (b.trap = none → Happens (.bindComplete core ctx) s fun t => s.SameMem t ∧ s.SameOthers t core ctx ∧
      t.ctx core ctx = { x with bind := none, win := match b.new with
        | some w => aset x.win b.w w
        | none => adel x.win b.w }) ∧
    (∀ u, b.trap = some u → b.new = none → x.q.st = .holder → x.fault = none → x.q.block = none → (x.q.sup = true → u.sup = true) →
      Happens (.bindComplete core ctx) s fun t => s.SameMem t ∧ (t.ctx core ctx).win = adel x.win b.w ∧
        (t.ctx core ctx).bind = none ∧ (t.ctx core ctx).fault = some u))

/-- A copy reads its whole source when it starts and writes its whole destination when it arrives, with its tag where it lies in
a scratchpad and the poison of its source and of what an error has struck; where another partition has come to hold its source,
it reads, writes and sends nothing, and nothing is written where another holds its destination; to a queue it becomes an entry,
or nothing where the queue is being zeroed or its partition no longer holds it; to the outside its granules leave in order, each
for the package that its address names and behind every request to that target with an earlier key, and from it they become
entries once the read request has left, one for each target (R235, R251, R296, R238, R239, R266, R268, R354). The 64 bytes that
leave for a queue of another package carry the queue's next number in their last four, as the model reads R239 and R355. Points
that the spec leaves to a reading stand as the model’s log entries 46, 63, 83, 103 and 115 say. -/
def Obligations.CopiesPerform : Prop :=
  (∀ (s : State) (p a n i : Nat), (regionOf a = .spad i → regionOf (a + n - 1) = .spad i →
      (s.foreign p a n = true ↔ s.holdsCore p i = false ∧ ∃ q < 16, s.holdsCore q i = true)) ∧
    (regionOf a = .ring i → regionOf (a + n - 1) = .ring i →
      (s.foreign p a n = true ↔ s.holdsStore p i = false ∧ ∃ q < 16, s.holdsStore q i = true))) ∧
  ∀ (s : State) (core id m : Nat) (e : CopyEnt), s.Inv → (s.core core).copy? id = some e →
    (isOuter (regionOf e.src) = false → s.foreign e.part e.src e.len = true → Happens (.copyStart core id) s fun t =>
      s.SameMem t ∧ s.SameCtxs t ∧ (t.core core).copies = (s.core core).copies.filter (·.id ≠ id) ∧ t.out = s.out ∧
      (isOuter (regionOf e.dst) = false → t.tasks = s.tasks ∧ t.cal = s.cal)) ∧
    (isTq (regionOf e.dst) = false → s.foreign e.part e.dst e.len = true → Happens (.copyArrival core id) s fun t =>
      s.SameMem t ∧ t.tags = s.tags ∧ s.SameCtxs t ∧ (t.core core).copies = (s.core core).copies.filter (·.id ≠ id)) ∧
    (isOuter (regionOf e.src) = false → isOuter (regionOf e.dst) = false → isTq (regionOf e.dst) = false →
      s.foreign e.part e.src e.len = false → Happens (.copyStart core id) s fun t => s.SameMem t ∧ s.SameCtxs t ∧
        (t.core core).copies = (s.core core).copies.map (fun x => if x.id = e.id then
          { e with data := s.load e.src e.len, poison := (s.badGranules e.src e.len ++ e.poison).dedup } else x) ∧
        t.cal = calInsert ⟨e.arrive, phWrite, core, 6, e.iat, .copyArrival core id, CtlAcc.reset⟩ s.cal) ∧
    (∀ n, isOuter (regionOf e.src) = true → e.src % 64 = 0 → 0 < e.len →
      n = (if regionOf e.src = .host then e.len else min e.len (2 ^ 24 - e.src % 2 ^ 24)) →
      ∀ w, w = waitInsert ⟨e.start + 1, [e.start, core, 2, 0], outTarget e.src, none, .read e.src n e.seq⟩ s.wait →
      Happens (.copyStart core id) s fun t => s.SameMem t ∧ s.SameCtxs t ∧ t.out = s.out ∧
        t.wait = if n = e.len then w else
          waitInsert ⟨e.start + 1, [e.start, core, 2, 1], outTarget (e.src + n), none, .read (e.src + n) (e.len - n) e.seq⟩ w) ∧
    (isTq (regionOf e.dst) = false → s.foreign e.part e.dst e.len = false → e.len = 64 * m → e.dst % 64 = 0 → Happens (.copyArrival core id) s fun t =>
      s.Wrote t e.dst e.len e.data ∧ s.SameCtxs t ∧ (t.core core).copies = (s.core core).copies.filter (·.id ≠ id) ∧
      ∀ i < m, (granOf e.dst + i ∈ t.pois ↔ i ∈ e.poison) ∧ (isSpad (e.dst + 64 * i) = true → t.tag (granOf e.dst + i) = e.tag)) ∧
    (∀ q, regionOf e.dst = .tq q → s.zeroing 2 q = true ∨ s.holdsTq e.part q = false → e.len = 64 →
      Happens (.copyArrival core id) s fun t => s.SameMem t ∧ s.SameCtxs t ∧ t.tq q = s.tq q) ∧
    (∀ q, regionOf e.dst = .tq q → s.zeroing 2 q = false → s.holdsTq e.part q = true → (s.tq q).taken < 64 → (s.tq q).recvs = [] →
      (e.len = 64 → Happens (.copyArrival core id) s fun t => s.SameMem t ∧ s.SameCtxs t ∧
        ∃ i, (t.tq q).ents = (s.tq q).ents ++ [⟨i, BitVec.ofNat 512 (e.data % 2 ^ 512), decide (0 ∈ e.poison), none⟩]) ∧
      ∀ (gran data : Nat) (poison : Bool), isOuter (regionOf e.src) = true → e.start < s.cyc → gran = e.back →
        gran < e.len / 64 → (∀ o ∈ s.wait, ∀ j, o.key ≠ [e.start, core, 2, j]) →
        Happens (.copyReadReturn core id gran data poison) s fun t => s.SameMem t ∧ s.SameCtxs t ∧
          ∃ i, (t.tq q).ents = (s.tq q).ents ++
            [⟨i, BitVec.ofNat 512 data, poison || e.poison.contains gran, none⟩]) ∧
    (∀ (gran : Nat) (key : List Nat), isOuter (regionOf e.dst) = true → e.start < s.cyc → gran + e.left = e.len / 64 →
      key = [e.start, core, 0, gran] →
      (s.mustWait (outTarget (e.dst + 64 * gran)) key = false →
        Happens (.copyPostedWrite core id gran) s fun t => s.SameMem t ∧ s.SameCtxs t ∧
          ∃ (l : Option Nat) (more : List Out), t.out = s.out ++ ⟨s.cyc, key, outTarget (e.dst + 64 * gran), l,
            .write (e.dst + 64 * gran) 64 (s.stamp (e.dst + 64 * gran) (e.gran gran)).2 e.seq gran (e.poison.contains gran)⟩ :: more) ∧
      (s.mustWait (outTarget (e.dst + 64 * gran)) key = true → exec (.copyPostedWrite core id gran) s = .next s)) ∧
    ∀ (a d k : Nat), (podQueue a = none → s.stamp a d = (s, d)) ∧
      (podQueue a = some k → (s.stamp a d).2 = d % 2 ^ 480 + agetD s.oseq k 0 * 2 ^ 480 ∧
        agetD (s.stamp a d).1.oseq k 0 = (agetD s.oseq k 0 + 1) % 2 ^ 32)

/-- An atomic performs: the word takes its new value and the result in flight the old one; a poisoned granule stays as it is and
the result carries the poison fault, subcode 2 where a restore has poisoned the granule; the reply from the outside becomes an
entry of its reply queue, or nothing where that queue is being zeroed or the partition no longer holds it; one that comes before
the request has left is none. The new word is the sum, the smaller, the larger, the operand, the operand where the old word is
the compared one, or the smaller or larger without sign; the old word lands sign-extended from 32 bits, zero-extended for the
last two, or whole (R244, R245, R246, R268, R296). A granule of a flush persists in its core's mirror with its tag and poison; a
record takes its slot where its payload begins, the one whose record is not valid or else the older one, whose record is torn
from then on, and persists whole when its header is written, leaving the other slot; a queue's change writes the places of its
new entries in the next cycle, but none that the newest valid record names, and 32 cycles after it its state record, from 31 on
in the record's slot, with the places of all its entries and of its inbound hold, once the negative is ready, so that the newest
valid record and the places that it names are those of one change (R247, R249, R265, R328, R337, R346). That the record in the
way is torn at 31 cycles, that places count from the head place, and what the CRC of the matrix state covers are the model's
choices. Points that the spec leaves to a reading stand as the model’s log entries 8, 64, 72, 82 and 103 say. -/
def Obligations.AtomicsPersistsPerform : Prop :=
  ((∀ (w old b c : Nat), w = 32 ∨ w = 64 → old < 2 ^ w →
    let x : BitVec w := BitVec.ofNat w old
    let y : BitVec w := BitVec.ofNat w b
    atomNew 0 w old b c = (x + y).toNat ∧ atomNew 1 w old b c = (if y.slt x then y else x).toNat ∧
    atomNew 2 w old b c = (if x.slt y then y else x).toNat ∧ atomNew 3 w old b c = y.toNat ∧
    atomNew 4 w old b c = (if x = BitVec.ofNat w c then y else x).toNat ∧ atomNew 5 w old b c = (if y.ult x then y else x).toNat ∧
    atomNew 6 w old b c = (if x.ult y then y else x).toNat ∧
    (∀ op, atomOld op true old = old ∧ (op = 5 ∨ op = 6 → atomOld op false old = old) ∧
      (op < 5 → w = 32 → BitVec.ofNat 64 (atomOld op false old) = (BitVec.ofNat 32 old).signExtend 64))) ∧
  ∀ (s : State) (core id len : Nat) (f : AtomFl), s.Inv → len = (if f.wide then 8 else 4) →
    ((s.core core).atoms.find? (·.id = id) = some f →
      (s.poisoned f.addr len = false → Happens (.atomPerform core id) s fun t =>
        s.Wrote t f.addr len (atomNew f.op (8 * len) (s.load f.addr len) f.b f.cmp) ∧ t.tags = s.tags ∧ t.pois = s.pois ∧
        (t.core core).atoms = (s.core core).atoms.filter (·.id ≠ id) ∧ s.SameOthers t core f.ctx ∧
        t.ctx core f.ctx = { s.ctx core f.ctx with fl := (s.ctx core f.ctx).fl.map fun g => if g.id = id then
          { g with pairs := g.pairs.map fun p =>
            { p with x := ofWord (BitVec.ofNat 64 (atomOld f.op f.wide (s.load f.addr len))) } } else g }) ∧
      (s.poisoned f.addr len = true → Happens (.atomPerform core id) s fun t => s.SameMem t ∧ s.SameOthers t core f.ctx ∧
        ∀ g ∈ (t.ctx core f.ctx).fl, g.id = id → ∀ p ∈ g.pairs, ∃ u : Trap, p.trap = some u ∧ u.code = 0x0C ∧
          u.sub = (if s.rpois.contains (granOf (s.poisonAddr f.addr len)) then 2 else 0) ∧ u.info1 = s.poisonAddr f.addr len)) ∧
    (∀ (old : Nat) (refused : Bool), (s.core core).atoms.find? (fun f => f.id = id && isOuter (regionOf f.addr)) = some f →
      ((∃ o ∈ s.wait, o.key = [f.iat + 4, core, 1, 0]) → exec (.atomReply core id old refused) s = .next s) ∧
      ((∀ o ∈ s.wait, o.key ≠ [f.iat + 4, core, 1, 0]) →
      (s.zeroing 2 f.rq = true ∨ s.holdsTq f.part f.rq = false → Happens (.atomReply core id old refused) s fun t => s.SameMem t ∧
        s.SameCtxs t ∧ t.tq f.rq = s.tq f.rq) ∧
      (s.zeroing 2 f.rq = false → s.holdsTq f.part f.rq = true → (s.tq f.rq).taken < 64 → (s.tq f.rq).recvs = [] →
      Happens (.atomReply core id old refused) s fun t => s.SameMem t ∧ s.SameCtxs t ∧
        (t.core core).atoms = (s.core core).atoms.filter (·.id ≠ id) ∧
        ∃ i, (t.tq f.rq).ents = (s.tq f.rq).ents ++ [⟨i, BitVec.ofNat 512 (old % 2 ^ 64 + f.seq * 2 ^ 64 +
          if refused then 0xFFFFFFFF * 2 ^ 96 else 0), false, none⟩])))) ∧
  (∀ (s : State) (core id : Nat),
    (∀ (f : Flush) (gran : Nat) (g : Nat × BitVec 512 × Nat × Bool), (s.core core).flushes.find? (·.id = id) = some f →
      f.grans[gran]? = some g → Happens (.flushGranulePersist core id gran) s fun t => s.SameMem t ∧ s.SameCtxs t ∧
        aget (t.core core).neg.mirror g.1 = some g.2 ∧
        (∀ a, a ≠ g.1 → aget (t.core core).neg.mirror a = aget (s.core core).neg.mirror a) ∧
        (gran + 1 < f.grans.length → t.cal = calInsert
          ⟨s.cyc + 2, phArray, core, 6, id, .flushGranulePersist core id (gran + 1), CtlAcc.reset⟩ s.cal) ∧
        (f.grans.length ≤ gran + 1 → (t.core core).flushes = (s.core core).flushes.filter (·.id ≠ id))) ∧
    (∀ (v : Save) (j n : Nat), (s.core core).saves.find? (·.id = id) = some v →
      (v.slot = none → s.cyc = v.start → v.start ≠ v.from_ ∨ v.mat = none → (s.core core).recSlot v.ctx = (j, n) →
        Happens (.psaveHeaderWrite core id) s fun t => s.SameMem t ∧ s.SameCtxs t ∧ j < 2 ∧
          (t.core core).saves = (s.core core).saves.map (fun w => if w.id = id then { w with slot := some (j, n) } else w) ∧
          aget (t.core core).neg.recs (2 * v.ctx + j) =
            (aget (s.core core).neg.recs (2 * v.ctx + j)).map (fun r => { r with torn := true }) ∧
          (∀ a, a ≠ 2 * v.ctx + j → aget (t.core core).neg.recs a = aget (s.core core).neg.recs a) ∧
          ∀ r, aget (s.core core).neg.recs (2 * v.ctx + (1 - j)) = some r → r.magic = true → r.seq < n) ∧
      (v.slot = some (j, n) → s.cyc = v.header → Happens (.psaveHeaderWrite core id) s fun t => s.SameMem t ∧ s.SameCtxs t ∧
        aget (t.core core).neg.recs (2 * v.ctx + j) = some
          { magic := true, kind := v.kind, ctx := v.ctx, seq := n, len := 40960, crc := v.pay.crc, scn := v.pay.ctx.q.scn,
            srel := v.pay.ctx.q.srel, taskid := v.pay.taskid, mlen := v.mlen,
            mcrc := v.mat.elim 0 (fun a => Config.recordCrc a.contents), torn := false, pay := some v.pay } ∧
        (∀ a, a ≠ 2 * v.ctx + j → aget (t.core core).neg.recs a = aget (s.core core).neg.recs a) ∧
        (∀ a, v.mat = some a → (t.core core).neg.mat = some ⟨a, v.ctx, n, true⟩) ∧
        (v.mat = none → (t.core core).neg.mat = (s.core core).neg.mat))) ∧
    ∀ (tq : Nat) (g : TqChg), (s.tq tq).chg.find? (·.id = id) = some g → Happens (.queueShadowPersist tq id) s fun t =>
      s.SameMem t ∧ s.SameCtxs t ∧ (t.tq tq).ents = (s.tq tq).ents ∧
      (s.negReady = false → (t.core tq).neg = (s.core tq).neg) ∧
      (s.negReady = true → s.cyc = g.at_ + 1 →
        (∀ e ∈ g.ents.zipIdx, g.new = [e.1.id] → (∀ f ∈ g.ents.zipIdx, f.1.id = e.1.id → f = e) →
          (∀ r, (s.core tq).neg.qNewest = some r → ∀ j < r.count, (r.head + j) % 64 ≠ (g.head + e.2) % 64) →
          aget (t.core tq).neg.qents ((g.head + e.2) % 64) = some e.1.data) ∧
        (∀ r, (s.core tq).neg.qNewest = some r → r.count ≤ 64 → r.hcount ≤ 64 →
          (∀ j < r.count, aget (t.core tq).neg.qents ((r.head + j) % 64) = aget (s.core tq).neg.qents ((r.head + j) % 64)) ∧
          ∀ j < r.hcount, aget (t.core tq).neg.qholds ((r.hhead + j) % 64) = aget (s.core tq).neg.qholds ((r.hhead + j) % 64)) ∧
        (t.core tq).neg.qrecs = (s.core tq).neg.qrecs) ∧
      (s.negReady = true → s.cyc ≠ g.at_ + 1 → s.cyc ≠ g.at_ + 31 → g.change = true →
        ∃ r : QRec, aget (t.core tq).neg.qrecs (s.core tq).neg.qSlot.1 = some r ∧ r.seq = (s.core tq).neg.qSlot.2 ∧ r.head = g.head ∧
          r.count = g.ents.length ∧ r.hhead = g.hhead ∧ r.hcount = g.hold.length ∧ r.torn = false ∧
          (g.ents.length ≤ 64 → ∀ e ∈ g.ents.zipIdx, aget (t.core tq).neg.qents ((g.head + e.2) % 64) = some e.1.data) ∧
          (g.hold.length ≤ 64 → ∀ e ∈ g.hold.zipIdx, aget (t.core tq).neg.qholds ((g.hhead + e.2) % 64) = some e.1.data)) ∧
      (s.negReady = true → s.cyc = g.at_ + 31 → g.change = true → ∀ r, aget (s.core tq).neg.qrecs (s.core tq).neg.qSlot.1 = some r →
        aget (t.core tq).neg.qrecs (s.core tq).neg.qSlot.1 = some { r with torn := true }))

/-- Rows of an MMUL enter one a cycle, popped from their port, and land 260 cycles later in their tile, which becomes live and
collects their events, with every other row and tile as before; a row whose entry faults stops its pass with no row added. The
2N pops of an MGRAD are made first, and its gradient lands after them (R203, R204, R206, R216). Points that the spec leaves to a
reading stand as the model’s log entries 45, 110 and 111 say. -/
def Obligations.RowsEnterAndLand : Prop :=
  ∀ (s : State) (core id row : Nat) (a : Arr), a = (s.core core).arr →
    (∀ p, a.passes.find? (·.id = id) = some p → p.grad = false →
      (∀ u f r w, s.enterRow core p row = .ok (u, f, r, w) → Happens (.mmulRowEntry core id row) s fun t => s.SameMem t ∧
        (t.core core).arr.tiles = (u.core core).arr.tiles ∧ (t.core core).arr.banks = (u.core core).arr.banks ∧
        (∃ x : RowFl, (t.core core).arr.rows = (u.core core).arr.rows ++ [x] ∧ x.id = p.id ∧ x.row = row ∧ x.due = s.cyc + 260 ∧
          x.tile = p.tile ∧ x.init = p.init ∧ x.afmt = f ∧ x.a = r.row ∧ x.sa = r.scales ∧ x.w = w ∧ x.c4 = p.c4) ∧
        ⟨s.cyc + 260, phLandA, core, p.iat, row, .mmulRowLand core p.id row, CtlAcc.reset⟩ ∈ t.cal ∧
        (row + 1 < p.live →
          ⟨s.cyc + 1, phArray, core, p.iat, 5, .mmulRowEntry core p.id (row + 1), CtlAcc.reset⟩ ∈ t.cal)) ∧
      ∀ e, s.enterRow core p row = .error e → Happens (.mmulRowEntry core id row) s fun t => s.SameMem t ∧
        (t.core core).arr.rows = a.rows ∧ (t.core core).arr.tiles = a.tiles ∧
        (t.core core).arr.passes = a.passes.filter (·.id ≠ p.id)) ∧
    (∀ p u r, a.passes.find? (·.id = id) = some p → p.grad = true → s.pop core p.ctx p.port 8 true = .ok (u, r) →
      Happens (.mmulRowEntry core id row) s fun t => s.SameMem t ∧ (t.core core).arr.tiles = (u.core core).arr.tiles ∧
        (t.core core).arr.passes = (u.core core).arr.passes.map (fun x => if x.id = id then
          { p with pops := p.pops ++ [(r.row, r.scales)] } else x) ∧
        (row + 1 < 2 * p.n → ⟨s.cyc + 1, phArray, core, p.iat, 5, .mmulRowEntry core id (row + 1), CtlAcc.reset⟩ ∈ t.cal) ∧
        (2 * p.n ≤ row + 1 → ⟨p.lastLand, phLandA, core, p.iat, 0, .mgradLand core id, CtlAcc.reset⟩ ∈ t.cal)) ∧
    (∀ r, a.rows.find? (fun r => r.id = id && r.row = row) = some r → Happens (.mmulRowLand core id row) s fun t => s.SameMem t ∧
      s.SameCtxs t ∧ (t.core core).arr.banks = a.banks ∧ (t.core core).arr.rows = a.rows.filter (fun x => !(x.id = id && x.row = row)) ∧
      (∀ j, j ≠ r.tile → (t.core core).arr.tile j = a.tile j) ∧ ((t.core core).arr.tile r.tile).live = true ∧
      ((t.core core).arr.tile r.tile).ev = evOr (a.tile r.tile).ev (passRow (agetD (a.tile r.tile).rows row 0) r).2 ∧
      agetD ((t.core core).arr.tile r.tile).rows row 0 = (passRow (agetD (a.tile r.tile).rows row 0) r).1 ∧
      ∀ j, j ≠ row → agetD ((t.core core).arr.tile r.tile).rows j 0 = agetD (a.tile r.tile).rows j 0) ∧
    ∀ p, a.passes.find? (·.id = id) = some p → Happens (.mgradLand core id) s fun t => s.SameMem t ∧ s.SameCtxs t ∧
      (t.core core).arr.banks = a.banks ∧ (t.core core).arr.passes = a.passes.filter (·.id ≠ id) ∧
      (∀ j, j ≠ p.tile → (t.core core).arr.tile j = a.tile j) ∧ ((t.core core).arr.tile p.tile).live = true ∧
      (p.gradPairs = [] → ((t.core core).arr.tile p.tile).rows = (a.tile p.tile).rows) ∧
      (p.gradPairs ≠ [] → ∀ k, k < 256 → aget ((t.core core).arr.tile p.tile).rows k =
        some (gradRow p.c4 (agetD (a.tile p.tile).rows k 0) k p.gradPairs).1)

/-- A fill takes one column each cycle into its own record and lands in the shadow of its bank, which leaves the active copy and
the tiles as they are; a pop that faults leaves the shadow with no format. A new tree applies to the rows read from then on
(R198, R214). A drain reads a row of its tile every fourth cycle, which stays as it is, and gives its four segments of 64
columns, with the events of the tile, one cycle after another; a segment joins its result queue where it holds fewer than 256;
the rows of band scales are read in the three cycles after issue, whatever store performs in their banks; a poisoned one stops
the drain with the poison fault, whose subcode is 0 whoever poisoned it (R209, R210, R211, R255). Points that the spec leaves to
a reading stand as the model’s log entries 38 and 45 say. -/
def Obligations.FillsTreesDrains : Prop :=
  (∀ (s : State) (core id j : Nat) (a : Arr), a = (s.core core).arr →
    (∀ f, a.fill.filter (·.id = id) = some f →
      (∀ u r, s.pop core f.ctx f.port 9 true = .ok (u, r) → Happens (.mwloadFillPop core id j) s fun t => s.SameMem t ∧
        (t.core core).arr.fill = some { f with cols := aset f.cols j r.row, scl := aset f.scl j r.scales } ∧
        (t.core core).arr.banks = (u.core core).arr.banks ∧ (t.core core).arr.tiles = (u.core core).arr.tiles ∧
        (j ≠ 255 → ⟨s.cyc + 1, phArray, core, f.iat, 5, .mwloadFillPop core id (j + 1), CtlAcc.reset⟩ ∈ t.cal) ∧
        (j = 255 → ⟨f.iat + 260, phLandA, core, 5, id, .mwloadFillLand core id, CtlAcc.reset⟩ ∈ t.cal)) ∧
      (∀ e, s.pop core f.ctx f.port 9 true = .error e → Happens (.mwloadFillPop core id j) s fun t => s.SameMem t ∧
        (t.core core).arr.fill = none ∧ ((t.core core).arr.bank f.bank).shd.fmt = none ∧
        ((t.core core).arr.bank f.bank).act = (a.bank f.bank).act) ∧
      Happens (.mwloadFillLand core id) s fun t => s.SameMem t ∧ s.SameCtxs t ∧ (t.core core).arr.fill = none ∧
        (t.core core).arr.tiles = a.tiles ∧ (∀ b, b ≠ f.bank → (t.core core).arr.bank b = a.bank b) ∧
        ((t.core core).arr.bank f.bank).act = (a.bank f.bank).act ∧
        ((t.core core).arr.bank f.bank).shd = { (a.bank f.bank).shd with fmt := some f.fmt, cols := f.cols, scl := f.scl }) ∧
    ∀ tr, a.treeNew.find? (·.1 = id) = some tr → Happens (.treeApply core id) s fun t => s.SameMem t ∧ s.SameCtxs t ∧
      (t.core core).arr = { a with tree := tr.2, treeNew := a.treeNew.filter (·.1 ≠ id) }) ∧
  (∀ (s : State) (core id : Nat) (a : Arr) (d : Drain), a = (s.core core).arr → a.drains.find? (·.id = id) = some d →
    (∀ row : Nat, Happens (.drainRowRead core id row) s fun t => s.SameMem t ∧ s.SameCtxs t ∧ (t.core core).arr.tiles = a.tiles ∧
      (t.core core).arr.oq = a.oq ∧ ∃ d' : Drain, (t.core core).arr.drains = a.drains.map (fun x => if x.id = id then d' else x) ∧
      d'.id = d.id ∧ d'.read = row + 1 ∧
      (d.topk = false → d.scale = false → d.tree = false → ∀ k < 4, aget d'.segs (4 * row + k) =
        some ⟨pack 32 ((List.range 64).map fun i => tileLane (agetD (a.tile d.tile).rows row 0) (64 * k + i)), (a.tile d.tile).ev⟩) ∧
      (∀ k < 4, ⟨d.iat + 4 + (if d.topk then 8 else 0) + 4 * row + k, phLandA, core, d.iat, 0, .segmentArrival core id (4 * row + k),
        CtlAcc.reset⟩ ∈ t.cal) ∧
      (row + 1 < d.n → ⟨d.iat + 3 + 4 * (row + 1), phDrain, core, d.iat, 0, .drainRowRead core id (row + 1), CtlAcc.reset⟩ ∈ t.cal)) ∧
    (∀ (k : Nat) (g : Seg), aget d.segs k = some g → (agetD a.oq d.oq []).length < 256 → Happens (.segmentArrival core id k) s fun t =>
      s.SameMem t ∧ s.SameCtxs t ∧ (t.core core).arr.tiles = a.tiles ∧
      agetD (t.core core).arr.oq d.oq [] = agetD a.oq d.oq [] ++ [g] ∧
      ∀ q, q ≠ d.oq → agetD (t.core core).arr.oq q [] = agetD a.oq q []) ∧
    ∀ k : Nat,
      (∀ u, s.claimArr core 10 (offOf (d.sbase + 256 * k)) = .ok u → s.poisonFlt (d.sbase + 256 * k) 256 = none →
        Happens (.drainScaleRead core id k) s fun t => s.SameMem t ∧ s.SameCtxs t ∧ (t.core core).arr.tiles = a.tiles ∧
          (t.core core).arr.drains = a.drains.map (fun x => if x.id = id then
            { d with scales := aset d.scales k (BitVec.ofNat 2048 (s.load (d.sbase + 256 * k) 256)) } else x)) ∧
      (∀ e, s.claimArr core 10 (offOf (d.sbase + 256 * k)) = .error e → Happens (.drainScaleRead core id k) s fun t => s.SameMem t ∧
        (t.core core).arr.drains = a.drains.filter (·.id ≠ id)) ∧
      (∀ u e x, s.claimArr core 10 (offOf (d.sbase + 256 * k)) = .ok u → s.poisonFlt (d.sbase + 256 * k) 256 = some e →
        x = s.ctx core d.ctx → x.q.st = .holder → x.q.block = none → x.fault = none → (x.q.sup = true → d.sup = true) →
        Happens (.drainScaleRead core id k) s fun t => s.SameMem t ∧ (t.core core).arr.drains = a.drains.filter (·.id ≠ id) ∧
          (t.ctx core d.ctx).fault = some
            { code := 0x0C, sub := 0, slot := d.slot, slot2 := 0, fpc := d.fpc, info0 := e.info0, info1 := e.info1, iat := d.iat,
              defer := false, sys := false, sup := d.sup }))

/-- A sent entry becomes receivable behind the others and goes to the receiver that has waited longest; a place that becomes
free goes to the sender that has waited longest, or to the oldest entry held on its way in; a queue that is being zeroed
discards what reaches it; a flit leaves its lane (R95, R96, R24, R299). A phase of a barrier is released its latency after its
last arrival: every participant's bundle can complete, with the release cycle and whether an arrival was poisoned; a release
that the pod sends once the bundles of a cycle have issued is one of the next cycle. A POISONARR write makes an arrival at an
open phase, or sets PERR (R97, R98, R341). Points that the spec leaves to a reading stand as the model’s log entries 31, 47 and
104 say. -/
def Obligations.QueuesBarriersServe : Prop :=
  (∀ (s : State) (tq id : Nat) (r : Tq), r = s.tq tq →
    (∀ e, r.sent.find? (·.id = id) = some e → s.zeroing 2 tq = true → Happens (.tqEntryReceivable tq id) s fun t => s.SameMem t ∧
      s.SameCtxs t ∧ t.tq tq = { r with sent := r.sent.filter (·.id ≠ id) }) ∧
    (∀ e, r.sent.find? (·.id = id) = some e → s.zeroing 2 tq = false →
      (r.recvs = [] → Happens (.tqEntryReceivable tq id) s fun t => s.SameMem t ∧ s.SameCtxs t ∧
        (t.tq tq).sent = r.sent.filter (·.id ≠ id) ∧ (t.tq tq).ents = r.ents ++ [⟨e.id, e.data, e.poison, none⟩]) ∧
      (∀ w c l, r.recvs = (w, c) :: l → (∀ x ∈ r.ents, x.id ≠ e.id ∧ x.resv ≠ none) → Happens (.tqEntryReceivable tq id) s fun t =>
        s.SameMem t ∧ (t.tq tq).recvs = l ∧ (t.tq tq).ents = r.ents ++ [⟨e.id, e.data, e.poison, some w⟩] ∧
        (t.ctx (w / 4) (w % 4)).q.block = (s.ctx (w / 4) (w % 4)).q.block.map (fun b =>
          { b with go := true, entry := some e.id, poisoned := false }))) ∧
    (r.sends = [] → r.hold = [] → Happens (.tqPlaceFreed tq) s fun t => s.SameMem t ∧ s.SameCtxs t ∧
      (t.tq tq) = { r with busy := r.busy - 1 }) ∧
    (∀ w c l, r.sends = (w, c) :: l → r.hold = [] → Happens (.tqPlaceFreed tq) s fun t => s.SameMem t ∧
      (t.tq tq) = { r with sends := l } ∧ (t.ctx (w / 4) (w % 4)).q.block = (s.ctx (w / 4) (w % 4)).q.block.map (fun b =>
        { b with go := true, entry := none, poisoned := false })) ∧
    (∀ h l, r.sends = [] → r.hold = h :: l → r.recvs = [] → Happens (.tqPlaceFreed tq) s fun t => s.SameMem t ∧ s.SameCtxs t ∧
      (t.tq tq).hold = l ∧ (t.tq tq).busy = r.busy - 1 ∧ (t.tq tq).ents = r.ents ++ [⟨h.id, h.data, h.poison, none⟩]) ∧
    ∀ die : Nat, Happens (.flitLeave die id) s fun t => s.SameMem t ∧ s.SameCtxs t ∧
      (t.die die).flits = (s.die die).flits.filter (·.id ≠ id)) ∧
  (∀ (s : State) (part sc inst num key : Nat) (b : Barrier), key = barKey part sc inst num → b = agetD s.bars key Barrier.reset →
    (∀ who p, sc ≠ 5 → b.rel.filter (fun r => r.1 = s.cyc) = [(s.cyc, who, p)] → Happens (.barrierRelease part sc inst num) s fun t =>
      s.SameMem t ∧ (agetD t.bars key Barrier.reset).rel = b.rel.filter (fun r => r.1 ≠ s.cyc) ∧
      ∀ w ∈ who, (t.ctx (w / 4) (w % 4)).q.block = (s.ctx (w / 4) (w % 4)).q.block.map (fun k =>
        { k with go := true, entry := some s.cyc, poisoned := p })) ∧
    (sc = 5 → phOut ≤ s.ph → Happens (.barrierRelease part sc inst num) s fun t => s.SameMem t ∧ s.SameCtxs t ∧ t.bars = s.bars ∧
      t.cal = calInsert ⟨s.cyc + 1, phQueue, 3000, key, 0, .barrierRelease part sc inst num, CtlAcc.reset⟩ s.cal) ∧
    (sc = 5 → s.ph < phOut → Happens (.barrierRelease part sc inst num) s fun t => s.SameMem t ∧ (agetD t.bars key Barrier.reset).arr = [] ∧
      ∀ w ∈ b.arr, (t.ctx (w / 4) (w % 4)).q.block = (s.ctx (w / 4) (w % 4)).q.block.map (fun k =>
        { k with go := true, entry := some s.cyc, poisoned := false })) ∧
    (part < 16 → sc < 8 → inst < 512 → num < 16 → s.cw.off = 0xB080 + 8 * part → s.cw.val = sc + inst * 2 ^ 4 + num * 2 ^ 13 →
      (s.holdsScope part sc inst = true → b.isOpen = true →
        (b.arr.length + b.pois + 1 < b.n → Happens .poisonarrBar s fun t => s.SameMem t ∧ s.SameCtxs t ∧
          agetD t.bars key Barrier.reset = { b with pois := b.pois + 1 }) ∧
        (b.n = b.arr.length + b.pois + 1 → Happens .poisonarrBar s fun t => s.SameMem t ∧ s.SameCtxs t ∧
          agetD t.bars key Barrier.reset = { b with arr := [], pois := 0, rel := b.rel ++ [(s.cyc + barLat sc, b.arr, true)] } ∧
          ⟨s.cyc + barLat sc, phQueue, 3000, key, 0, .barrierRelease part sc inst num, CtlAcc.reset⟩ ∈ t.cal)) ∧
      (s.holdsScope part sc inst = false ∨ b.isOpen = false → Happens .poisonarrBar s fun t => s.SameMem t ∧ s.SameCtxs t ∧
        t.ctl = aset s.ctl (offPart part + 0x1F8) (BitVec.ofNat 64 (5 + s.cw.off * 16)))))

/-- The requests of the engines perform: a slot request changes its die's slots and puts its result word in place; ACCEPT reads
its rows, where no other requester of the array is in their bank, and writes rows 3 and 4 with the walk, or raises the poison of
a row; PKEY writes its key, PLOOK looks up its key and may insert it (R201, R202, R205, R275, R276, R278, R280). Points that the
spec leaves to a reading stand as the model’s log entry 41 says. -/
def Obligations.EnginesComplete : Prop :=
  ∀ (s : State) (core id : Nat) (j : Job), s.Inv → (s.core core).job? id = some j →
    let answers (t : State) (v : Nat) : Prop := s.SameOthers t core j.ctx ∧ t.ctx core j.ctx = { s.ctx core j.ctx with
      fl := (s.ctx core j.ctx).fl.map fun f => if f.id = id then
        { f with pairs := f.pairs.map fun p => { p with x := ofWord (BitVec.ofNat 64 v) } } else f }
    (∀ d v, (s.die (dieOf core)).xslot s.cyc j.part j.rel (BitVec.ofNat 32 j.a) = (d, v) → Happens (.xslotPerform core id) s fun t =>
      s.SameMem t ∧ t.die (dieOf core) = d ∧ answers t v) ∧
    (∀ k u, s.claimArr core 11 (offOf (j.a + 256 * k)) = .ok u → Happens (.acceptRowRead core id k) s fun t => s.SameMem t ∧ s.SameCtxs t ∧
      (t.core core).jobs = (s.core core).jobs.map (fun i => if i.id = id then { i with
        rows := i.rows ++ [BitVec.ofNat 2048 (s.load (j.a + 256 * k) 256)], poison := i.poison || s.poisoned (j.a + 256 * k) 256,
        b := if i.poison then i.b else s.poisonAddr (j.a + 256 * k) 256,
        sub := if i.poison then i.sub else (s.poisonFlt (j.a + 256 * k) 256).elim 0 (·.sub) } else i)) ∧
    (∀ r0 r1 r2, j.poison = false → j.rows = [r0, r1, r2] → j.a % 64 = 0 → Happens (.acceptComplete core id) s fun t =>
      s.Wrote t (j.a + 0x300) 512 ((acceptRows r0 r1 r2).2.1.toNat + (acceptRows r0 r1 r2).2.2.toNat * 2 ^ 2048) ∧
      answers t (acceptRows r0 r1 r2).1) ∧
    (j.poison = true → Happens (.acceptComplete core id) s fun t => s.SameMem t ∧
      ∀ f ∈ (t.ctx core j.ctx).fl, f.id = id → f.dead = true) ∧
    (Happens (.pkeyComplete core id) s fun t => s.Wrote t j.a 16 j.b ∧ t.tags = s.tags ∧ t.pois = s.pois ∧
      answers t (j.b % 2 ^ 64)) ∧
    (Happens (.plookPerform core id) s fun t => s.SameMem t ∧
      (t.die (dieOf core)).pdir = (plook (s.die (dieOf core)).pdir j.part j.a j.b).1 ∧
      answers t (plook (s.die (dieOf core)).pdir j.part j.a j.b).2)

/-- A slot of the host ring departs to its place in the ring; the 32nd since the last interrupt, or one whose sequence exits, is
followed by the ring's one interrupt behind every slot of its cycle, and so is the end of 52500 cycles after the first (R287,
R288). A combine phase: its arrivals' rows are read in the two cycles after them; it closes with those that came when 16752
cycles from its first arrival are over, and its release writes rows and status of every participant and lets them complete; a
POISONARR write makes a poisoned arrival, or sets PERR (R290, R291, R341). Points that the spec leaves to a reading stand as the
model’s log entries 40, 42 and 100 say. -/
def Obligations.RingCombinesServe : Prop :=
  (∀ (s : State) (p id : Nat) (r : HRing) (x : Post), r = s.hring p → r.posts.find? (·.id = id) = some x →
    let slot : Out := ⟨s.cyc, [s.cyc, 512, 0, p], 0, none, .write (r.base + 32 * (x.slot.toNat % 2 ^ 32 % 2 ^ r.size)) 32 x.slot.toNat
      (x.slot.toNat % 2 ^ 32) 0 false⟩
    (Happens (.hringDepart p id) s fun t => s.SameMem t ∧ s.SameCtxs t ∧ t.out = s.out ++ [slot] ∧
      (t.hring p).unsig = r.unsig + 1 ∧ (t.hring p).posts = r.posts.filter (·.id ≠ id) ∧
      (t.hring p).now = (r.now || x.exit || decide (r.unsig + 1 = 32)) ∧
      ⟨s.cyc, phSched, p, 3, 0, .ringCoalesceTimeout p, CtlAcc.reset⟩ ∈ t.cal ∧
      (r.unsig = 0 → (t.hring p).first = s.cyc ∧
        ⟨s.cyc + 52500, phSched, p, 3, 0, .ringCoalesceTimeout p, CtlAcc.reset⟩ ∈ t.cal)) ∧
    (0 < r.unsig → r.now = true ∨ s.cyc = r.first + 52500 → Happens (.ringCoalesceTimeout p) s fun t => s.SameMem t ∧ s.SameCtxs t ∧
      t.out = s.out ++ [⟨s.cyc, [s.cyc, 512, 1, p], 0, none, .msix r.vec⟩] ∧ (t.hring p).unsig = 0 ∧ (t.hring p).now = false) ∧
    (r.unsig = 0 ∨ (r.now = false ∧ s.cyc ≠ r.first + 52500) → exec (.ringCoalesceTimeout p) s = .next s)) ∧
  (∀ (s : State) (part grp phase key : Nat) (c : Combine), key = combKey part grp phase → aget s.combs key = some c →
    (∀ core ctx k a u, (s.core core).jobs.find? (fun j => j.ctx = ctx && j.reg = 64) = none → s.combOf core ctx = some (key, c, a) →
      s.claimArr core 11 (offOf (spad core + a.off + 256 * k)) = .ok u →
      Happens (.combineRowRead core ctx k) s fun t => s.SameMem t ∧ s.SameCtxs t ∧ aget t.combs key = some { c with
        arrs := c.arrs.map fun b => if b.who = a.who then { a with
          rows := a.rows ++ [BitVec.ofNat 2048 (s.load (spad core + a.off + 256 * k) 256)],
          poison := a.poison || s.poisoned (spad core + a.off + 256 * k) 256 } else b }) ∧
    (c.closed = none → s.cyc = c.a0 + 16752 → Happens (.combineCloseTimeout part grp phase) s fun t => s.SameMem t ∧ s.SameCtxs t ∧
      aget t.combs key = some { c with closed := some s.cyc, rel := s.cyc + 48, degraded := true } ∧
      t.cal = calInsert ⟨s.cyc + 48, phRelease, part, grp, phase, .combineRelease part grp phase, CtlAcc.reset⟩ s.cal) ∧
    (c.closed.isSome = true → exec (.combineCloseTimeout part grp phase) s = .next s) ∧
    (c.closed.isSome = true → c.rel = s.cyc → ((c.arrs.filter fun a => decide (a.who < 2048)).map (·.who)).Nodup →
      Happens (.combineRelease part grp phase) s fun t => s.SameMem t ∧ (∀ x ∈ c.arrs, x.who < 2048 →
        ∃ (w : Store) (r : Vec × Vec × Nat), w ∈ (t.core (x.who / 4)).stores ∧ w.due = s.cyc ∧ r = c.results (s.ctx (x.who / 4) (x.who % 4)).ar.c4 x.rn ∧
        w.ws = [⟨spad (x.who / 4) + x.off + 192, 64, c.status x.late r.2.2⟩,
          ⟨spad (x.who / 4) + x.off + 768, 512, r.1.toNat + r.2.1.toNat * 2 ^ 2048⟩] ∧
        (((s.combOf (x.who / 4) (x.who % 4)).map (·.1)) = some key → ∃ b : Block, (t.ctx (x.who / 4) (x.who % 4)).q.block = some b ∧
          b.go = true ∧ b.entry = some r.2.2))) ∧
    (∀ i, part < 16 → grp < 16 → phase < 2 ^ 32 → i < 8 → s.cw.off = 0xB080 + 8 * part →
      s.cw.val = 8 + grp * 2 ^ 13 + i * 2 ^ 17 + phase * 2 ^ 32 →
      (c.phase = phase → c.closed = none → (∀ a ∈ c.arrs, a.late = false → a.index ≠ i) → Happens .poisonarrCombine s fun t => s.SameMem t ∧
        s.SameCtxs t ∧ ∃ (d : Combine) (a : CArr), aget t.combs key = some d ∧ d.arrs = c.arrs ++ [a] ∧ a.index = i ∧ a.poison = true ∧ a.late = false) ∧
      (c.closed.isSome = true ∨ (∃ a ∈ c.arrs, a.late = false ∧ a.index = i) → Happens .poisonarrCombine s fun t => s.SameMem t ∧ s.SameCtxs t ∧
        t.ctl = aset s.ctl (offPart part + 0x1F8) (BitVec.ofNat 64 (5 + s.cw.off * 16)))))

/-! ## Tasks, registers, power and the outside -/

/-- The launch of a queue's head: on every core of the queue's mask its lowest Free context becomes the task's at user
privilege, with its first bundle ENTRY at scene base t + 53, the arguments in s1 to s4, every other register 0, masks all ones,
guards false, no window or handle, and COMPAT as the kernel says; the queue's head moves on and the completion table says
launched; an array that no context owns, or is to own from its first resumed bundle on, has K = 1 and empty lists, and any other
stays (R30, R99 to R103, R212, R218, R303). That a launch leaves another context's array alone is the model's reading of R212. A
task completes in a cycle after its last work, once every context has halted and nothing of it but lazy stores is outstanding,
and one that TKILL ended at once: it leaves the tasks and its banks, and the completion table says complete, unless another
TASKID has taken its entry, which is the model's reading; triggered, the table says so (R105, R106, R107, R326). Points that the
spec leaves to a reading stand as the model’s log entries 4, 48, 79 and 85 say. -/
def Obligations.TasksLaunchAndComplete : Prop :=
  (∀ (s : State) (i k d : Nat) (itb : List ITEnt) (q : SQ), q = s.queue i → s.head q = .ready true → q.back = [] →
    d = s.load (q.place q.head) 64 → s.kernel q.part (descKdesc d) = some (k, itb) →
    Happens (.taskLaunch i) s fun t => s.SameMem t ∧ (t.queue i).head = (q.head + 1) % 2 ^ 32 ∧ (t.queue i).eprio = q.prio ∧
      (t.queue i).pass = 0 ∧ aget t.comp (compKey q.part (descId d)) = some (descId d, .launched) ∧
      ∀ n ∈ maskCores q.mask, ∀ j, (s.core n).freeCtx = some j → ∀ x, x = t.ctx n j →
        ((s.core n).arrFree = true → (t.core n).arr.k = 1 ∧ (t.core n).arr.lists = []) ∧
        ((s.core n).arrFree = false → (t.core n).arr = (s.core n).arr) ∧
        ((s.core n).arrFree = true ↔ (s.core n).arr.owner = none ∧ ∀ y ∈ (s.core n).ctxs, y.2.q.owns = false) ∧
        (x.q.st = .holder ∨ x.q.st = .ready) ∧ x.q.part = q.part ∧ x.q.pc = kdEntry k ∧ x.q.base = s.cyc + 53 ∧
        x.q.lastrel = s.cyc + 53 ∧ x.q.at_ = s.cyc + 53 ∧ x.q.srel = 0 ∧ x.q.scn = 0 ∧ x.q.sup = false ∧ x.q.loops = [] ∧
        (∀ a < 4, x.takes .s (a + 1) = oneTake (BitVec.ofNat 2048 (descArg d a % 2 ^ 64))) ∧
        (∀ r, r < 1 ∨ 4 < r → x.takes .s r = oneTake 0) ∧ (∀ r, x.takes .v r = oneTake 0) ∧
        (∀ r, x.takes .m r = oneTake maskOnes) ∧ (∀ g, x.guard g = ⟨false, none⟩) ∧ x.ar.c4 = kdCompat k ∧ x.ar.astat = 0 ∧
        x.win = [] ∧ x.hnd = [] ∧ x.fl = [] ∧ x.defer = []) ∧
  (∀ (s : State) (id : Nat) (t : Task), s.task? id = some t →
    (t.st = .killed ∨ (t.allHalted = true ∧ t.open_ = 0 ∧ t.last < s.cyc ∧
        ∀ p ∈ t.place, ∀ h ∈ (s.ctx p.1 p.2).relq, h.task = id → h.kind = .lazy) →
      Happens (.taskComplete id) s fun u => s.SameMem u ∧ s.SameCtxs u ∧ u.tasks = s.tasks.filter (·.id ≠ t.id) ∧
        u.banks = s.banks.filter (·.2 ≠ t.id) ∧
        ((∀ e, aget s.comp (compKey t.part t.taskid) = some e → e.1 = t.taskid) →
          aget u.comp (compKey t.part t.taskid) = some (t.taskid, .complete)) ∧
        (∀ e, aget s.comp (compKey t.part t.taskid) = some e → e.1 ≠ t.taskid →
          aget u.comp (compKey t.part t.taskid) = some e)) ∧
    (t.st ≠ .killed → t.allHalted = false ∨ t.open_ ≠ 0 → exec (.taskComplete id) s = .next s) ∧
    (aget s.comp (compKey t.part t.taskid) = some (t.taskid, .launched) → Happens (.taskTrigger id) s fun u => s.SameMem u ∧
      s.SameCtxs u ∧ u.tasks = s.tasks ∧ aget u.comp (compKey t.part t.taskid) = some (t.taskid, .triggered)) ∧
    (aget s.comp (compKey t.part t.taskid) = some (t.taskid, .complete) → exec (.taskTrigger id) s = .next s))

/-- A PREEMPT write stops a running task of its partition: the request reaches its contexts 64 cycles later, and each stops from
T' on, the later of that and the partition's bound; of two requests the earlier T' stands, which is the model's reading; a
context that is Ready there is saved and Stopped, and Free when the save completes. A supervisor's write for another partition
sets PERR (R109, R110, R330). A saved task that its queue's head launches again, and a task lost with a rail that waits for
recovery, resume from their records: every context of the gang that has not halted has the landed registers, handles, windows
and trap CSRs of its record and issues at its resume address, at user privilege and all in one cycle, 53 cycles and the longest
restore later; a queue whose mask names a core that its partition does not hold, or one of a die out of service, has the error
of code 2 at such a head (R110, R298, R301, R328, R331, R334, R335, R356). Points that the spec leaves to a reading stand as the
model’s log entries 8, 30, 34, 49 and 80 say. -/
def Obligations.TasksPreemptAndResume : Prop :=
  (∀ (s : State) (core ctx : Nat) (t : Task),
    (∀ part tid tp : Nat, part < 16 → tid < 2 ^ 24 → s.cw.off = 0x100 → s.cw.val = tid + part * 2 ^ 24 →
      (s.cw.who = part ∨ 16 ≤ s.cw.who → s.negReady = true →
        s.tasks.find? (fun t => t.part = part && t.taskid = tid && (t.st = .running || t.st = .saving)) = some t →
        tp = max (s.reg (0x180 + 8 * part)) (s.cyc + 64) →
        (t.st = .saving → (∀ q, t.pre = some q → q.1 ≤ tp) → exec .preemptWrite s = .next s) ∧
        (t.st = .running ∨ (∃ q, t.pre = some q ∧ tp < q.1) → Happens .preemptWrite s fun u => s.SameMem u ∧ s.SameCtxs u ∧
          (∀ p ∈ t.live, ⟨s.cyc + 64, phCtx, p.1, p.2, 0, .preemptStop p.1 p.2, CtlAcc.reset⟩ ∈ u.cal ∧
            ⟨tp, phCtx, p.1, p.2, 0, .preemptStop p.1 p.2, CtlAcc.reset⟩ ∈ u.cal) ∧
          ∀ x ∈ u.tasks, x.id = t.id → x.st = .saving ∧ x.pre = some (tp, s.cyc + 64))) ∧
      (s.cw.who < 16 → part ≠ s.cw.who → Happens .preemptWrite s fun u => s.SameMem u ∧ s.SameCtxs u ∧ u.tasks = s.tasks ∧
        u.ctl = aset s.ctl (offPart s.cw.who + 0x1F8) (BitVec.ofNat 64 (5 + 0x100 * 16)))) ∧
    (∀ tp d, s.tasks.find? (fun t => t.place.contains (core, ctx) && (t.st = .saving || t.st = .recovering)) = some t →
      t.pre = some (tp, d) → t.halted.contains core = false → t.parked.contains core = false → d ≤ s.cyc →
      (s.ctx core ctx).q.saving = none → (s.core core).gated = false → (s.ctx core ctx).q.task = t.id → (s.ctx core ctx).q.st ≠ .free →
      (s.cyc < tp → Happens (.preemptStop core ctx) s fun u => s.SameMem u ∧ s.SameOthers u core ctx ∧
        u.ctx core ctx = { s.ctx core ctx with q := { (s.ctx core ctx).q with preT := some tp } }) ∧
      (tp ≤ s.cyc → t.st = .saving → (s.ctx core ctx).q.st = .ready → (s.ctx core ctx).q.block = none →
        Happens (.preemptStop core ctx) s fun u => s.SameMem u ∧
          (u.ctx core ctx).q.st = .stopped ∧ Ctx.SameRegs (s.ctx core ctx) (u.ctx core ctx) ∧
          ∃ v : Save, (u.core core).saves = (s.core core).saves ++ [v] ∧ v.kind = 2 ∧ v.ctx = ctx ∧ v.pay.resume = (s.ctx core ctx).q.pc ∧
            v.pay.ctx.s = (s.ctx core ctx).s ∧ v.pay.ctx.v = (s.ctx core ctx).v ∧ v.pay.ctx.m = (s.ctx core ctx).m ∧
            (u.ctx core ctx).q.saving = some v.id ∧
            ⟨v.header + 1, phCtx, core, ctx, 0, .contextSaveComplete core ctx v.id, CtlAcc.reset⟩ ∈ u.cal)) ∧
    ∀ id : Nat, (s.core core).gated = false → (s.ctx core ctx).q.saving = some id → s.task? (s.ctx core ctx).q.task = some t →
      Happens (.contextSaveComplete core ctx id) s fun u => s.SameMem u ∧ (u.ctx core ctx).q.st = .free ∧
        s.SameOthers u core ctx ∧ ((s.core core).arr.owner = some ctx → (u.core core).arr.owner = none) ∧
        u.task? t.id = some { t with parked := t.parked ++ [core] }) ∧
  ((∀ (s : State) (q : SQ) (id n : Nat) (t : Task), q.en = true → q.back.head? = some id → s.task? id = some t → n < 512 →
    q.mask.getLsbD n = true → s.holdsCore q.part n = false ∨ s.svcDies.testBit (n / 64) = false → s.head q = .err 2) ∧
  ∀ (s : State) (i id x : Nat) (q : SQ) (t : Task) (recs : List ((Nat × Nat) × Rec)) (itb : List ITEnt), q = s.queue i →
    s.head q = .ready true → q.back.head? = some id → s.task? id = some t → t.live.Nodup →
    recs = (t.live.filterMap fun p => (s.resumeRec t p).map fun r => (p, r)) → recs.length = t.live.length →
    s.itb t.part (kdIpva t.kdesc.toNat) (kdNipg t.kdesc.toNat + 1) = some itb →
    x = s.cyc + 53 + (recs.map fun r => restoreTime t r.2).foldl max 0 →
    let resumes (u : State) : Prop := (∃ w, u.task? id = some w ∧ w.st = .running ∧ w.pre = none ∧ w.parked = [] ∧ w.key = none ∧
        w.dark = [] ∧ w.place = t.place ∧ w.halted = t.halted) ∧
      (u.queue i).back = q.back.filter (· ≠ t.id) ∧ ∀ p r v y, (p, r) ∈ recs → r.pay = some v → y = u.ctx p.1 p.2 →
        Ctx.SameRegs v.ctx y ∧ y.g = v.ctx.g ∧ y.ar = v.ctx.ar ∧
        y.q.pc = v.resume ∧ y.q.at_ = x ∧ y.q.base = x - r.srel ∧ y.q.scn = v.ctx.q.scn ∧ y.q.sup = false ∧ y.q.task = t.id ∧
        (v.ctx.q.parked = true → y.q.st = .stopped) ∧ (v.ctx.q.parked = false → y.q.st = .holder ∨ y.q.st = .ready)
    (t.st = .saved → Happens (.taskLaunch i) s resumes) ∧ (t.st = .lost → Happens (.recoveryResume i) s resumes))

/-- A GNODE write starts a graph that is not running, and is an error of one that is. Its nodes execute 641 cycles apart: a
LAUNCH writes the template, with its TASKID and its four dependencies counted back from it, as the next task of its queue and
rings its doorbell, a WAIT goes on once its task is complete, a COND branches on its word, an END posts its vector and is done
(R284, R285). An HRCFG write sets the ring's size, enable and vector, and clears HRTAIL and the position table where it sets EN;
an HRHEAD write moves the head, and both let contexts blocked on the ring try again in the next cycle (R286, R287). Points that
the spec leaves to a reading stand as the model’s log entries 42 and 50 say. -/
def Obligations.GraphsAndRingRegisters : Prop :=
  (∀ (s : State) (p v : Nat) (g : Graph), g = s.graph p → p < 16 →
    (s.cw.off = 0x200 + 16 * p →
      (g.st ≠ 1 → Happens .gnodeWrite s fun t => s.SameMem t ∧ s.SameCtxs t ∧ t.graph p = { g with
        base := s.cw.val / 64 * 64, st := 1, node := 0, err := 0, next := 0, due := s.cyc + 641, last := [], ended := [], taken := [] }) ∧
      (g.st = 1 → Happens .gnodeWrite s fun t => s.SameMem t ∧ s.SameCtxs t ∧ t.graph p = { g with err := 1 })) ∧
    (s.nodeDue p = some v → s.graphReach p (g.base + 64 * g.next) 64 = true → nodeBad v = false → g.next < 4095 →
      (∀ i q, nodeKind v = 1 → i = bits v 135 128 → q = s.queue i → s.Inv → s.graphReach p (nodeAddr v) 64 = true → q.part = p →
        regionOf (q.place q.tail) ≠ .unmapped → q.ahead q.tail < 2 ^ q.size → q.head < 2 ^ 32 → g.gtid < 2 ^ 24 →
        Happens (.graphLaunch p) s fun t => s.SameCtxs t ∧ (t.queue i).tail = (q.tail + 1) % 2 ^ 32 ∧ t.tags = s.tags ∧
          (0 < q.ahead ((q.tail + 1) % 2 ^ 32) → ∃ b ∈ (t.queue i).bells, b.1 = (q.tail + 1) % 2 ^ 32) ∧
          (t.graph p).node = g.next ∧ (t.graph p).next = g.next + 1 ∧ (t.graph p).due = s.cyc + 641 ∧ (t.graph p).gtid = (g.gtid + 1) % 2 ^ 24 ∧
          aget (t.graph p).last g.next = some g.gtid ∧ ∃ d, s.Wrote t (q.place q.tail) 64 d ∧ descId d = g.gtid ∧
            descKdesc d = descKdesc (s.load (nodeAddr v) 64) ∧
            (∀ j < 4, descArg d j = descArg (s.load (nodeAddr v) 64) j) ∧
            ∀ j < 4, descDep d j = (g.gtid + 2 ^ 24 - descDep (s.load (nodeAddr v) 64) j) % 2 ^ 24) ∧
      (nodeKind v = 2 →
        (∀ tid, aget g.last (bits v 75 64) = some tid → tid ∈ g.ended → Happens (.graphWait p) s fun t => s.SameMem t ∧
          s.SameCtxs t ∧ t.graph p = { g with node := g.next, next := g.next + 1, due := s.cyc + 641 }) ∧
        (∀ tid, aget g.last (bits v 75 64) = some tid → tid ∉ g.ended → Happens (.graphWait p) s fun t => s.SameMem t ∧
          s.SameCtxs t ∧ t.graph p = { g with node := g.next, due := s.cyc + 1 }) ∧
        (aget g.last (bits v 75 64) = none → Happens (.graphWait p) s fun t => s.SameMem t ∧ s.SameCtxs t ∧
          t.graph p = { g with node := g.next, st := 3, err := 2, due := 0 })) ∧
      (∀ holds : Bool, nodeKind v = 3 → s.graphReach p (nodeAddr v) 8 = true →
        holds = (if bits v 323 320 = 0 then decide (s.load (nodeAddr v) 8 &&& bits v 255 192 = bits v 319 256)
          else decide (s.load (nodeAddr v) 8 &&& bits v 255 192 ≠ bits v 319 256)) →
        (holds = true → bits v 351 336 = 0 ∨ agetD g.taken g.next 0 < bits v 351 336 → Happens (.graphCond p) s fun t =>
          s.SameMem t ∧ s.SameCtxs t ∧ t.graph p = { g with
            taken := aset g.taken g.next (agetD g.taken g.next 0 + 1), node := g.next, next := bits v 335 324, due := s.cyc + 641 }) ∧
        (holds = false ∨ (bits v 351 336 ≠ 0 ∧ bits v 351 336 ≤ agetD g.taken g.next 0) → Happens (.graphCond p) s fun t =>
          s.SameMem t ∧ s.SameCtxs t ∧ t.graph p = { g with node := g.next, next := g.next + 1, due := s.cyc + 641 })) ∧
      (nodeKind v = 0 → Happens (.graphEnd p) s fun t => s.SameMem t ∧ s.SameCtxs t ∧ t.graph p = { g with node := g.next, st := 2, due := 0 } ∧
        t.out = s.out ++ [⟨s.cyc, [s.cyc, 0, 3, 0], 0, none, .msix (bits v 74 64)⟩])) ∧
    ∀ w, s.nodeDue p = some w → nodeKind w = 1 → s.graphReach p (g.base + 64 * g.next) 64 = false →
      Happens (.graphLaunch p) s fun t => s.SameMem t ∧ s.SameCtxs t ∧ t.graph p = { g with node := g.next, st := 3, err := 3, due := 0 }) ∧
  (∀ (s : State) (p : Nat) (r : HRing), r = s.hring p → p < 16 →
    (s.cw.off = 0x408 + 64 * p → ∀ size vec : Nat, ∀ en : Bool, size < 16 → vec < 2048 →
      s.cw.val = size + en.toNat * 16 + vec * 32 →
      Happens .hrcfgWrite s fun t => s.SameMem t ∧ s.SameCtxs t ∧ (t.hring p).size = size ∧ (t.hring p).vec = vec ∧
        (t.hring p).en = (en && decide (size ≠ 0)) ∧ (t.hring p).base = r.base ∧ (t.hring p).head = r.head ∧
        (en = true → size ≠ 0 → r.en = false → (t.hring p).tail = 0 ∧ (t.hring p).pos = []) ∧
        (en = false ∨ size = 0 ∨ r.en = true → (t.hring p).tail = r.tail ∧ (t.hring p).pos = r.pos) ∧
        (en = true → size ≠ 0 → ∀ c ∈ s.cores, ∀ x ∈ c.2.ctxs, (∃ b, x.2.q.block = some b ∧ b.kind = .hring p) →
          ⟨s.cyc + 1, phQueue, 3000, c.1, x.1, .blockRelease c.1 x.1, CtlAcc.reset⟩ ∈ t.cal)) ∧
    (s.cw.off = 0x418 + 64 * p → Happens .hrheadWrite s fun t => s.SameMem t ∧ s.SameCtxs t ∧
      t.hring p = { r with head := s.cw.val % 2 ^ 32 } ∧
      ∀ c ∈ s.cores, ∀ x ∈ c.2.ctxs, (∃ b, x.2.q.block = some b ∧ b.kind = .hring p) →
        ⟨s.cyc + 1, phQueue, 3000, c.1, x.1, .blockRelease c.1 x.1, CtlAcc.reset⟩ ∈ t.cal))

/-- Of the host, or of a supervisor with the right to the register: a QTAIL write rings its queue unless it overruns the ring,
which is queue error 4; a QCFG write configures a queue that is not enabled, may only clear EN of one that is, any other change
being queue error 5 (R108, Tables 04-7, 04-8). Writes of the other control registers: a partition's pre-emption bound; by the
host a partition's tables, supervisor vector and error register and the power cap; by whoever has the right, the host or a
supervisor of the partition, a queue's base, a ring's base, a graph's task number; a supervisor's write to another partition's
register sets PERR, and read-only registers keep their value; the host reads a register through its control BAR (R305, R349,
R352, R108, R284, R286, Tables 17-1, 17-8). PWR, the measured power, is set by the package itself, as writer 17 of the model.
Written by the host, PKGNUM changes while no partition is enabled, and QRST loses the bits written as 1 (R349). Points that the
spec leaves to a reading stand as the model’s log entries 15, 23, 47 and 57 say. -/
def Obligations.RegistersAreWritten : Prop :=
  (∀ (s : State) (i v : Nat) (q : SQ), q = s.queue i → i < 256 → v = s.cw.val →
    s.cw.who = 16 ∨ (s.cw.who < 16 ∧ s.ctlRight s.cw.who s.cw.off true = true) →
    (s.cw.off = 0x10018 + 256 * i → v < 2 ^ 32 →
      (q.ahead v ≤ 2 ^ q.size → Happens .qtailDoorbell s fun t => s.SameMem t ∧ s.SameCtxs t ∧ (t.queue i).tail = v ∧
        (t.queue i).head = q.head ∧ (t.queue i).err = q.err ∧ (t.queue i).en = q.en ∧
        (0 < q.ahead v → ∃ b ∈ (t.queue i).bells, b.1 = v)) ∧
      (2 ^ q.size < q.ahead v → Happens .qtailDoorbell s fun t => s.SameMem t ∧ s.SameCtxs t ∧
        t.queue i = { q with err := true, code := 4, en := false, since := none })) ∧
    (s.cw.off = 0x10000 + 256 * i → ∀ part, part = (if s.cw.who < 16 then q.part else bits v 7 4) →
      (q.en = false → Happens .qcfgWrite s fun t => s.SameMem t ∧ s.SameCtxs t ∧ (t.queue i).prio = v % 8 ∧
        (t.queue i).eprio = v % 8 ∧ (t.queue i).part = part ∧ (t.queue i).size = bits v 11 8 ∧
        (t.queue i).en = (v.testBit 3 && decide (bits v 11 8 ≠ 0)) ∧ (t.queue i).head = q.head ∧ (t.queue i).tail = q.tail ∧
        (v.testBit 3 = true → bits v 11 8 ≠ 0 → (t.queue i).err = false ∧ (t.queue i).code = 0)) ∧
      (q.en = true → v % 8 = q.prio → part = q.part → bits v 11 8 = q.size → Happens .qcfgWrite s fun t => s.SameMem t ∧
        s.SameCtxs t ∧ (t.queue i).en = (v.testBit 3 && decide (bits v 11 8 ≠ 0)) ∧ (t.queue i).prio = q.prio ∧
        (t.queue i).part = q.part ∧ (t.queue i).size = q.size) ∧
      (q.en = true → v % 8 ≠ q.prio ∨ part ≠ q.part ∨ bits v 11 8 ≠ q.size → Happens .qcfgWrite s fun t => s.SameMem t ∧
        s.SameCtxs t ∧ t.queue i = { q with err := true, code := 5, en := false, since := none }))) ∧
  (∀ (s : State) (v p : Nat), v = s.cw.val → v < 2 ^ 64 → p < 16 →
    let puts (off x : Nat) : Prop := Happens .controlRegisterWrite s fun t => s.SameMem t ∧ s.SameCtxs t ∧
      t.ctl = aset s.ctl off (BitVec.ofNat 64 x)
    let may : Prop := s.cw.who = 16 ∨ (s.cw.who < 16 ∧ s.ctlRight s.cw.who s.cw.off true = true)
    (s.cw.who ≤ 16 → s.cw.wr = true →
      (s.cw.off = 0x180 + 8 * p → s.cw.who = p ∨ s.cw.who = 16 → puts (0x180 + 8 * p) v) ∧
      (s.cw.off = 0x180 + 8 * p → s.cw.who < 16 → s.cw.who ≠ p → puts (offPart s.cw.who + 0x1F8) (5 + s.cw.off * 16)) ∧
      (s.cw.off = offPart p + 0x150 → s.cw.who = 16 → puts (offPart p + 0x150) (v / 32 * 32)) ∧
      (s.cw.off = offPart p + 0x140 → s.cw.who = 16 → puts (offPart p + 0x140) (v % 2 ^ 24 / 16 * 16 + bits v 41 32 * 2 ^ 32)) ∧
      (s.cw.off = offPart p + 0x148 → s.cw.who = 16 → puts (offPart p + 0x148) (v % 2 ^ 24 / 8 * 8 + bits v 40 32 * 2 ^ 32)) ∧
      (s.cw.off = offPart p + 0x1F8 → s.cw.who = 16 → puts (offPart p + 0x1F8) (v % 2 ^ 28)) ∧
      (s.cw.off = offMgmt + 0x10 → s.cw.who = 16 → puts (offMgmt + 0x10) (v % 2 ^ 16)) ∧
      (s.cw.off = offMgmt + 8 → exec .controlRegisterWrite s = .next s) ∧
      (∀ i < 256, s.cw.off = 0x10008 + 256 * i → may → (s.queue i).en = false → Happens .controlRegisterWrite s fun t => s.SameMem t ∧
        s.SameCtxs t ∧ t.queue i = { s.queue i with base := v / 64 * 64 }) ∧
      (s.cw.off = 0x400 + 64 * p → may → Happens .controlRegisterWrite s fun t => s.SameMem t ∧ s.SameCtxs t ∧
        t.hring p = { s.hring p with base := v / 32 * 32 }) ∧
      (s.cw.off = 0x208 + 16 * p → may → (s.graph p).st ≠ 1 → Happens .controlRegisterWrite s fun t => s.SameMem t ∧ s.SameCtxs t ∧
        t.graph p = { s.graph p with gtid := v % 2 ^ 24 })) ∧
    (s.cw.who = 17 → s.cw.off = offMgmt + 8 → puts (offMgmt + 8) (v % 2 ^ 16)) ∧
    (∀ y, s.cw.who = 16 → s.cw.wr = false → s.cw.off = offPart p + 0x150 → s.cw.len = 8 → s.ctlRead 16 s.cw.off = some y → y < 2 ^ 64 →
      exec .controlRegisterWrite s = .next { s with readVal := y })) ∧
  (∀ (s : State), s.cw.who = 16 →
    (s.cw.off = offMgmt → (∀ p < 16, (s.pcfg p).testBit 0 = false) → Happens .pkgnumWrite s fun t => s.SameMem t ∧ s.SameCtxs t ∧
      t.ctl = aset s.ctl offMgmt (BitVec.ofNat 64 (s.cw.val % 2 ^ 20))) ∧
    (∀ p, p < 16 → (s.pcfg p).testBit 0 = true → exec .pkgnumWrite s = .next s) ∧
    ∀ d, d < 8 → s.cw.off = offMgmt + 0x80 + 8 * d → s.cw.val < 2 ^ 64 → Happens .qrstClear s fun t => s.SameMem t ∧ s.SameCtxs t ∧
      ∀ b, b < 64 → (t.reg s.cw.off).testBit b = ((s.reg s.cw.off).testBit b && !s.cw.val.testBit b))

/-- A holdings write grants the units it sets where none has too many holders, each then zeroed, a queue empty from the grant
on, and revokes those it clears where nothing uses them; otherwise it is discarded with PERR 4 or 1. A PCFG write that changes
OWNER needs a partition without tasks, zeroes all its units and leaves nothing in the partition's name, nor any copy, atomic,
request or store of it on its way, nor a lazy store that aims at one of its ring stores (that its completion table is empty, and
that this work is gone, are the model's choices); where a grant has a zeroing of a unit still to come, that one stands, and only
its end makes the unit usable; zeroing ends with the unit's bytes 0, without tags or poison, the records and the flush mirror of
a core unit gone, and a queue unit and its shadow empty, but for entries on their way, with the contexts blocked on it trying
again (R296, R297, R298, R299, R300). Points that the spec leaves to a reading stand as the model’s log entries 4, 22 and 126
say. -/
def Obligations.UnitsAreGranted : Prop :=
  (∀ (s : State) (h : Holding), s.holding = some h →
    (s.holdingErr h = none →
      (Happens .partitionGrant s fun t => s.SameMem t ∧ s.SameCtxs t ∧
        t.ctl = aset s.ctl s.cw.off (BitVec.ofNat 64 (s.reg s.cw.off ||| s.cw.val)) ∧
        ∀ i ∈ h.more, s.holders h.unit i = [] → ∃ z ∈ t.zero, z.unit = h.unit ∧ z.idx = i ∧ s.cyc ≤ z.from_ ∧
          z.till = z.from_ + zeroTime h.unit ∧ ⟨z.till, 0, h.unit, i, 0, .zeroingEnd h.unit i, CtlAcc.reset⟩ ∈ t.cal ∧
          (h.unit = 2 → (t.tq i).ents = [] ∧ (t.tq i).hold = [] ∧ (t.tq i).sent = (s.tq i).sent)) ∧
      Happens .partitionRevoke s fun t => s.SameMem t ∧ s.SameCtxs t ∧
        t.ctl = aset s.ctl s.cw.off (BitVec.ofNat 64 (s.reg s.cw.off &&& s.cw.val)) ∧
        ∀ i ∈ h.less, aget t.revoked (1024 * h.unit + i) = some s.cyc) ∧
    ∀ e, s.holdingErr h = some e → ∀ i ∈ [Instr.partitionGrant, .partitionRevoke], Happens i s fun t => s.SameMem t ∧ s.SameCtxs t ∧
      t.ctl = aset s.ctl (offPart h.p + 0x1F8) (BitVec.ofNat 64 (e + s.cw.off * 16))) ∧
  (∀ (s : State) (p : Nat), p < 16 → s.cw.off = offPart p → bits s.cw.val 23 8 = bits (s.reg s.cw.off) 23 8 →
    ∀ i ∈ [Instr.ownerChange, .controlRegisterWrite], s.cw.who = 16 → s.cw.wr = true → s.cw.val < 2 ^ 64 → Happens i s fun t =>
      s.SameMem t ∧ s.SameCtxs t ∧ t.zero = s.zero ∧ t.ctl = aset s.ctl s.cw.off (BitVec.ofNat 64 (pcfgBits s.cw.val))) ∧
  (∀ (s : State) (p : Nat), p < 16 → s.cw.off = offPart p → bits s.cw.val 23 8 ≠ bits (s.reg s.cw.off) 23 8 →
    ((∃ t ∈ s.tasks, t.part = p) → Happens .ownerChange s fun t => s.SameMem t ∧ s.SameCtxs t ∧
      t.ctl = aset s.ctl (offPart p + 0x1F8) (BitVec.ofNat 64 (3 + s.cw.off * 16))) ∧
    ((∀ t ∈ s.tasks, t.part ≠ p) → Happens .ownerChange s fun t => s.SameMem t ∧ s.SameCtxs t ∧
      t.ctl = aset s.ctl (offPart p) (BitVec.ofNat 64 (pcfgBits s.cw.val)) ∧
      (∀ n < 512, s.holdsCore p n = true → t.zeroing 0 n = true) ∧ (∀ n < 512, s.holdsStore p n = true → t.zeroing 1 n = true) ∧
      (∀ n < 512, s.holdsTq p n = true → t.zeroing 2 n = true) ∧ (∀ c ∈ t.comp, c.1 / 4096 ≠ p) ∧
      (∀ e ∈ t.ext, e.1 / 4096 ≠ p) ∧ (∀ b ∈ t.bars, b.1 / (8 * 1024 * 16) ≠ p) ∧ (∀ c ∈ t.combs, c.1 / (16 * 2 ^ 32) ≠ p) ∧
      (∀ d : Nat, ∀ e ∈ (t.die d).slots, e.2.part ≠ p) ∧
      (∀ n : Nat, (∀ e ∈ (t.core n).copies, e.part ≠ p) ∧ (∀ e ∈ (t.core n).atoms, e.part ≠ p) ∧ (∀ e ∈ (t.core n).jobs, e.part ≠ p) ∧
        (∀ e ∈ (t.core n).stores, e.part ≠ p) ∧
        ∀ e ∈ (t.core n).lazy, ∀ j, regionOf (64 * e.gran) = .ring j → s.holdsStore p j = false) ∧
      ∀ z ∈ s.zero, z.unit < 3 → z.idx < 512 → s.holdsUnit p z.unit z.idx = true → s.cyc < z.from_ →
        ∃ y ∈ t.zero, y.unit = z.unit ∧ y.idx = z.idx ∧ s.cyc < y.from_ ∧ y.till = y.from_ + zeroTime z.unit)) ∧
  (∀ (s : State) (unit idx a n : Nat), s.Inv → unit < 3 → (a, n) = unitRange unit idx → s.zeroing unit idx = true →
    (∀ z ∈ s.zero, z.unit = unit → z.idx = idx → s.cyc < z.till) → Happens (.zeroingEnd unit idx) s fun t =>
      t.zero = s.zero ∧ s.SameBut t a n ∧ ∀ b, a ≤ b → b < a + n → memByte t.mem b = 0) ∧
  ∀ (s : State) (unit idx a n : Nat) (z : Zeroing), s.Inv → unit < 3 → (a, n) = unitRange unit idx → z ∈ s.zero → z.unit = unit →
    z.idx = idx → z.till = s.cyc → Happens (.zeroingEnd unit idx) s fun t => t.zeroing unit idx = false ∧ s.SameBut t a n ∧
      (∀ b, a ≤ b → b < a + n → memByte t.mem b = 0) ∧ (∀ g, a / 64 ≤ g → g < (a + n) / 64 → g ∉ t.pois ∧ ∀ y ∈ t.tags, y.1 ≠ g) ∧
      (∀ g, g < a / 64 ∨ (a + n) / 64 ≤ g → (g ∈ t.pois ↔ g ∈ s.pois)) ∧ (unit = 1 → s.SameCtxs t) ∧
      (unit = 0 → (∀ k, t.ctx idx k = Ctx.reset) ∧ (t.core idx).neg.recs = [] ∧ (t.core idx).neg.mirror = []) ∧
      (unit = 2 → t.tq idx = { Tq.reset with sent := (s.tq idx).sent } ∧ (t.core idx).neg.qrecs = [] ∧ (∀ m k, Ctx.SameRegs (s.ctx m k) (t.ctx m k)) ∧
        ∀ c ∈ s.cores, ∀ x ∈ c.2.ctxs, (∃ b, x.2.q.block = some b ∧ (b.kind = .send idx ∨ b.kind = .recv idx)) →
          (t.ctx c.1 x.1).q.block = none)

/-- A mirror write reaches the page tables of every die unless a bound window pins the entry, and of an entry of a table the
reserved bits, [127:117] of a data entry and [63:50] of an instruction entry, stay 0; an expert slot is written by the host, and
by a supervisor where the slot is its own or empty; each discarded write sets PERR (R6, R306, R308, R201, Table 17-8). The
eighth word of an EXT write, of the host or of a context of the partition's supervisor, whose words are kept apart, extends the
partition's measurement with SHA-512 of it and the digest; QREQ starts a quote over the nonce, the firmware digest, the
measurement, the owner and the partition, whose signature appears in QSIG when it completes (R315, R317). Points that the spec
leaves to a reading stand as the model’s log entries 23 and 52 say. -/
def Obligations.TablesAndMeasurements : Prop :=
  (∀ (s : State),
    (∀ o, o < 0x100000 → s.cw.off = offMirror + o →
      (s.pinned s.cw.off s.cw.val = none → Happens .mirrorWrite s fun t => s.SameMem t ∧ s.SameCtxs t ∧
        t.ctl = aset s.ctl s.cw.off (BitVec.ofNat 64 (s.cw.val &&& s.tableBits s.cw.off))) ∧
      ∀ p, s.pinned s.cw.off s.cw.val = some p → Happens .mirrorWrite s fun t => s.SameMem t ∧ s.SameCtxs t ∧
        t.ctl = aset s.ctl (offPart p + 0x1F8) (BitVec.ofNat 64 (2 + s.cw.off * 16))) ∧
    (∀ o : Nat,
      let data (p : Nat) : Bool := inRange o (s.reg (offPart p + 0x140) % 2 ^ 24) (16 * bits (s.reg (offPart p + 0x140)) 41 32)
      let inst (p : Nat) : Bool := inRange o (s.reg (offPart p + 0x148) % 2 ^ 24) (8 * bits (s.reg (offPart p + 0x148)) 40 32)
      ((∀ p < 16, data p = false ∧ inst p = false) → s.tableBits o = 2 ^ 64 - 1) ∧
      (∀ p < 16, data p = true → (∀ q < 16, inst q = false) → s.tableBits o = if o % 16 = 8 then 2 ^ 53 - 1 else 2 ^ 64 - 1) ∧
      ∀ p < 16, inst p = true → (∀ q < 16, data q = false) → s.tableBits o = 2 ^ 50 - 1) ∧
    ∀ (d k : Nat) (e : Slot), d < 8 → k < 256 → s.cw.off = offSlot + 0x800 * d + 8 * k → e = agetD (s.die d).slots k Slot.reset →
      (16 ≤ s.cw.who ∨ e.part = s.cw.who ∨ (e.expert = 0xFFFFFFFF ∧ e.refs = 0) → Happens .expertSlotWrite s fun t => s.SameMem t ∧
        s.SameCtxs t ∧ agetD (t.die d).slots k Slot.reset =
          ⟨BitVec.ofNat 32 s.cw.val, s.cw.val / 2 ^ 32 % 256, s.cw.val.testBit 40, s.cw.val / 2 ^ 41 % 16⟩ ∧
        ∀ j, j ≠ k → agetD (t.die d).slots j Slot.reset = agetD (s.die d).slots j Slot.reset) ∧
      (s.cw.who < 16 → e.part ≠ s.cw.who → ¬ (e.expert = 0xFFFFFFFF ∧ e.refs = 0) → Happens .expertSlotWrite s fun t =>
        s.SameMem t ∧ s.SameCtxs t ∧ t.ctl = aset s.ctl (offPart s.cw.who + 0x1F8) (BitVec.ofNat 64 (5 + s.cw.off * 16)))) ∧
  (∀ (s : State) (p a : Nat), p < 16 → a = 4096 * p + (if s.cw.who < 16 then s.cw.src else 2048) →
    (∀ j, j < 7 → s.cw.off = offAtt + 0x500 + 64 * p + 8 * j → Happens .extWrite s fun t => s.SameMem t ∧ s.SameCtxs t ∧
      t.meas = s.meas ∧ agetD t.ext a 0 = BitVec.ofNat 512 (setWord (agetD s.ext a 0).toNat j s.cw.val) ∧
      ∀ b, b ≠ a → aget t.ext b = aget s.ext b) ∧
    (s.cw.off = offAtt + 0x500 + 64 * p + 56 → ∀ h, h = setWord (agetD s.ext a 0).toNat 7 s.cw.val →
      Happens .extWrite s fun t => s.SameMem t ∧ s.SameCtxs t ∧ aget t.ext a = none ∧ aget t.meas p = some (BitVec.ofNat 512
        (ofBytes (sha512 (bytesOf 64 (agetD s.meas p 0).toNat ++ bytesOf 64 h))))) ∧
    (s.cw.off = offAtt + 0x60 → s.cw.val = p → s.quote = none → Happens .qreqWrite s fun t => s.SameMem t ∧ s.SameCtxs t ∧
      t.reg (offAtt + 0x60) = p ∧ t.reg (offAtt + 0xC0) = 1 ∧
      t.quote = some (quoteSignature (BitVec.ofNat 2048 (s.quoteMessage p))) ∧
      ∃ e ∈ t.cal, e.ev = .quoteComplete ∧ s.cyc < e.at_ ∧ e.at_ ≤ s.cyc + 2 ^ 20) ∧
    (s.quote.isSome = true → exec .qreqWrite s = .next s) ∧
    ∀ sig, s.quote = some sig → Happens .quoteComplete s fun t => s.SameMem t ∧ s.SameCtxs t ∧ t.quote = none ∧
      t.reg (offAtt + 0xC0) = 0 ∧ ∀ j < 8, t.reg (offAtt + 0x80 + 8 * j) = sig.toNat / 2 ^ (64 * j) % 2 ^ 64)

/-- DBGCTL writes set ATTACH, CORE and CTX, and with RESUME make a Stopped context of an attached partition Ready, its stop
record zero again; DBGSTOP asks for a stop, made at the context's slate with its stop record. The image words and the scratchpad
aperture of a Stopped context are written, and read, where the partition is attached, the word of a scalar register being the
whole of it, which clears its poison, but for the areas of ports, handles and windows, which only read; an access that is not an
aligned one of 8 bytes counts in HLERR (R325, R360). A TKILL write ends the task it names: its contexts are Free with nothing
left, its banks and its place in the queue are given up, and it completes in the next cycle; with no such task nothing happens
(R326). A package reset whose boot firmware passes its check starts the clock at 0 in reduced service with those of the first
two dies that train; one whose firmware fails stays in reset; every context is Free and memory 0, while each core's negative
keeps what it held. The change to full service, with the dies that train, waits until every context is Free (R342, R356). Points
that the spec leaves to a reading stand as the model’s log entries 21, 55, 56, 58, 98, 101 and 125 say. -/
def Obligations.DebugKillReset : Prop :=
  (∀ (s : State), s.Inv →
    (∀ p, p < 16 → s.cw.off = 0xB000 + 8 * p →
      (Happens .debugAttach s fun t => s.SameMem t ∧ s.SameCtxs t ∧ t.ctl = aset s.ctl s.cw.off (BitVec.ofNat 64 (s.cw.val % 2 + bits s.cw.val 19 8 * 2 ^ 8))) ∧
      ∀ n k, n < 512 → k < 4 → s.cw.val = 3 + n * 2 ^ 8 + k * 2 ^ 18 → s.attached p = true → (s.ctx n k).q.st = .stopped →
        (s.ctx n k).q.part = p → (s.ctx n k).q.saving = none → Happens .debugResume s fun t => s.SameMem t ∧ s.SameOthers t n k ∧
          t.ctx n k = { s.ctx n k with
            q := { (s.ctx n k).q with st := .ready, slip := true, parked := false }
            tr := { (s.ctx n k).tr with stopCause := 0, stopPc := 0, stopFpc := 0, stopInfo0 := 0, stopInfo1 := 0 } }) ∧
    (s.cw.off = offDbg + 0x10 → s.cw.len = 8 → s.cw.val.testBit 0 = true → s.dbgX.q.st ≠ .free → s.attached s.dbgX.q.part = true →
      Happens .dbgstopWrite s fun t => s.SameMem t ∧ s.SameOthers t s.dbgCore s.dbgCtx ∧
        t.ctx s.dbgCore s.dbgCtx = { s.dbgX with q := { s.dbgX.q with dbg := true } }) ∧
    (∀ core ctx x at_, x = s.ctx core ctx → x.q.block = none → (∀ b, x.brd = some b → b.taken = some true → at_ = b.target) →
      ((∀ b, x.brd = some b → b.taken ≠ some true) → at_ = x.q.pc) → x.q.st = .holder → x.q.dbg = true → s.attached x.q.part = true → phIssue ≤ s.ph →
      Happens (.debugStop core ctx) s fun t => s.SameMem t ∧ s.SameOthers t core ctx ∧ ∀ y, y = t.ctx core ctx →
        y.q.st = .stopped ∧ y.q.dbg = false ∧ y.s = x.s ∧ y.v = x.v ∧ y.m = x.m ∧ y.tr = { x.tr with
          stopCause := BitVec.ofNat 64 (0x0E + 2 * 2 ^ 8 + x.q.sup.toNat * 2 ^ 24),
          stopPc := BitVec.ofNat 64 (at_ / 32 * 32), stopFpc := BitVec.ofNat 64 (x.q.pc / 32 * 32), stopInfo0 := 0,
          stopInfo1 := 0 }) ∧
    (∀ o, o < 0xA000 → s.cw.off = offDbg + 0x2000 + o →
      (o % 8 ≠ 0 ∨ s.cw.len ≠ 8 → Happens .debugImageWrite s fun t => s.SameMem t ∧ s.SameCtxs t ∧ (s.cw.wr = false → t.readVal = 0) ∧
        t.ctl = aset s.ctl (offMgmt + 0xC0) (BitVec.ofNat 64 ((s.reg (offMgmt + 0xC0) + 1) % 2 ^ 32))) ∧
      (o % 8 = 0 → s.cw.len = 8 → s.cw.wr = false → Happens .debugImageWrite s fun t => s.SameMem t ∧ s.SameCtxs t ∧
        t.readVal = (if s.imageOk then s.dbgX.imageWord o else 0) % 2 ^ 64) ∧
      (o % 8 = 0 → s.cw.len = 8 → s.cw.wr = true → s.imageOk = true → s.cw.val < 2 ^ 64 → Happens .debugImageWrite s fun t => s.SameMem t ∧
        s.SameOthers t s.dbgCore s.dbgCtx ∧
        (o < 0x200 → (t.ctx s.dbgCore s.dbgCtx).isPoisoned .s (o / 8) = false) ∧
        (o < 0x200 → 0 < o → (t.ctx s.dbgCore s.dbgCtx).takes .s (o / 8) = oneTake (BitVec.ofNat 2048
          (setWord (s.dbgX.regVal .s (o / 8)) 0 s.cw.val))) ∧
        (0x800 ≤ o → o < 0x1800 → t.ctx s.dbgCore s.dbgCtx = s.dbgX) ∧
        (0x2000 ≤ o → (t.ctx s.dbgCore s.dbgCtx).takes .v ((o - 0x2000) / 256) = oneTake (BitVec.ofNat 2048
          (setWord (s.dbgX.regVal .v ((o - 0x2000) / 256)) (o % 256 / 8) s.cw.val)))) ∧
      (o % 8 = 0 → s.cw.len = 8 → s.cw.wr = true → s.imageOk = false → exec .debugImageWrite s = .next s)) ∧
    (∀ o, o < 0x10000 → o % 8 = 0 → s.cw.len = 8 → s.cw.off = offDbg + 0x10000 + o →
      (s.cw.wr = true → s.apertureOk = true → Happens .debugApertureAccess s fun t => s.SameCtxs t ∧
        s.Wrote t (s.apertureAddr o) 8 (s.cw.val % 2 ^ 64)) ∧
      (s.cw.wr = true → s.apertureOk = false → exec .debugApertureAccess s = .next s) ∧
      (s.cw.wr = false → Happens .debugApertureAccess s fun t => s.SameMem t ∧ s.SameCtxs t ∧
        t.readVal = (if s.apertureOk = true then s.load (s.apertureAddr o) 8 else 0)))) ∧
  (∀ (s : State) (p tid : Nat), p < 16 → tid < 2 ^ 24 → s.cw.off = 0xB100 + 8 * p → s.cw.val = tid →
    (∀ t, s.tasks.find? (fun t => t.part = p && t.taskid = tid && t.st ≠ .killed) = some t → Happens .tkill s fun u => s.SameMem u ∧
      (∀ c ∈ t.place, (s.ctx c.1 c.2).q.task = t.id → Ctx.SameRegs Ctx.reset (u.ctx c.1 c.2) ∧
        (t.place = [c] → u.ctx c.1 c.2 = Ctx.reset)) ∧
      (∀ n k, (n, k) ∉ t.place → (u.ctx n k).s = (s.ctx n k).s ∧ (u.ctx n k).v = (s.ctx n k).v ∧ (u.ctx n k).m = (s.ctx n k).m) ∧
      (∀ b ∈ u.banks, b.2 ≠ t.id) ∧ (u.queue t.q).back = (s.queue t.q).back.filter (· ≠ t.id) ∧ (∀ x ∈ u.tasks, x.id = t.id → x.st = .killed) ∧
      ⟨s.cyc + 1, phSched, 0, 0, t.id, .taskComplete t.id, CtlAcc.reset⟩ ∈ u.cal) ∧
    (s.tasks.find? (fun t => t.part = p && t.taskid = tid && t.st ≠ .killed) = none → exec .tkill s = .next s)) ∧
  ((∀ s : State, Happens .packageReset s fun t => t.cyc = 0 ∧ t.mem = [] ∧ t.svcMode = s.bootOk.toNat ∧
      (∀ d, t.svcDies.testBit d = (s.bootOk && decide (d < 2) && Config.dieTrains d)) ∧
      t.negReady = (s.bootOk && decide (Config.negReadyAt ≤ 0)) ∧ (∀ n k, t.ctx n k = Ctx.reset) ∧ (∀ n, (t.core n).neg = (s.core n).neg) ∧
      ∀ x ∈ t.tasks, x.st = .lost) ∧
  ∀ s : State,
    (s.svcMode ≠ 1 ∨ (∃ c ∈ s.cores, ∃ x ∈ c.2.ctxs, x.2.q.st ≠ .free) → exec .fullServiceChange s = .next s) ∧
    (s.svcMode = 1 → (∀ c ∈ s.cores, ∀ x ∈ c.2.ctxs, x.2.q.st = .free) → Happens .fullServiceChange s fun t => s.SameMem t ∧
      t.svcMode = 2 ∧ (∀ d, t.svcDies.testBit d = (decide (d < 8) && Config.dieTrains d)) ∧ t.negReady = true ∧ t.lpReady = true))

/-- A sensor that reads the trip temperature takes down every die's rail behind the next cycle, and PWRLOSS says so; a lower
reading only sets its TEMP register. A core's rail that goes down leaves nothing of its contexts, a die's nothing in its
scratchpads, and its ring stores poisoned, while the negative keeps its records; the loss is reported 20 cycles after the last
powered cycle, and stops the tasks that had a context there; a task that already waits for its recovery has one more die to
recover from (R332, R334, R335, R350). Power returns to a core or a die; a SUPTEST write arms a failure of a rail behind cycle
B, or powers the failed rail again, for an attached partition. A core gated for idleness saves its contexts and is powered down
behind them, and ungated restores them, at the privilege that they had by the model's reading (R333, R349, R351). Points that
the spec leaves to a reading stand as the model’s log entries 15, 49, 53 and 54 say. -/
def Obligations.RailsFailAndReturn : Prop :=
  (∀ (s : State) (place cause : Nat), s.Inv →
    (∀ temp, place < 8 → temp < 2 ^ 16 →
      (∀ d, d < 8 → d ≠ place → sint 16 (s.reg (offMgmt + 0x20 + 8 * d)) < sint 16 (s.reg (offMgmt + 0x60))) →
      (∀ e ∈ s.cal, ∀ d, e.ev ≠ .supplyFailure true d 2) →
      (sint 16 temp < sint 16 (s.reg (offMgmt + 0x60)) → Happens (.thermalTrip place temp) s fun t => s.SameMem t ∧ s.SameCtxs t ∧
        t.ctl = aset s.ctl (offMgmt + 0x20 + 8 * place) (BitVec.ofNat 64 temp) ∧ t.cal = s.cal) ∧
      (sint 16 (s.reg (offMgmt + 0x60)) ≤ sint 16 temp → Happens (.thermalTrip place temp) s fun t =>
        s.SameMem t ∧ s.SameCtxs t ∧ t.reg (offMgmt + 0x68) = 2 * 2 ^ 48 + 2 * 2 ^ 50 + place * 2 ^ 52 ∧
        ∀ d < 8, ⟨s.cyc + 2, 0, 0, d, 0, .supplyFailure true d 2, CtlAcc.reset⟩ ∈ t.cal)) ∧
    (∀ dieRail, s.ph ≠ 0 → Happens (.supplyFailure dieRail place cause) s fun t => s.SameMem t ∧ s.SameCtxs t ∧
      t.cal = calInsert ⟨s.cyc + 1, 0, 0, place, 0, .supplyFailure dieRail place cause, CtlAcc.reset⟩ s.cal) ∧
    (s.ph = 0 → Happens (.supplyFailure false place cause) s fun t => s.SameMem t ∧ (t.core place).up = false ∧
      (∀ k, t.ctx place k = Ctx.reset) ∧ (t.core place).neg = (s.core place).neg ∧
      ⟨s.cyc + 19, phSched, 9, place, 0, .lossReport false place cause, CtlAcc.reset⟩ ∈ t.cal) ∧
    (s.ph = 0 → place < 8 → Happens (.supplyFailure true place cause) s fun t => (t.die place).up = false ∧
      (∀ n k, dieOf n = place → Ctx.SameRegs Ctx.reset (t.ctx n k)) ∧
      (∀ b, spad (64 * place) ≤ b → b < spad (64 * place) + 0x10000000 → memByte t.mem b = 0) ∧
      (∀ g, granOf (0x080100000000 + place * 0x8000000) ≤ g → g < granOf (0x080100000000 + place * 0x8000000) + 0x200000 → g ∈ t.pois) ∧
      (∀ b, (b < spad (64 * place) ∨ spad (64 * place) + 0x10000000 ≤ b) →
        (b < 0x080100000000 + place * 0x8000000 ∨ 0x080100000000 + place * 0x8000000 + 0x8000000 ≤ b) →
        memByte t.mem b = memByte s.mem b) ∧
      ⟨s.cyc + 19, phSched, 9, place, 0, .lossReport true place cause, CtlAcc.reset⟩ ∈ t.cal) ∧
    (∀ (dieRail : Bool) (t : Task), cause < 4 → t ∈ s.tasks → t.st = .lost ∨ t.st = .recovering → (s.tasks.map (·.id)).Nodup →
      (∃ p ∈ t.live, onRail dieRail place p.1 = true) → Happens (.lossReport dieRail place cause) s fun u => s.SameMem u ∧ s.SameCtxs u ∧
        ∀ x ∈ u.tasks, x.id = t.id → x.st = t.st ∧
          x.dark = t.dark ++ (if dieRail = false then [] else if place < 8 then [place] else List.range 8)) ∧
    ∀ (dieRail : Bool) (t : Task), cause < 4 → cause ≠ 2 → place < 2 ^ 10 → s.cyc < 2 ^ 48 → t ∈ s.tasks → t.st = .running →
      (∃ p ∈ t.live, onRail dieRail place p.1 = true) → Happens (.lossReport dieRail place cause) s fun u => s.SameMem u ∧ s.SameCtxs u ∧
        u.reg (offMgmt + 0x68) = s.cyc + (if dieRail then 2 else 1) * 2 ^ 48 + cause * 2 ^ 50 + place * 2 ^ 52 ∧
        (∀ x ∈ u.tasks, x.id = t.id → x.st = .recovering) ∧
        ∀ p ∈ t.live, ⟨s.cyc + 64, phCtx, p.1, p.2, 0, .preemptStop p.1 p.2, CtlAcc.reset⟩ ∈ u.cal) ∧
  (∀ (s : State) (n : Nat),
    (Happens (.powerRestored 1 n) s fun t => s.SameMem t ∧ (t.core n).up = true ∧ s.SameCtxs t) ∧
    (Happens (.powerRestored 2 n) s fun t => s.SameMem t ∧ (t.die n).up = true ∧ s.SameCtxs t) ∧
    (Happens (.powerRestored 0 n) s fun t => s.SameMem t ∧ (∀ d < 8, (t.die d).up = true) ∧ s.SameCtxs t) ∧
    (∀ b p, n < 512 → s.cyc ≤ b → b < 2 ^ 48 → s.cw.off = offMgmt + 0x70 → s.cw.val = b + 2 ^ 48 + n * 2 ^ 51 →
      s.partOf n = some p → s.attached p = true → Happens .suptestArm s fun t => s.SameMem t ∧ s.SameCtxs t ∧
        t.ctl = aset s.ctl (offMgmt + 0x70) (BitVec.ofNat 64 s.cw.val) ∧
        t.cal = calInsert ⟨b + 1, 0, 0, 0, 0, .supplyFailure false n 1, CtlAcc.reset⟩ s.cal) ∧
    (s.cw.off = offMgmt + 0x70 → s.cw.val.testBit 50 = true → n = bits s.cw.val 60 51 → n < 512 →
      Happens .suptestRestore s fun t => s.SameMem t ∧ s.SameCtxs t ∧
        t.ctl = aset s.ctl (offMgmt + 0x70) (BitVec.ofNat 64 (s.cw.val % 2 ^ 61)) ∧
        (s.cw.val.testBit 49 = false → (t.core n).up = true) ∧ (s.cw.val.testBit 49 = true → (t.die (dieOf n)).up = true)) ∧
    ((s.reg (offMgmt + 0x18)).testBit (dieOf n) = true → (s.core n).up = true → (s.core n).gated = false →
      Happens (.gateRequest n) s fun t => s.SameMem t ∧ (∀ m k, Ctx.SameRegs (s.ctx m k) (t.ctx m k)) ∧
        (t.core n).gateReq = true ∧ ∃ e ∈ t.cal, e.ev = .coreGate n ∧ e.ph = phSched ∧ s.cyc ≤ e.at_) ∧
    (s.canGate n = true → (∀ k < 4, (s.ctx n k).q.st = .free) → Happens (.coreGate n) s fun t => s.SameMem t ∧
      (t.core n).gated = true ∧ (t.core n).gateReq = false ∧ (t.core n).neg = (s.core n).neg ∧ ∀ k, t.ctx n k = Ctx.reset) ∧
    (s.canGate n = true → (∃ k < 4, (s.ctx n k).q.st ≠ .free) → Happens (.coreGate n) s fun t => s.SameMem t ∧ (∀ m k, Ctx.SameRegs (s.ctx m k) (t.ctx m k)) ∧
      (t.core n).gated = true ∧ (t.core n).gateReq = false ∧ (t.core n).gateCtx = (List.range 4).filter (fun k => (s.ctx n k).q.st ≠ .free) ∧
      ∃ l : List Save, (t.core n).saves = (s.core n).saves ++ l ∧ (∀ v ∈ l, v.kind = 3) ∧ l.length = (t.core n).gateCtx.length) ∧
    (s.canGate n = false → exec (.coreGate n) s = .next s) ∧
    ∀ (t : Task) (r : Rec) (v : Payload) (k : Nat), (s.core n).gated = true → (∀ y ∈ (s.core n).saves, y.kind ≠ 3) →
      k = (s.core n).holder → (s.core n).gateCtx = [k] → s.tasks.find? (fun t => t.live.contains (n, k)) = some t →
      (s.core n).newest k t.taskid (fun r => r.kind = 3) = some r → r.pay = some v → Happens (.coreUngate n) s fun u =>
        (u.core n).gated = false ∧ s.SameMem u ∧ ∀ y, y = u.ctx n k → Ctx.SameRegs v.ctx y ∧ y.g = v.ctx.g ∧ y.ar = v.ctx.ar ∧
          y.q.pc = v.resume ∧ y.q.sup = v.ctx.q.sup ∧ y.q.at_ = s.cyc + (r.mlen / 1024 + 48) ∧ y.q.slip = true ∧ y.q.task = t.id)

/-- An uncorrectable error poisons what it strikes, a granule of a scratchpad or ring store, a register, a tile, a granule of
the mirror or of a copy in flight, or tears a record of a context or of a queue's state; each but the last is entered in the
error log of its die, of a copy the first granule alone, on the die where it is found (R337, R338, R339, R340). A host access
through BAR2 writes exactly its bytes below the control region, or reads them; a 64-byte write through BAR4 to a served queue
becomes an entry once those before it have come, any other, or one to a queue that is not served, counts in HLERR; an AtomicOp
of the host is not supported (R352, R353, R239). A pod request reaches what a partition exports, a write, a read answered with
the bytes, or an atomic answered with the old word, the answer leaving at once or, while the pod's traffic is to be remapped,
waiting for that; outside it is refused and logged with its sequence number. A queue-reset message begins its queue's numbers
again; a link that comes up names its package, one that goes down is neither up nor trained; either has the pod's traffic mapped
anew, and of the requests sent on a link that is down only those that their target has and has not answered are still on it
(R354, R355, R246). Points that the spec leaves to a reading stand as the model’s log entries 14, 43, 51, 57 and 99 say. -/
def Obligations.ErrorsAndOutside : Prop :=
  (∀ (s : State) (n i : Nat),
    let logged (d : Nat) (t : State) : Prop := (t.die d).elogCnt = ((s.die d).elogCnt + 1) % 2 ^ 32
    (Happens (.uncorrectableError 2 n i) s fun t => t.mem = s.mem ∧ s.SameCtxs t ∧ granOf (spad n) + i ∈ t.pois ∧
      (∀ g, g ≠ granOf (spad n) + i → (g ∈ t.pois ↔ g ∈ s.pois)) ∧ logged (dieOf n) t) ∧
    (Happens (.uncorrectableError 7 n i) s fun t => t.mem = s.mem ∧ s.SameCtxs t ∧
      granOf (0x080100000000 + n * 0x200000 + 64 * i) ∈ t.pois ∧ logged (n / 64) t) ∧
    (i < 200 → Happens (.uncorrectableError 3 n i) s fun t => s.SameMem t ∧
      (t.ctx (n / 4) (n % 4)).isPoisoned (errReg i).1 (errReg i).2 = true ∧
      Ctx.SameRegs (s.ctx (n / 4) (n % 4)) (t.ctx (n / 4) (n % 4)) ∧ logged (dieOf (n / 4)) t) ∧
    (200 ≤ i → i < 208 → Happens (.uncorrectableError 3 n i) s fun t => s.SameMem t ∧ s.SameCtxs t ∧
      ((t.core (n / 4)).arr.tile (i - 200)).poison = true ∧ logged (dieOf (n / 4)) t) ∧
    (Happens (.uncorrectableError 4 n i) s fun t => s.SameMem t ∧ s.SameCtxs t ∧ logged (dieOf n) t ∧
      ∃ d g, aget (t.core n).neg.mirror i = some (d, g, true)) ∧
    (∀ e d, n < 512 → d < 8 → (s.core n).copies.find? (fun e => e.seq = i / 65536) = some e →
      Happens (.uncorrectableError 1 (n + 512 * d) i) s fun t => s.SameMem t ∧ s.SameCtxs t ∧ (e.logged = false → logged d t) ∧
      (e.logged = true → t.dies = s.dies) ∧ ∃ f ∈ (t.core n).copies, f.id = e.id ∧ f.logged = true ∧ i % 65536 ∈ f.poison) ∧
    (∀ r, i < 8 → aget (s.core n).neg.recs i = some r → Happens (.uncorrectableError 0 n i) s fun t => s.SameMem t ∧ s.SameCtxs t ∧
      aget (t.core n).neg.recs i = some { r with torn := true }) ∧
    ∀ r, aget (s.core n).neg.qrecs i = some r → Happens (.uncorrectableError 0 n (8 + i)) s fun t => s.SameMem t ∧ s.SameCtxs t ∧
      aget (t.core n).neg.qrecs i = some { r with torn := true }) ∧
  (∀ (s : State) (a n v : Nat), s.Inv →
    (0 < n → a + n ≤ 0x050000000000 → Happens (.hostMemoryAccess true a n v) s fun t => s.SameCtxs t ∧ t.tags = s.tags ∧
      s.Wrote t a n (v % 2 ^ (8 * n))) ∧
    (0 < n → a + n ≤ 0x050000000000 → Happens (.hostMemoryAccess false a n v) s fun t => s.SameMem t ∧ s.SameCtxs t ∧
      t.readVal = s.load a n) ∧
    (∀ (q : Nat) (p : Bool), q = a / 0x1000 → n = 64 → a % 64 = 0 → a < 0x200000 → s.tqServed q = true → (s.tq q).early = [] →
      (bits v 511 480 = agetD (s.tq q).next 0 0 → (s.tq q).taken < 64 → (s.tq q).recvs = [] →
        Happens (.queueApertureWrite a n v p) s fun t => s.SameMem t ∧ s.SameCtxs t ∧ (t.tq q).early = [] ∧
          (∃ i, (t.tq q).ents = (s.tq q).ents ++ [⟨i, BitVec.ofNat 512 v, p, none⟩]) ∧
          agetD (t.tq q).next 0 0 = (agetD (s.tq q).next 0 0 + 1) % 2 ^ 32) ∧
      (bits v 511 480 ≠ agetD (s.tq q).next 0 0 → Happens (.queueApertureWrite a n v p) s fun t => s.SameMem t ∧ s.SameCtxs t ∧
        (t.tq q).ents = (s.tq q).ents ∧ ∃ e : TqIn, (t.tq q).early = [e] ∧ e.data = BitVec.ofNat 512 v)) ∧
    (∀ p : Bool, n ≠ 64 ∨ a % 64 ≠ 0 ∨ 0x200000 ≤ a ∨ s.tqServed (a / 0x1000) = false → Happens (.queueApertureWrite a n v p) s fun t => s.SameMem t ∧ s.SameCtxs t ∧
      t.ctl = aset s.ctl (offMgmt + 0xC0) (BitVec.ofNat 64 ((s.reg (offMgmt + 0xC0) + 1) % 2 ^ 32))) ∧
    (Happens (.hostAtomicop a) s fun t => s.SameMem t ∧ s.SameCtxs t ∧ t.ctl = s.ctl ∧
      t.out = s.out ++ [⟨s.cyc, [s.cyc, 512, 5, 0], 0, none, .unsupported a⟩])) ∧
  (∀ (s : State) (src addr len data a seq : Nat), s.Inv →
    let answered (t : State) : Prop :=
      (s.remapping = false → t.wait = s.wait ∧
        t.out = s.out ++ [⟨s.cyc, [s.cyc, 512, 6, 0], src + 1, s.linkFor src, .answer (s.load a len)⟩]) ∧
      (s.remapping = true → t.out = s.out ∧
        t.wait = waitInsert ⟨s.cyc, [s.cyc, 512, 6, 0], src + 1, none, .answer (s.load a len)⟩ s.wait)
    (0x200000 ≤ addr % 2 ^ 24 → s.exported (addr % 2 ^ 24) len = some a → 0 < len →
      (∀ p : Bool, Happens (.zieshRequest src (8 * seq) addr len data p) s fun t => s.SameCtxs t ∧ t.tags = s.tags ∧
        s.Wrote t a len (data % 2 ^ (8 * len))) ∧
      (∀ p : Bool, len ≤ 64 → Happens (.zieshRequest src (8 * seq + 1) addr len data p) s fun t => s.SameMem t ∧ s.SameCtxs t ∧ answered t) ∧
      (∀ (k : Nat) (p : Bool), 2 ≤ k → k ≤ 4 → Happens (.zieshRequest src (8 * seq + k) addr len data p) s fun t => s.SameCtxs t ∧
        s.Wrote t a len (atomNew (podOp k) (8 * len) (s.load a len) (data % 2 ^ 64) (data / 2 ^ 64 % 2 ^ 64)) ∧
        answered t)) ∧
    (0x200000 ≤ addr % 2 ^ 24 → s.exported (addr % 2 ^ 24) len = none → ∀ (k : Nat) (p : Bool), k < 8 →
      Happens (.zieshRequest src (8 * seq + k) addr len data p) s fun t => s.SameMem t ∧ s.SameCtxs t ∧
        t.die 0 = (s.log 0 9 0x3FF 0 0 0 seq src).die 0 ∧ (t.die 0).elogCnt = ((s.die 0).elogCnt + 1) % 2 ^ 32) ∧
    (∀ die q, Happens (.queueResetMessage src die q) s fun t => s.SameMem t ∧ s.SameCtxs t ∧
      agetD t.oseq (src * 0x1000 + 64 * die + q) 0 = 0) ∧
    (∀ link pkg, link < 12 → pkg < 2 ^ 16 → Happens (.zieshLinkUp link pkg) s fun t => s.SameMem t ∧ s.SameCtxs t ∧
      t.reg (offMgmt + 0xC8 + 8 * link) = 3 + pkg * 2 ^ 16 ∧ (link ∉ s.linksUp → t.remap = true)) ∧
    ∀ link, (link ∈ s.linksUp → Happens (.linkDown link) s fun t => s.SameMem t ∧ s.SameCtxs t ∧
        t.reg (offMgmt + 0xC8 + 8 * link) = s.reg (offMgmt + 0xC8 + 8 * link) / 4 * 4 ∧ t.remap = true ∧
        t.out.map (·.msg) = s.out.map (·.msg) ∧ ∀ o ∈ t.out, o.link = some link → s.unanswered o = true) ∧
      (link ∉ s.linksUp → exec (.linkDown link) s = .next s))
end

