-- ==== Sys2Proof/Laws/Memory.lean ====
section
/-! SUPPORT. Laws of the maps and of memory: a read after a write, and the canonical form that every memory operation keeps (R5, R226,
log 2). -/

namespace Sys2Proof

/-! ### Maps -/

@[simp] theorem aget_aset_self {α : Type} (a : Assoc α) (n : Nat) (v : α) : aget (aset a n v) n = some v := by
  induction a with
  | nil => simp [aset, aget]
  | cons p r ih =>
    obtain ⟨k, x⟩ := p
    simp only [aset]
    split
    · simp [aget]
    · split
      · simp [aget]
      · next h1 h2 => simp [aget, h1, h2, ih]

theorem aget_aset_ne {α : Type} (a : Assoc α) {n m : Nat} (v : α) (h : m ≠ n) : aget (aset a n v) m = aget a m := by
  induction a with
  | nil => simp [aset, aget, h]
  | cons p r ih =>
    obtain ⟨k, x⟩ := p
    simp only [aset]
    split
    · next hk =>
      simp only [aget, h, if_false]
      split
      · have : ¬ m = k := by omega
        have : m < k := by omega
        simp [*]
      · rfl
    · split
      · next hk => subst hk; simp [aget, h]
      · simp [aget, ih]

@[simp] theorem agetD_aset_self {α : Type} (a : Assoc α) (n : Nat) (v d : α) : agetD (aset a n v) n d = v := by
  simp [agetD]

theorem agetD_aset_ne {α : Type} (a : Assoc α) {n m : Nat} (v d : α) (h : m ≠ n) :
    agetD (aset a n v) m d = agetD a m d := by
  simp [agetD, aget_aset_ne _ _ h]

theorem agetD_aset {α : Type} (a : Assoc α) (n m : Nat) (v d : α) :
    agetD (aset a n v) m d = if m = n then v else agetD a m d := by
  split
  · next h => subst h; simp
  · next h => exact agetD_aset_ne _ _ _ h

namespace Machine

/-! ### Cells -/

/-- The byte that memory lists at an address is the byte that is read. -/
theorem memByte_of_mem {m : List Host.Cell} (h : Memory.wf m) {c : Host.Cell} (hc : c ∈ m) : memByte m c.1 = c.2 := by
  induction m with
  | nil => simp at hc
  | cons p r ih =>
    obtain ⟨k, b⟩ := p
    obtain ⟨hp, hn⟩ := h
    rw [List.pairwise_cons] at hp
    simp only [memByte]
    rcases List.mem_cons.1 hc with rfl | hr
    · simp
    · have := hp.1 c hr
      have h1 : ¬ c.1 = k := by simp at this; omega
      have h2 : ¬ c.1 < k := by simp at this; omega
      simp only [h1, h2, if_false]
      exact ih ⟨hp.2, fun c hc => hn c (List.mem_cons_of_mem _ hc)⟩ hr

/-- An address that memory does not list reads as 0. -/
theorem memByte_of_not_mem {m : List Host.Cell} {a : Nat} (h : ∀ c ∈ m, c.1 ≠ a) : memByte m a = 0 := by
  induction m with
  | nil => rfl
  | cons p r ih =>
    obtain ⟨k, b⟩ := p
    have h1 : ¬ a = k := fun e => h (k, b) (List.mem_cons_self ..) e.symm
    simp only [memByte, h1, if_false]
    split
    · rfl
    · exact ih fun c hc => h c (List.mem_cons_of_mem _ hc)

theorem mem_cellsOf {a n v : Nat} {c : Host.Cell} :
    c ∈ cellsOf a n v ↔ ∃ i < n, BitVec.ofNat 8 (v / 2 ^ (8 * i)) ≠ 0 ∧ c = (a + i, BitVec.ofNat 8 (v / 2 ^ (8 * i))) := by
  simp only [cellsOf, List.mem_filterMap, List.mem_range]
  constructor
  · rintro ⟨i, hi, h⟩
    split at h
    · simp at h
    · next hb => exact ⟨i, hi, hb, by simpa using h.symm⟩
  · rintro ⟨i, hi, hb, rfl⟩
    exact ⟨i, hi, by simp only [hb, if_false]⟩

theorem cellsOf_wf (a n v : Nat) : Memory.wf (cellsOf a n v) := by
  refine ⟨?_, fun c hc => ?_⟩
  · unfold cellsOf
    rw [List.pairwise_filterMap]
    refine List.Pairwise.imp ?_ List.pairwise_lt_range
    intro i j hij b hb c hc
    simp only at hb hc
    split at hb <;> simp at hb
    split at hc <;> simp at hc
    subst hb hc
    simp; omega
  · obtain ⟨i, _, hb, rfl⟩ := mem_cellsOf.1 hc
    exact hb

/-! ### The canonical form -/

theorem Memory.wf_filter {m : List Host.Cell} (h : Memory.wf m) (p : Host.Cell → Bool) : Memory.wf (m.filter p) :=
  ⟨h.1.filter _, fun c hc => h.2 c (List.mem_of_mem_filter hc)⟩

theorem memStore_wf {m : List Host.Cell} (h : Memory.wf m) (a n v : Nat) : Memory.wf (memStore m a n v) := by
  have hc := cellsOf_wf a n v
  refine ⟨?_, ?_⟩
  · unfold memStore
    rw [List.pairwise_append, List.pairwise_append]
    refine ⟨⟨(Memory.wf_filter h _).1, hc.1, ?_⟩, (Memory.wf_filter h _).1, ?_⟩
    · intro x hx y hy
      obtain ⟨i, _, _, rfl⟩ := mem_cellsOf.1 hy
      have := (List.mem_filter.1 hx).2
      simp at this ⊢; omega
    · intro x hx y hy
      have h2 := (List.mem_filter.1 hy).2
      simp at h2
      rcases List.mem_append.1 hx with hx | hx
      · have := (List.mem_filter.1 hx).2
        simp at this; omega
      · obtain ⟨i, _, _, rfl⟩ := mem_cellsOf.1 hx
        simp; omega
  · intro c hc'
    unfold memStore at hc'
    rcases List.mem_append.1 hc' with hx | hx
    · rcases List.mem_append.1 hx with hx | hx
      · exact h.2 c (List.mem_of_mem_filter hx)
      · exact hc.2 c hx
    · exact h.2 c (List.mem_of_mem_filter hx)

theorem store_wf {s : State} (h : Memory.wf s.mem) (a n v : Nat) : Memory.wf (s.store a n v).mem := memStore_wf h a n v

theorem clearMem_wf {s : State} (h : Memory.wf s.mem) (a n : Nat) : Memory.wf (s.clearMem a n).mem :=
  Memory.wf_filter h _

/-! ### A read after a write -/

/-- What every byte reads as after a store: the stored byte within it, the byte of before outside. -/
theorem memByte_memStore {m : List Host.Cell} (h : Memory.wf m) (a n v b : Nat) :
    memByte (memStore m a n v) b = if a ≤ b ∧ b < a + n then BitVec.ofNat 8 (v / 2 ^ (8 * (b - a))) else memByte m b := by
  have hw := memStore_wf h a n v
  have out : ∀ c ∈ m, (c.1 < a ∨ a + n ≤ c.1) → c ∈ memStore m a n v := by
    intro c hc ho
    unfold memStore
    rcases ho with ho | ho
    · exact List.mem_append.2 (.inl (List.mem_append.2 (.inl (List.mem_filter.2 ⟨hc, by simpa using ho⟩))))
    · exact List.mem_append.2 (.inr (List.mem_filter.2 ⟨hc, by simpa using ho⟩))
  have back : ∀ c ∈ memStore m a n v, (c ∈ m ∧ (c.1 < a ∨ a + n ≤ c.1)) ∨ c ∈ cellsOf a n v := by
    intro c hc
    unfold memStore at hc
    rcases List.mem_append.1 hc with hx | hx
    · rcases List.mem_append.1 hx with hx | hx
      · exact .inl ⟨List.mem_of_mem_filter hx, .inl (by simpa using (List.mem_filter.1 hx).2)⟩
      · exact .inr hx
    · exact .inl ⟨List.mem_of_mem_filter hx, .inr (by simpa using (List.mem_filter.1 hx).2)⟩
  split
  · next hb =>
    by_cases h0 : BitVec.ofNat 8 (v / 2 ^ (8 * (b - a))) = 0
    · rw [h0]
      refine memByte_of_not_mem fun c hc e => ?_
      rcases back c hc with ⟨_, ho⟩ | hc
      · omega
      · obtain ⟨i, _, hne, rfl⟩ := mem_cellsOf.1 hc
        apply hne
        simp only at e
        have : i = b - a := by omega
        rw [this]; exact h0
    · have hc : (b, BitVec.ofNat 8 (v / 2 ^ (8 * (b - a)))) ∈ memStore m a n v := by
        unfold memStore
        refine List.mem_append.2 (.inl (List.mem_append.2 (.inr (mem_cellsOf.2 ⟨b - a, by omega, h0, ?_⟩))))
        have : a + (b - a) = b := by omega
        rw [this]
      exact memByte_of_mem hw hc
  · next hb =>
    by_cases hm : ∃ c ∈ m, c.1 = b
    · obtain ⟨c, hc, rfl⟩ := hm
      rw [memByte_of_mem hw (out c hc (by omega)), memByte_of_mem h hc]
    · have hm' : ∀ c ∈ m, c.1 ≠ b := fun c hc e => hm ⟨c, hc, e⟩
      rw [memByte_of_not_mem hm']
      refine memByte_of_not_mem fun c hc e => ?_
      rcases back c hc with ⟨hcm, _⟩ | hc
      · exact hm' c hcm e
      · obtain ⟨i, _, _, rfl⟩ := mem_cellsOf.1 hc
        simp only at e; omega

end Machine
end Sys2Proof
end

