-- ==== Sys2Proof/Laws/State.lean ====
section
/-! SUPPORT. Laws of the state: what each named update leaves in each field, so that no proof unfolds a record update. The updates that are
abbreviations (`setCore`, `setCtx`, `setDie`, `store`, `setReg`, `fresh` and the `mod…` forms) reduce by themselves. -/

namespace Sys2Proof.Machine

/-! ### An event is put into the calendar -/

@[simp] theorem State.sched_cyc (s : State) (at_ ph k1 k2 k3 : Nat) (ev : Instr) :
    (s.sched at_ ph k1 k2 k3 ev).cyc = s.cyc := rfl
@[simp] theorem State.sched_ph (s : State) (at_ ph k1 k2 k3 : Nat) (ev : Instr) :
    (s.sched at_ ph k1 k2 k3 ev).ph = s.ph := rfl
@[simp] theorem State.sched_seqNo (s : State) (at_ ph k1 k2 k3 : Nat) (ev : Instr) :
    (s.sched at_ ph k1 k2 k3 ev).seqNo = s.seqNo := rfl
@[simp] theorem State.sched_iss (s : State) (at_ ph k1 k2 k3 : Nat) (ev : Instr) :
    (s.sched at_ ph k1 k2 k3 ev).iss = s.iss := rfl
@[simp] theorem State.sched_cw (s : State) (at_ ph k1 k2 k3 : Nat) (ev : Instr) :
    (s.sched at_ ph k1 k2 k3 ev).cw = s.cw := rfl
@[simp] theorem State.sched_cal (s : State) (at_ ph k1 k2 k3 : Nat) (ev : Instr) :
    (s.sched at_ ph k1 k2 k3 ev).cal = calInsert ⟨at_, ph, k1, k2, k3, ev, CtlAcc.reset⟩ s.cal := rfl
@[simp] theorem State.sched_inputs (s : State) (at_ ph k1 k2 k3 : Nat) (ev : Instr) :
    (s.sched at_ ph k1 k2 k3 ev).inputs = s.inputs := rfl
@[simp] theorem State.sched_out (s : State) (at_ ph k1 k2 k3 : Nat) (ev : Instr) :
    (s.sched at_ ph k1 k2 k3 ev).out = s.out := rfl
@[simp] theorem State.sched_wait (s : State) (at_ ph k1 k2 k3 : Nat) (ev : Instr) :
    (s.sched at_ ph k1 k2 k3 ev).wait = s.wait := rfl
@[simp] theorem State.sched_readVal (s : State) (at_ ph k1 k2 k3 : Nat) (ev : Instr) :
    (s.sched at_ ph k1 k2 k3 ev).readVal = s.readVal := rfl
@[simp] theorem State.sched_mem (s : State) (at_ ph k1 k2 k3 : Nat) (ev : Instr) :
    (s.sched at_ ph k1 k2 k3 ev).mem = s.mem := rfl
@[simp] theorem State.sched_tags (s : State) (at_ ph k1 k2 k3 : Nat) (ev : Instr) :
    (s.sched at_ ph k1 k2 k3 ev).tags = s.tags := rfl
@[simp] theorem State.sched_pois (s : State) (at_ ph k1 k2 k3 : Nat) (ev : Instr) :
    (s.sched at_ ph k1 k2 k3 ev).pois = s.pois := rfl
@[simp] theorem State.sched_rpois (s : State) (at_ ph k1 k2 k3 : Nat) (ev : Instr) :
    (s.sched at_ ph k1 k2 k3 ev).rpois = s.rpois := rfl
@[simp] theorem State.sched_cores (s : State) (at_ ph k1 k2 k3 : Nat) (ev : Instr) :
    (s.sched at_ ph k1 k2 k3 ev).cores = s.cores := rfl
@[simp] theorem State.sched_dies (s : State) (at_ ph k1 k2 k3 : Nat) (ev : Instr) :
    (s.sched at_ ph k1 k2 k3 ev).dies = s.dies := rfl
@[simp] theorem State.sched_ctl (s : State) (at_ ph k1 k2 k3 : Nat) (ev : Instr) :
    (s.sched at_ ph k1 k2 k3 ev).ctl = s.ctl := rfl
@[simp] theorem State.sched_meas (s : State) (at_ ph k1 k2 k3 : Nat) (ev : Instr) :
    (s.sched at_ ph k1 k2 k3 ev).meas = s.meas := rfl
@[simp] theorem State.sched_ext (s : State) (at_ ph k1 k2 k3 : Nat) (ev : Instr) :
    (s.sched at_ ph k1 k2 k3 ev).ext = s.ext := rfl
@[simp] theorem State.sched_rot (s : State) (at_ ph k1 k2 k3 : Nat) (ev : Instr) :
    (s.sched at_ ph k1 k2 k3 ev).rot = s.rot := rfl
@[simp] theorem State.sched_sq (s : State) (at_ ph k1 k2 k3 : Nat) (ev : Instr) :
    (s.sched at_ ph k1 k2 k3 ev).sq = s.sq := rfl
@[simp] theorem State.sched_tasks (s : State) (at_ ph k1 k2 k3 : Nat) (ev : Instr) :
    (s.sched at_ ph k1 k2 k3 ev).tasks = s.tasks := rfl
@[simp] theorem State.sched_comp (s : State) (at_ ph k1 k2 k3 : Nat) (ev : Instr) :
    (s.sched at_ ph k1 k2 k3 ev).comp = s.comp := rfl
@[simp] theorem State.sched_banks (s : State) (at_ ph k1 k2 k3 : Nat) (ev : Instr) :
    (s.sched at_ ph k1 k2 k3 ev).banks = s.banks := rfl
@[simp] theorem State.sched_bars (s : State) (at_ ph k1 k2 k3 : Nat) (ev : Instr) :
    (s.sched at_ ph k1 k2 k3 ev).bars = s.bars := rfl
@[simp] theorem State.sched_combs (s : State) (at_ ph k1 k2 k3 : Nat) (ev : Instr) :
    (s.sched at_ ph k1 k2 k3 ev).combs = s.combs := rfl
@[simp] theorem State.sched_graphs (s : State) (at_ ph k1 k2 k3 : Nat) (ev : Instr) :
    (s.sched at_ ph k1 k2 k3 ev).graphs = s.graphs := rfl
@[simp] theorem State.sched_rings (s : State) (at_ ph k1 k2 k3 : Nat) (ev : Instr) :
    (s.sched at_ ph k1 k2 k3 ev).rings = s.rings := rfl
@[simp] theorem State.sched_zero (s : State) (at_ ph k1 k2 k3 : Nat) (ev : Instr) :
    (s.sched at_ ph k1 k2 k3 ev).zero = s.zero := rfl
@[simp] theorem State.sched_revoked (s : State) (at_ ph k1 k2 k3 : Nat) (ev : Instr) :
    (s.sched at_ ph k1 k2 k3 ev).revoked = s.revoked := rfl
@[simp] theorem State.sched_quote (s : State) (at_ ph k1 k2 k3 : Nat) (ev : Instr) :
    (s.sched at_ ph k1 k2 k3 ev).quote = s.quote := rfl
@[simp] theorem State.sched_oseq (s : State) (at_ ph k1 k2 k3 : Nat) (ev : Instr) :
    (s.sched at_ ph k1 k2 k3 ev).oseq = s.oseq := rfl
@[simp] theorem State.sched_remap (s : State) (at_ ph k1 k2 k3 : Nat) (ev : Instr) :
    (s.sched at_ ph k1 k2 k3 ev).remap = s.remap := rfl
@[simp] theorem State.sched_seen (s : State) (at_ ph k1 k2 k3 : Nat) (ev : Instr) :
    (s.sched at_ ph k1 k2 k3 ev).seen = s.seen := rfl
@[simp] theorem State.sched_free (s : State) (at_ ph k1 k2 k3 : Nat) (ev : Instr) :
    (s.sched at_ ph k1 k2 k3 ev).free = s.free := rfl

/-! ### A control-space access is put into the calendar -/

@[simp] theorem State.schedCtl_cyc (s : State) (at_ ph k1 k2 k3 : Nat) (ev : Instr) (a : CtlAcc) :
    (s.schedCtl at_ ph k1 k2 k3 ev a).cyc = s.cyc := rfl
@[simp] theorem State.schedCtl_ph (s : State) (at_ ph k1 k2 k3 : Nat) (ev : Instr) (a : CtlAcc) :
    (s.schedCtl at_ ph k1 k2 k3 ev a).ph = s.ph := rfl
@[simp] theorem State.schedCtl_seqNo (s : State) (at_ ph k1 k2 k3 : Nat) (ev : Instr) (a : CtlAcc) :
    (s.schedCtl at_ ph k1 k2 k3 ev a).seqNo = s.seqNo := rfl
@[simp] theorem State.schedCtl_iss (s : State) (at_ ph k1 k2 k3 : Nat) (ev : Instr) (a : CtlAcc) :
    (s.schedCtl at_ ph k1 k2 k3 ev a).iss = s.iss := rfl
@[simp] theorem State.schedCtl_cw (s : State) (at_ ph k1 k2 k3 : Nat) (ev : Instr) (a : CtlAcc) :
    (s.schedCtl at_ ph k1 k2 k3 ev a).cw = s.cw := rfl
@[simp] theorem State.schedCtl_cal (s : State) (at_ ph k1 k2 k3 : Nat) (ev : Instr) (a : CtlAcc) :
    (s.schedCtl at_ ph k1 k2 k3 ev a).cal = calInsert ⟨at_, ph, k1, k2, k3, ev, a⟩ s.cal := rfl
@[simp] theorem State.schedCtl_inputs (s : State) (at_ ph k1 k2 k3 : Nat) (ev : Instr) (a : CtlAcc) :
    (s.schedCtl at_ ph k1 k2 k3 ev a).inputs = s.inputs := rfl
@[simp] theorem State.schedCtl_out (s : State) (at_ ph k1 k2 k3 : Nat) (ev : Instr) (a : CtlAcc) :
    (s.schedCtl at_ ph k1 k2 k3 ev a).out = s.out := rfl
@[simp] theorem State.schedCtl_wait (s : State) (at_ ph k1 k2 k3 : Nat) (ev : Instr) (a : CtlAcc) :
    (s.schedCtl at_ ph k1 k2 k3 ev a).wait = s.wait := rfl
@[simp] theorem State.schedCtl_readVal (s : State) (at_ ph k1 k2 k3 : Nat) (ev : Instr) (a : CtlAcc) :
    (s.schedCtl at_ ph k1 k2 k3 ev a).readVal = s.readVal := rfl
@[simp] theorem State.schedCtl_mem (s : State) (at_ ph k1 k2 k3 : Nat) (ev : Instr) (a : CtlAcc) :
    (s.schedCtl at_ ph k1 k2 k3 ev a).mem = s.mem := rfl
@[simp] theorem State.schedCtl_tags (s : State) (at_ ph k1 k2 k3 : Nat) (ev : Instr) (a : CtlAcc) :
    (s.schedCtl at_ ph k1 k2 k3 ev a).tags = s.tags := rfl
@[simp] theorem State.schedCtl_pois (s : State) (at_ ph k1 k2 k3 : Nat) (ev : Instr) (a : CtlAcc) :
    (s.schedCtl at_ ph k1 k2 k3 ev a).pois = s.pois := rfl
@[simp] theorem State.schedCtl_rpois (s : State) (at_ ph k1 k2 k3 : Nat) (ev : Instr) (a : CtlAcc) :
    (s.schedCtl at_ ph k1 k2 k3 ev a).rpois = s.rpois := rfl
@[simp] theorem State.schedCtl_cores (s : State) (at_ ph k1 k2 k3 : Nat) (ev : Instr) (a : CtlAcc) :
    (s.schedCtl at_ ph k1 k2 k3 ev a).cores = s.cores := rfl
@[simp] theorem State.schedCtl_dies (s : State) (at_ ph k1 k2 k3 : Nat) (ev : Instr) (a : CtlAcc) :
    (s.schedCtl at_ ph k1 k2 k3 ev a).dies = s.dies := rfl
@[simp] theorem State.schedCtl_ctl (s : State) (at_ ph k1 k2 k3 : Nat) (ev : Instr) (a : CtlAcc) :
    (s.schedCtl at_ ph k1 k2 k3 ev a).ctl = s.ctl := rfl
@[simp] theorem State.schedCtl_meas (s : State) (at_ ph k1 k2 k3 : Nat) (ev : Instr) (a : CtlAcc) :
    (s.schedCtl at_ ph k1 k2 k3 ev a).meas = s.meas := rfl
@[simp] theorem State.schedCtl_ext (s : State) (at_ ph k1 k2 k3 : Nat) (ev : Instr) (a : CtlAcc) :
    (s.schedCtl at_ ph k1 k2 k3 ev a).ext = s.ext := rfl
@[simp] theorem State.schedCtl_rot (s : State) (at_ ph k1 k2 k3 : Nat) (ev : Instr) (a : CtlAcc) :
    (s.schedCtl at_ ph k1 k2 k3 ev a).rot = s.rot := rfl
@[simp] theorem State.schedCtl_sq (s : State) (at_ ph k1 k2 k3 : Nat) (ev : Instr) (a : CtlAcc) :
    (s.schedCtl at_ ph k1 k2 k3 ev a).sq = s.sq := rfl
@[simp] theorem State.schedCtl_tasks (s : State) (at_ ph k1 k2 k3 : Nat) (ev : Instr) (a : CtlAcc) :
    (s.schedCtl at_ ph k1 k2 k3 ev a).tasks = s.tasks := rfl
@[simp] theorem State.schedCtl_comp (s : State) (at_ ph k1 k2 k3 : Nat) (ev : Instr) (a : CtlAcc) :
    (s.schedCtl at_ ph k1 k2 k3 ev a).comp = s.comp := rfl
@[simp] theorem State.schedCtl_banks (s : State) (at_ ph k1 k2 k3 : Nat) (ev : Instr) (a : CtlAcc) :
    (s.schedCtl at_ ph k1 k2 k3 ev a).banks = s.banks := rfl
@[simp] theorem State.schedCtl_bars (s : State) (at_ ph k1 k2 k3 : Nat) (ev : Instr) (a : CtlAcc) :
    (s.schedCtl at_ ph k1 k2 k3 ev a).bars = s.bars := rfl
@[simp] theorem State.schedCtl_combs (s : State) (at_ ph k1 k2 k3 : Nat) (ev : Instr) (a : CtlAcc) :
    (s.schedCtl at_ ph k1 k2 k3 ev a).combs = s.combs := rfl
@[simp] theorem State.schedCtl_graphs (s : State) (at_ ph k1 k2 k3 : Nat) (ev : Instr) (a : CtlAcc) :
    (s.schedCtl at_ ph k1 k2 k3 ev a).graphs = s.graphs := rfl
@[simp] theorem State.schedCtl_rings (s : State) (at_ ph k1 k2 k3 : Nat) (ev : Instr) (a : CtlAcc) :
    (s.schedCtl at_ ph k1 k2 k3 ev a).rings = s.rings := rfl
@[simp] theorem State.schedCtl_zero (s : State) (at_ ph k1 k2 k3 : Nat) (ev : Instr) (a : CtlAcc) :
    (s.schedCtl at_ ph k1 k2 k3 ev a).zero = s.zero := rfl
@[simp] theorem State.schedCtl_revoked (s : State) (at_ ph k1 k2 k3 : Nat) (ev : Instr) (a : CtlAcc) :
    (s.schedCtl at_ ph k1 k2 k3 ev a).revoked = s.revoked := rfl
@[simp] theorem State.schedCtl_quote (s : State) (at_ ph k1 k2 k3 : Nat) (ev : Instr) (a : CtlAcc) :
    (s.schedCtl at_ ph k1 k2 k3 ev a).quote = s.quote := rfl
@[simp] theorem State.schedCtl_oseq (s : State) (at_ ph k1 k2 k3 : Nat) (ev : Instr) (a : CtlAcc) :
    (s.schedCtl at_ ph k1 k2 k3 ev a).oseq = s.oseq := rfl
@[simp] theorem State.schedCtl_remap (s : State) (at_ ph k1 k2 k3 : Nat) (ev : Instr) (a : CtlAcc) :
    (s.schedCtl at_ ph k1 k2 k3 ev a).remap = s.remap := rfl
@[simp] theorem State.schedCtl_seen (s : State) (at_ ph k1 k2 k3 : Nat) (ev : Instr) (a : CtlAcc) :
    (s.schedCtl at_ ph k1 k2 k3 ev a).seen = s.seen := rfl
@[simp] theorem State.schedCtl_free (s : State) (at_ ph k1 k2 k3 : Nat) (ev : Instr) (a : CtlAcc) :
    (s.schedCtl at_ ph k1 k2 k3 ev a).free = s.free := rfl

/-! ### A message leaves -/

@[simp] theorem State.send_cyc (s : State) (key : List Nat) (target : Nat) (m : Msg) :
    (s.send key target m).cyc = s.cyc := rfl
@[simp] theorem State.send_ph (s : State) (key : List Nat) (target : Nat) (m : Msg) :
    (s.send key target m).ph = s.ph := rfl
@[simp] theorem State.send_seqNo (s : State) (key : List Nat) (target : Nat) (m : Msg) :
    (s.send key target m).seqNo = s.seqNo := rfl
@[simp] theorem State.send_iss (s : State) (key : List Nat) (target : Nat) (m : Msg) :
    (s.send key target m).iss = s.iss := rfl
@[simp] theorem State.send_cw (s : State) (key : List Nat) (target : Nat) (m : Msg) :
    (s.send key target m).cw = s.cw := rfl
@[simp] theorem State.send_cal (s : State) (key : List Nat) (target : Nat) (m : Msg) :
    (s.send key target m).cal = s.cal := rfl
@[simp] theorem State.send_inputs (s : State) (key : List Nat) (target : Nat) (m : Msg) :
    (s.send key target m).inputs = s.inputs := rfl
@[simp] theorem State.send_out (s : State) (key : List Nat) (target : Nat) (m : Msg) :
    (s.send key target m).out = s.out ++ [⟨s.cyc, key, target, if target = 0 then none else s.linkFor (target - 1), m⟩] := rfl
@[simp] theorem State.send_wait (s : State) (key : List Nat) (target : Nat) (m : Msg) :
    (s.send key target m).wait = s.wait := rfl
@[simp] theorem State.send_readVal (s : State) (key : List Nat) (target : Nat) (m : Msg) :
    (s.send key target m).readVal = s.readVal := rfl
@[simp] theorem State.send_mem (s : State) (key : List Nat) (target : Nat) (m : Msg) :
    (s.send key target m).mem = s.mem := rfl
@[simp] theorem State.send_tags (s : State) (key : List Nat) (target : Nat) (m : Msg) :
    (s.send key target m).tags = s.tags := rfl
@[simp] theorem State.send_pois (s : State) (key : List Nat) (target : Nat) (m : Msg) :
    (s.send key target m).pois = s.pois := rfl
@[simp] theorem State.send_rpois (s : State) (key : List Nat) (target : Nat) (m : Msg) :
    (s.send key target m).rpois = s.rpois := rfl
@[simp] theorem State.send_cores (s : State) (key : List Nat) (target : Nat) (m : Msg) :
    (s.send key target m).cores = s.cores := rfl
@[simp] theorem State.send_dies (s : State) (key : List Nat) (target : Nat) (m : Msg) :
    (s.send key target m).dies = s.dies := rfl
@[simp] theorem State.send_ctl (s : State) (key : List Nat) (target : Nat) (m : Msg) :
    (s.send key target m).ctl = s.ctl := rfl
@[simp] theorem State.send_meas (s : State) (key : List Nat) (target : Nat) (m : Msg) :
    (s.send key target m).meas = s.meas := rfl
@[simp] theorem State.send_ext (s : State) (key : List Nat) (target : Nat) (m : Msg) :
    (s.send key target m).ext = s.ext := rfl
@[simp] theorem State.send_rot (s : State) (key : List Nat) (target : Nat) (m : Msg) :
    (s.send key target m).rot = s.rot := rfl
@[simp] theorem State.send_sq (s : State) (key : List Nat) (target : Nat) (m : Msg) :
    (s.send key target m).sq = s.sq := rfl
@[simp] theorem State.send_tasks (s : State) (key : List Nat) (target : Nat) (m : Msg) :
    (s.send key target m).tasks = s.tasks := rfl
@[simp] theorem State.send_comp (s : State) (key : List Nat) (target : Nat) (m : Msg) :
    (s.send key target m).comp = s.comp := rfl
@[simp] theorem State.send_banks (s : State) (key : List Nat) (target : Nat) (m : Msg) :
    (s.send key target m).banks = s.banks := rfl
@[simp] theorem State.send_bars (s : State) (key : List Nat) (target : Nat) (m : Msg) :
    (s.send key target m).bars = s.bars := rfl
@[simp] theorem State.send_combs (s : State) (key : List Nat) (target : Nat) (m : Msg) :
    (s.send key target m).combs = s.combs := rfl
@[simp] theorem State.send_graphs (s : State) (key : List Nat) (target : Nat) (m : Msg) :
    (s.send key target m).graphs = s.graphs := rfl
@[simp] theorem State.send_rings (s : State) (key : List Nat) (target : Nat) (m : Msg) :
    (s.send key target m).rings = s.rings := rfl
@[simp] theorem State.send_zero (s : State) (key : List Nat) (target : Nat) (m : Msg) :
    (s.send key target m).zero = s.zero := rfl
@[simp] theorem State.send_revoked (s : State) (key : List Nat) (target : Nat) (m : Msg) :
    (s.send key target m).revoked = s.revoked := rfl
@[simp] theorem State.send_quote (s : State) (key : List Nat) (target : Nat) (m : Msg) :
    (s.send key target m).quote = s.quote := rfl
@[simp] theorem State.send_oseq (s : State) (key : List Nat) (target : Nat) (m : Msg) :
    (s.send key target m).oseq = s.oseq := rfl
@[simp] theorem State.send_remap (s : State) (key : List Nat) (target : Nat) (m : Msg) :
    (s.send key target m).remap = s.remap := rfl
@[simp] theorem State.send_seen (s : State) (key : List Nat) (target : Nat) (m : Msg) :
    (s.send key target m).seen = s.seen := rfl
@[simp] theorem State.send_free (s : State) (key : List Nat) (target : Nat) (m : Msg) :
    (s.send key target m).free = s.free := rfl

/-! ### The poison of a granule -/

@[simp] theorem State.setPoison_cyc (s : State) (g : Nat) (b : Bool) :
    (s.setPoison g b).cyc = s.cyc := rfl
@[simp] theorem State.setPoison_ph (s : State) (g : Nat) (b : Bool) :
    (s.setPoison g b).ph = s.ph := rfl
@[simp] theorem State.setPoison_seqNo (s : State) (g : Nat) (b : Bool) :
    (s.setPoison g b).seqNo = s.seqNo := rfl
@[simp] theorem State.setPoison_iss (s : State) (g : Nat) (b : Bool) :
    (s.setPoison g b).iss = s.iss := rfl
@[simp] theorem State.setPoison_cw (s : State) (g : Nat) (b : Bool) :
    (s.setPoison g b).cw = s.cw := rfl
@[simp] theorem State.setPoison_cal (s : State) (g : Nat) (b : Bool) :
    (s.setPoison g b).cal = s.cal := rfl
@[simp] theorem State.setPoison_inputs (s : State) (g : Nat) (b : Bool) :
    (s.setPoison g b).inputs = s.inputs := rfl
@[simp] theorem State.setPoison_out (s : State) (g : Nat) (b : Bool) :
    (s.setPoison g b).out = s.out := rfl
@[simp] theorem State.setPoison_wait (s : State) (g : Nat) (b : Bool) :
    (s.setPoison g b).wait = s.wait := rfl
@[simp] theorem State.setPoison_readVal (s : State) (g : Nat) (b : Bool) :
    (s.setPoison g b).readVal = s.readVal := rfl
@[simp] theorem State.setPoison_mem (s : State) (g : Nat) (b : Bool) :
    (s.setPoison g b).mem = s.mem := rfl
@[simp] theorem State.setPoison_tags (s : State) (g : Nat) (b : Bool) :
    (s.setPoison g b).tags = s.tags := rfl
@[simp] theorem State.setPoison_pois (s : State) (g : Nat) (b : Bool) :
    (s.setPoison g b).pois = if b then poisInsert g s.pois else s.pois.filter (· ≠ g) := rfl
@[simp] theorem State.setPoison_rpois (s : State) (g : Nat) (b : Bool) :
    (s.setPoison g b).rpois = s.rpois.filter (· ≠ g) := rfl
@[simp] theorem State.setPoison_cores (s : State) (g : Nat) (b : Bool) :
    (s.setPoison g b).cores = s.cores := rfl
@[simp] theorem State.setPoison_dies (s : State) (g : Nat) (b : Bool) :
    (s.setPoison g b).dies = s.dies := rfl
@[simp] theorem State.setPoison_ctl (s : State) (g : Nat) (b : Bool) :
    (s.setPoison g b).ctl = s.ctl := rfl
@[simp] theorem State.setPoison_meas (s : State) (g : Nat) (b : Bool) :
    (s.setPoison g b).meas = s.meas := rfl
@[simp] theorem State.setPoison_ext (s : State) (g : Nat) (b : Bool) :
    (s.setPoison g b).ext = s.ext := rfl
@[simp] theorem State.setPoison_rot (s : State) (g : Nat) (b : Bool) :
    (s.setPoison g b).rot = s.rot := rfl
@[simp] theorem State.setPoison_sq (s : State) (g : Nat) (b : Bool) :
    (s.setPoison g b).sq = s.sq := rfl
@[simp] theorem State.setPoison_tasks (s : State) (g : Nat) (b : Bool) :
    (s.setPoison g b).tasks = s.tasks := rfl
@[simp] theorem State.setPoison_comp (s : State) (g : Nat) (b : Bool) :
    (s.setPoison g b).comp = s.comp := rfl
@[simp] theorem State.setPoison_banks (s : State) (g : Nat) (b : Bool) :
    (s.setPoison g b).banks = s.banks := rfl
@[simp] theorem State.setPoison_bars (s : State) (g : Nat) (b : Bool) :
    (s.setPoison g b).bars = s.bars := rfl
@[simp] theorem State.setPoison_combs (s : State) (g : Nat) (b : Bool) :
    (s.setPoison g b).combs = s.combs := rfl
@[simp] theorem State.setPoison_graphs (s : State) (g : Nat) (b : Bool) :
    (s.setPoison g b).graphs = s.graphs := rfl
@[simp] theorem State.setPoison_rings (s : State) (g : Nat) (b : Bool) :
    (s.setPoison g b).rings = s.rings := rfl
@[simp] theorem State.setPoison_zero (s : State) (g : Nat) (b : Bool) :
    (s.setPoison g b).zero = s.zero := rfl
@[simp] theorem State.setPoison_revoked (s : State) (g : Nat) (b : Bool) :
    (s.setPoison g b).revoked = s.revoked := rfl
@[simp] theorem State.setPoison_quote (s : State) (g : Nat) (b : Bool) :
    (s.setPoison g b).quote = s.quote := rfl
@[simp] theorem State.setPoison_oseq (s : State) (g : Nat) (b : Bool) :
    (s.setPoison g b).oseq = s.oseq := rfl
@[simp] theorem State.setPoison_remap (s : State) (g : Nat) (b : Bool) :
    (s.setPoison g b).remap = s.remap := rfl
@[simp] theorem State.setPoison_seen (s : State) (g : Nat) (b : Bool) :
    (s.setPoison g b).seen = s.seen := rfl
@[simp] theorem State.setPoison_free (s : State) (g : Nat) (b : Bool) :
    (s.setPoison g b).free = s.free := rfl

/-! ### A restore poisons a granule -/

@[simp] theorem State.restorePoison_cyc (s : State) (g : Nat) :
    (s.restorePoison g).cyc = s.cyc := rfl
@[simp] theorem State.restorePoison_ph (s : State) (g : Nat) :
    (s.restorePoison g).ph = s.ph := rfl
@[simp] theorem State.restorePoison_seqNo (s : State) (g : Nat) :
    (s.restorePoison g).seqNo = s.seqNo := rfl
@[simp] theorem State.restorePoison_iss (s : State) (g : Nat) :
    (s.restorePoison g).iss = s.iss := rfl
@[simp] theorem State.restorePoison_cw (s : State) (g : Nat) :
    (s.restorePoison g).cw = s.cw := rfl
@[simp] theorem State.restorePoison_cal (s : State) (g : Nat) :
    (s.restorePoison g).cal = s.cal := rfl
@[simp] theorem State.restorePoison_inputs (s : State) (g : Nat) :
    (s.restorePoison g).inputs = s.inputs := rfl
@[simp] theorem State.restorePoison_out (s : State) (g : Nat) :
    (s.restorePoison g).out = s.out := rfl
@[simp] theorem State.restorePoison_wait (s : State) (g : Nat) :
    (s.restorePoison g).wait = s.wait := rfl
@[simp] theorem State.restorePoison_readVal (s : State) (g : Nat) :
    (s.restorePoison g).readVal = s.readVal := rfl
@[simp] theorem State.restorePoison_mem (s : State) (g : Nat) :
    (s.restorePoison g).mem = s.mem := rfl
@[simp] theorem State.restorePoison_tags (s : State) (g : Nat) :
    (s.restorePoison g).tags = s.tags := rfl
@[simp] theorem State.restorePoison_pois (s : State) (g : Nat) :
    (s.restorePoison g).pois = poisInsert g s.pois := rfl
@[simp] theorem State.restorePoison_rpois (s : State) (g : Nat) :
    (s.restorePoison g).rpois = poisInsert g (s.rpois.filter (· ≠ g)) := rfl
@[simp] theorem State.restorePoison_cores (s : State) (g : Nat) :
    (s.restorePoison g).cores = s.cores := rfl
@[simp] theorem State.restorePoison_dies (s : State) (g : Nat) :
    (s.restorePoison g).dies = s.dies := rfl
@[simp] theorem State.restorePoison_ctl (s : State) (g : Nat) :
    (s.restorePoison g).ctl = s.ctl := rfl
@[simp] theorem State.restorePoison_meas (s : State) (g : Nat) :
    (s.restorePoison g).meas = s.meas := rfl
@[simp] theorem State.restorePoison_ext (s : State) (g : Nat) :
    (s.restorePoison g).ext = s.ext := rfl
@[simp] theorem State.restorePoison_rot (s : State) (g : Nat) :
    (s.restorePoison g).rot = s.rot := rfl
@[simp] theorem State.restorePoison_sq (s : State) (g : Nat) :
    (s.restorePoison g).sq = s.sq := rfl
@[simp] theorem State.restorePoison_tasks (s : State) (g : Nat) :
    (s.restorePoison g).tasks = s.tasks := rfl
@[simp] theorem State.restorePoison_comp (s : State) (g : Nat) :
    (s.restorePoison g).comp = s.comp := rfl
@[simp] theorem State.restorePoison_banks (s : State) (g : Nat) :
    (s.restorePoison g).banks = s.banks := rfl
@[simp] theorem State.restorePoison_bars (s : State) (g : Nat) :
    (s.restorePoison g).bars = s.bars := rfl
@[simp] theorem State.restorePoison_combs (s : State) (g : Nat) :
    (s.restorePoison g).combs = s.combs := rfl
@[simp] theorem State.restorePoison_graphs (s : State) (g : Nat) :
    (s.restorePoison g).graphs = s.graphs := rfl
@[simp] theorem State.restorePoison_rings (s : State) (g : Nat) :
    (s.restorePoison g).rings = s.rings := rfl
@[simp] theorem State.restorePoison_zero (s : State) (g : Nat) :
    (s.restorePoison g).zero = s.zero := rfl
@[simp] theorem State.restorePoison_revoked (s : State) (g : Nat) :
    (s.restorePoison g).revoked = s.revoked := rfl
@[simp] theorem State.restorePoison_quote (s : State) (g : Nat) :
    (s.restorePoison g).quote = s.quote := rfl
@[simp] theorem State.restorePoison_oseq (s : State) (g : Nat) :
    (s.restorePoison g).oseq = s.oseq := rfl
@[simp] theorem State.restorePoison_remap (s : State) (g : Nat) :
    (s.restorePoison g).remap = s.remap := rfl
@[simp] theorem State.restorePoison_seen (s : State) (g : Nat) :
    (s.restorePoison g).seen = s.seen := rfl
@[simp] theorem State.restorePoison_free (s : State) (g : Nat) :
    (s.restorePoison g).free = s.free := rfl

/-! ### A request waits for its turn -/

@[simp] theorem State.wants_cyc (s : State) (at_ : Nat) (key : List Nat) (target : Nat) (m : Msg) :
    (s.wants at_ key target m).cyc = s.cyc := rfl
@[simp] theorem State.wants_ph (s : State) (at_ : Nat) (key : List Nat) (target : Nat) (m : Msg) :
    (s.wants at_ key target m).ph = s.ph := rfl
@[simp] theorem State.wants_seqNo (s : State) (at_ : Nat) (key : List Nat) (target : Nat) (m : Msg) :
    (s.wants at_ key target m).seqNo = s.seqNo := rfl
@[simp] theorem State.wants_iss (s : State) (at_ : Nat) (key : List Nat) (target : Nat) (m : Msg) :
    (s.wants at_ key target m).iss = s.iss := rfl
@[simp] theorem State.wants_cw (s : State) (at_ : Nat) (key : List Nat) (target : Nat) (m : Msg) :
    (s.wants at_ key target m).cw = s.cw := rfl
@[simp] theorem State.wants_cal (s : State) (at_ : Nat) (key : List Nat) (target : Nat) (m : Msg) :
    (s.wants at_ key target m).cal = s.cal := rfl
@[simp] theorem State.wants_inputs (s : State) (at_ : Nat) (key : List Nat) (target : Nat) (m : Msg) :
    (s.wants at_ key target m).inputs = s.inputs := rfl
@[simp] theorem State.wants_out (s : State) (at_ : Nat) (key : List Nat) (target : Nat) (m : Msg) :
    (s.wants at_ key target m).out = s.out := rfl
@[simp] theorem State.wants_wait (s : State) (at_ : Nat) (key : List Nat) (target : Nat) (m : Msg) :
    (s.wants at_ key target m).wait = waitInsert ⟨at_, key, target, none, m⟩ s.wait := rfl
@[simp] theorem State.wants_readVal (s : State) (at_ : Nat) (key : List Nat) (target : Nat) (m : Msg) :
    (s.wants at_ key target m).readVal = s.readVal := rfl
@[simp] theorem State.wants_mem (s : State) (at_ : Nat) (key : List Nat) (target : Nat) (m : Msg) :
    (s.wants at_ key target m).mem = s.mem := rfl
@[simp] theorem State.wants_tags (s : State) (at_ : Nat) (key : List Nat) (target : Nat) (m : Msg) :
    (s.wants at_ key target m).tags = s.tags := rfl
@[simp] theorem State.wants_pois (s : State) (at_ : Nat) (key : List Nat) (target : Nat) (m : Msg) :
    (s.wants at_ key target m).pois = s.pois := rfl
@[simp] theorem State.wants_rpois (s : State) (at_ : Nat) (key : List Nat) (target : Nat) (m : Msg) :
    (s.wants at_ key target m).rpois = s.rpois := rfl
@[simp] theorem State.wants_cores (s : State) (at_ : Nat) (key : List Nat) (target : Nat) (m : Msg) :
    (s.wants at_ key target m).cores = s.cores := rfl
@[simp] theorem State.wants_dies (s : State) (at_ : Nat) (key : List Nat) (target : Nat) (m : Msg) :
    (s.wants at_ key target m).dies = s.dies := rfl
@[simp] theorem State.wants_ctl (s : State) (at_ : Nat) (key : List Nat) (target : Nat) (m : Msg) :
    (s.wants at_ key target m).ctl = s.ctl := rfl
@[simp] theorem State.wants_meas (s : State) (at_ : Nat) (key : List Nat) (target : Nat) (m : Msg) :
    (s.wants at_ key target m).meas = s.meas := rfl
@[simp] theorem State.wants_ext (s : State) (at_ : Nat) (key : List Nat) (target : Nat) (m : Msg) :
    (s.wants at_ key target m).ext = s.ext := rfl
@[simp] theorem State.wants_rot (s : State) (at_ : Nat) (key : List Nat) (target : Nat) (m : Msg) :
    (s.wants at_ key target m).rot = s.rot := rfl
@[simp] theorem State.wants_sq (s : State) (at_ : Nat) (key : List Nat) (target : Nat) (m : Msg) :
    (s.wants at_ key target m).sq = s.sq := rfl
@[simp] theorem State.wants_tasks (s : State) (at_ : Nat) (key : List Nat) (target : Nat) (m : Msg) :
    (s.wants at_ key target m).tasks = s.tasks := rfl
@[simp] theorem State.wants_comp (s : State) (at_ : Nat) (key : List Nat) (target : Nat) (m : Msg) :
    (s.wants at_ key target m).comp = s.comp := rfl
@[simp] theorem State.wants_banks (s : State) (at_ : Nat) (key : List Nat) (target : Nat) (m : Msg) :
    (s.wants at_ key target m).banks = s.banks := rfl
@[simp] theorem State.wants_bars (s : State) (at_ : Nat) (key : List Nat) (target : Nat) (m : Msg) :
    (s.wants at_ key target m).bars = s.bars := rfl
@[simp] theorem State.wants_combs (s : State) (at_ : Nat) (key : List Nat) (target : Nat) (m : Msg) :
    (s.wants at_ key target m).combs = s.combs := rfl
@[simp] theorem State.wants_graphs (s : State) (at_ : Nat) (key : List Nat) (target : Nat) (m : Msg) :
    (s.wants at_ key target m).graphs = s.graphs := rfl
@[simp] theorem State.wants_rings (s : State) (at_ : Nat) (key : List Nat) (target : Nat) (m : Msg) :
    (s.wants at_ key target m).rings = s.rings := rfl
@[simp] theorem State.wants_zero (s : State) (at_ : Nat) (key : List Nat) (target : Nat) (m : Msg) :
    (s.wants at_ key target m).zero = s.zero := rfl
@[simp] theorem State.wants_revoked (s : State) (at_ : Nat) (key : List Nat) (target : Nat) (m : Msg) :
    (s.wants at_ key target m).revoked = s.revoked := rfl
@[simp] theorem State.wants_quote (s : State) (at_ : Nat) (key : List Nat) (target : Nat) (m : Msg) :
    (s.wants at_ key target m).quote = s.quote := rfl
@[simp] theorem State.wants_oseq (s : State) (at_ : Nat) (key : List Nat) (target : Nat) (m : Msg) :
    (s.wants at_ key target m).oseq = s.oseq := rfl
@[simp] theorem State.wants_remap (s : State) (at_ : Nat) (key : List Nat) (target : Nat) (m : Msg) :
    (s.wants at_ key target m).remap = s.remap := rfl
@[simp] theorem State.wants_seen (s : State) (at_ : Nat) (key : List Nat) (target : Nat) (m : Msg) :
    (s.wants at_ key target m).seen = s.seen := rfl
@[simp] theorem State.wants_free (s : State) (at_ : Nat) (key : List Nat) (target : Nat) (m : Msg) :
    (s.wants at_ key target m).free = s.free := rfl

/-! ### The tag of a granule -/

@[simp] theorem State.setTag_cyc (s : State) (g t : Nat) :
    (s.setTag g t).cyc = s.cyc := rfl
@[simp] theorem State.setTag_ph (s : State) (g t : Nat) :
    (s.setTag g t).ph = s.ph := rfl
@[simp] theorem State.setTag_seqNo (s : State) (g t : Nat) :
    (s.setTag g t).seqNo = s.seqNo := rfl
@[simp] theorem State.setTag_iss (s : State) (g t : Nat) :
    (s.setTag g t).iss = s.iss := rfl
@[simp] theorem State.setTag_cw (s : State) (g t : Nat) :
    (s.setTag g t).cw = s.cw := rfl
@[simp] theorem State.setTag_cal (s : State) (g t : Nat) :
    (s.setTag g t).cal = s.cal := rfl
@[simp] theorem State.setTag_inputs (s : State) (g t : Nat) :
    (s.setTag g t).inputs = s.inputs := rfl
@[simp] theorem State.setTag_out (s : State) (g t : Nat) :
    (s.setTag g t).out = s.out := rfl
@[simp] theorem State.setTag_wait (s : State) (g t : Nat) :
    (s.setTag g t).wait = s.wait := rfl
@[simp] theorem State.setTag_readVal (s : State) (g t : Nat) :
    (s.setTag g t).readVal = s.readVal := rfl
@[simp] theorem State.setTag_mem (s : State) (g t : Nat) :
    (s.setTag g t).mem = s.mem := rfl
@[simp] theorem State.setTag_tags (s : State) (g t : Nat) :
    (s.setTag g t).tags = if t = 0 then adel s.tags g else aset s.tags g t := rfl
@[simp] theorem State.setTag_pois (s : State) (g t : Nat) :
    (s.setTag g t).pois = s.pois := rfl
@[simp] theorem State.setTag_rpois (s : State) (g t : Nat) :
    (s.setTag g t).rpois = s.rpois := rfl
@[simp] theorem State.setTag_cores (s : State) (g t : Nat) :
    (s.setTag g t).cores = s.cores := rfl
@[simp] theorem State.setTag_dies (s : State) (g t : Nat) :
    (s.setTag g t).dies = s.dies := rfl
@[simp] theorem State.setTag_ctl (s : State) (g t : Nat) :
    (s.setTag g t).ctl = s.ctl := rfl
@[simp] theorem State.setTag_meas (s : State) (g t : Nat) :
    (s.setTag g t).meas = s.meas := rfl
@[simp] theorem State.setTag_ext (s : State) (g t : Nat) :
    (s.setTag g t).ext = s.ext := rfl
@[simp] theorem State.setTag_rot (s : State) (g t : Nat) :
    (s.setTag g t).rot = s.rot := rfl
@[simp] theorem State.setTag_sq (s : State) (g t : Nat) :
    (s.setTag g t).sq = s.sq := rfl
@[simp] theorem State.setTag_tasks (s : State) (g t : Nat) :
    (s.setTag g t).tasks = s.tasks := rfl
@[simp] theorem State.setTag_comp (s : State) (g t : Nat) :
    (s.setTag g t).comp = s.comp := rfl
@[simp] theorem State.setTag_banks (s : State) (g t : Nat) :
    (s.setTag g t).banks = s.banks := rfl
@[simp] theorem State.setTag_bars (s : State) (g t : Nat) :
    (s.setTag g t).bars = s.bars := rfl
@[simp] theorem State.setTag_combs (s : State) (g t : Nat) :
    (s.setTag g t).combs = s.combs := rfl
@[simp] theorem State.setTag_graphs (s : State) (g t : Nat) :
    (s.setTag g t).graphs = s.graphs := rfl
@[simp] theorem State.setTag_rings (s : State) (g t : Nat) :
    (s.setTag g t).rings = s.rings := rfl
@[simp] theorem State.setTag_zero (s : State) (g t : Nat) :
    (s.setTag g t).zero = s.zero := rfl
@[simp] theorem State.setTag_revoked (s : State) (g t : Nat) :
    (s.setTag g t).revoked = s.revoked := rfl
@[simp] theorem State.setTag_quote (s : State) (g t : Nat) :
    (s.setTag g t).quote = s.quote := rfl
@[simp] theorem State.setTag_oseq (s : State) (g t : Nat) :
    (s.setTag g t).oseq = s.oseq := rfl
@[simp] theorem State.setTag_remap (s : State) (g t : Nat) :
    (s.setTag g t).remap = s.remap := rfl
@[simp] theorem State.setTag_seen (s : State) (g t : Nat) :
    (s.setTag g t).seen = s.seen := rfl
@[simp] theorem State.setTag_free (s : State) (g t : Nat) :
    (s.setTag g t).free = s.free := rfl

/-! ### A fault is raised at point I -/

@[simp] theorem State.raise_cyc (s : State) (t : Trap) :
    (s.raise t).cyc = s.cyc := rfl
@[simp] theorem State.raise_ph (s : State) (t : Trap) :
    (s.raise t).ph = s.ph := rfl
@[simp] theorem State.raise_seqNo (s : State) (t : Trap) :
    (s.raise t).seqNo = s.seqNo := rfl
@[simp] theorem State.raise_iss (s : State) (t : Trap) :
    (s.raise t).iss = { s.iss with fault := match s.iss.fault with | none => some t | some f => some f } := rfl
@[simp] theorem State.raise_cw (s : State) (t : Trap) :
    (s.raise t).cw = s.cw := rfl
@[simp] theorem State.raise_cal (s : State) (t : Trap) :
    (s.raise t).cal = s.cal := rfl
@[simp] theorem State.raise_inputs (s : State) (t : Trap) :
    (s.raise t).inputs = s.inputs := rfl
@[simp] theorem State.raise_out (s : State) (t : Trap) :
    (s.raise t).out = s.out := rfl
@[simp] theorem State.raise_wait (s : State) (t : Trap) :
    (s.raise t).wait = s.wait := rfl
@[simp] theorem State.raise_readVal (s : State) (t : Trap) :
    (s.raise t).readVal = s.readVal := rfl
@[simp] theorem State.raise_mem (s : State) (t : Trap) :
    (s.raise t).mem = s.mem := rfl
@[simp] theorem State.raise_tags (s : State) (t : Trap) :
    (s.raise t).tags = s.tags := rfl
@[simp] theorem State.raise_pois (s : State) (t : Trap) :
    (s.raise t).pois = s.pois := rfl
@[simp] theorem State.raise_rpois (s : State) (t : Trap) :
    (s.raise t).rpois = s.rpois := rfl
@[simp] theorem State.raise_cores (s : State) (t : Trap) :
    (s.raise t).cores = s.cores := rfl
@[simp] theorem State.raise_dies (s : State) (t : Trap) :
    (s.raise t).dies = s.dies := rfl
@[simp] theorem State.raise_ctl (s : State) (t : Trap) :
    (s.raise t).ctl = s.ctl := rfl
@[simp] theorem State.raise_meas (s : State) (t : Trap) :
    (s.raise t).meas = s.meas := rfl
@[simp] theorem State.raise_ext (s : State) (t : Trap) :
    (s.raise t).ext = s.ext := rfl
@[simp] theorem State.raise_rot (s : State) (t : Trap) :
    (s.raise t).rot = s.rot := rfl
@[simp] theorem State.raise_sq (s : State) (t : Trap) :
    (s.raise t).sq = s.sq := rfl
@[simp] theorem State.raise_tasks (s : State) (t : Trap) :
    (s.raise t).tasks = s.tasks := rfl
@[simp] theorem State.raise_comp (s : State) (t : Trap) :
    (s.raise t).comp = s.comp := rfl
@[simp] theorem State.raise_banks (s : State) (t : Trap) :
    (s.raise t).banks = s.banks := rfl
@[simp] theorem State.raise_bars (s : State) (t : Trap) :
    (s.raise t).bars = s.bars := rfl
@[simp] theorem State.raise_combs (s : State) (t : Trap) :
    (s.raise t).combs = s.combs := rfl
@[simp] theorem State.raise_graphs (s : State) (t : Trap) :
    (s.raise t).graphs = s.graphs := rfl
@[simp] theorem State.raise_rings (s : State) (t : Trap) :
    (s.raise t).rings = s.rings := rfl
@[simp] theorem State.raise_zero (s : State) (t : Trap) :
    (s.raise t).zero = s.zero := rfl
@[simp] theorem State.raise_revoked (s : State) (t : Trap) :
    (s.raise t).revoked = s.revoked := rfl
@[simp] theorem State.raise_quote (s : State) (t : Trap) :
    (s.raise t).quote = s.quote := rfl
@[simp] theorem State.raise_oseq (s : State) (t : Trap) :
    (s.raise t).oseq = s.oseq := rfl
@[simp] theorem State.raise_remap (s : State) (t : Trap) :
    (s.raise t).remap = s.remap := rfl
@[simp] theorem State.raise_seen (s : State) (t : Trap) :
    (s.raise t).seen = s.seen := rfl
@[simp] theorem State.raise_free (s : State) (t : Trap) :
    (s.raise t).free = s.free := rfl

/-! ### A fault is raised at point I -/

@[simp] theorem State.raiseFlt_cyc (s : State) (f : Flt) :
    (s.raiseFlt f).cyc = s.cyc := rfl
@[simp] theorem State.raiseFlt_ph (s : State) (f : Flt) :
    (s.raiseFlt f).ph = s.ph := rfl
@[simp] theorem State.raiseFlt_seqNo (s : State) (f : Flt) :
    (s.raiseFlt f).seqNo = s.seqNo := rfl
@[simp] theorem State.raiseFlt_iss (s : State) (f : Flt) :
    (s.raiseFlt f).iss = (s.raise (s.mkTrap f.code f.sub f.info0 f.info1)).iss := rfl
@[simp] theorem State.raiseFlt_cw (s : State) (f : Flt) :
    (s.raiseFlt f).cw = s.cw := rfl
@[simp] theorem State.raiseFlt_cal (s : State) (f : Flt) :
    (s.raiseFlt f).cal = s.cal := rfl
@[simp] theorem State.raiseFlt_inputs (s : State) (f : Flt) :
    (s.raiseFlt f).inputs = s.inputs := rfl
@[simp] theorem State.raiseFlt_out (s : State) (f : Flt) :
    (s.raiseFlt f).out = s.out := rfl
@[simp] theorem State.raiseFlt_wait (s : State) (f : Flt) :
    (s.raiseFlt f).wait = s.wait := rfl
@[simp] theorem State.raiseFlt_readVal (s : State) (f : Flt) :
    (s.raiseFlt f).readVal = s.readVal := rfl
@[simp] theorem State.raiseFlt_mem (s : State) (f : Flt) :
    (s.raiseFlt f).mem = s.mem := rfl
@[simp] theorem State.raiseFlt_tags (s : State) (f : Flt) :
    (s.raiseFlt f).tags = s.tags := rfl
@[simp] theorem State.raiseFlt_pois (s : State) (f : Flt) :
    (s.raiseFlt f).pois = s.pois := rfl
@[simp] theorem State.raiseFlt_rpois (s : State) (f : Flt) :
    (s.raiseFlt f).rpois = s.rpois := rfl
@[simp] theorem State.raiseFlt_cores (s : State) (f : Flt) :
    (s.raiseFlt f).cores = s.cores := rfl
@[simp] theorem State.raiseFlt_dies (s : State) (f : Flt) :
    (s.raiseFlt f).dies = s.dies := rfl
@[simp] theorem State.raiseFlt_ctl (s : State) (f : Flt) :
    (s.raiseFlt f).ctl = s.ctl := rfl
@[simp] theorem State.raiseFlt_meas (s : State) (f : Flt) :
    (s.raiseFlt f).meas = s.meas := rfl
@[simp] theorem State.raiseFlt_ext (s : State) (f : Flt) :
    (s.raiseFlt f).ext = s.ext := rfl
@[simp] theorem State.raiseFlt_rot (s : State) (f : Flt) :
    (s.raiseFlt f).rot = s.rot := rfl
@[simp] theorem State.raiseFlt_sq (s : State) (f : Flt) :
    (s.raiseFlt f).sq = s.sq := rfl
@[simp] theorem State.raiseFlt_tasks (s : State) (f : Flt) :
    (s.raiseFlt f).tasks = s.tasks := rfl
@[simp] theorem State.raiseFlt_comp (s : State) (f : Flt) :
    (s.raiseFlt f).comp = s.comp := rfl
@[simp] theorem State.raiseFlt_banks (s : State) (f : Flt) :
    (s.raiseFlt f).banks = s.banks := rfl
@[simp] theorem State.raiseFlt_bars (s : State) (f : Flt) :
    (s.raiseFlt f).bars = s.bars := rfl
@[simp] theorem State.raiseFlt_combs (s : State) (f : Flt) :
    (s.raiseFlt f).combs = s.combs := rfl
@[simp] theorem State.raiseFlt_graphs (s : State) (f : Flt) :
    (s.raiseFlt f).graphs = s.graphs := rfl
@[simp] theorem State.raiseFlt_rings (s : State) (f : Flt) :
    (s.raiseFlt f).rings = s.rings := rfl
@[simp] theorem State.raiseFlt_zero (s : State) (f : Flt) :
    (s.raiseFlt f).zero = s.zero := rfl
@[simp] theorem State.raiseFlt_revoked (s : State) (f : Flt) :
    (s.raiseFlt f).revoked = s.revoked := rfl
@[simp] theorem State.raiseFlt_quote (s : State) (f : Flt) :
    (s.raiseFlt f).quote = s.quote := rfl
@[simp] theorem State.raiseFlt_oseq (s : State) (f : Flt) :
    (s.raiseFlt f).oseq = s.oseq := rfl
@[simp] theorem State.raiseFlt_remap (s : State) (f : Flt) :
    (s.raiseFlt f).remap = s.remap := rfl
@[simp] theorem State.raiseFlt_seen (s : State) (f : Flt) :
    (s.raiseFlt f).seen = s.seen := rfl
@[simp] theorem State.raiseFlt_free (s : State) (f : Flt) :
    (s.raiseFlt f).free = s.free := rfl

/-! ### A task changes -/

@[simp] theorem State.modTask_cyc (s : State) (id : Nat) (f : Task → Task) :
    (s.modTask id f).cyc = s.cyc := rfl
@[simp] theorem State.modTask_ph (s : State) (id : Nat) (f : Task → Task) :
    (s.modTask id f).ph = s.ph := rfl
@[simp] theorem State.modTask_seqNo (s : State) (id : Nat) (f : Task → Task) :
    (s.modTask id f).seqNo = s.seqNo := rfl
@[simp] theorem State.modTask_iss (s : State) (id : Nat) (f : Task → Task) :
    (s.modTask id f).iss = s.iss := rfl
@[simp] theorem State.modTask_cw (s : State) (id : Nat) (f : Task → Task) :
    (s.modTask id f).cw = s.cw := rfl
@[simp] theorem State.modTask_cal (s : State) (id : Nat) (f : Task → Task) :
    (s.modTask id f).cal = s.cal := rfl
@[simp] theorem State.modTask_inputs (s : State) (id : Nat) (f : Task → Task) :
    (s.modTask id f).inputs = s.inputs := rfl
@[simp] theorem State.modTask_out (s : State) (id : Nat) (f : Task → Task) :
    (s.modTask id f).out = s.out := rfl
@[simp] theorem State.modTask_wait (s : State) (id : Nat) (f : Task → Task) :
    (s.modTask id f).wait = s.wait := rfl
@[simp] theorem State.modTask_readVal (s : State) (id : Nat) (f : Task → Task) :
    (s.modTask id f).readVal = s.readVal := rfl
@[simp] theorem State.modTask_mem (s : State) (id : Nat) (f : Task → Task) :
    (s.modTask id f).mem = s.mem := rfl
@[simp] theorem State.modTask_tags (s : State) (id : Nat) (f : Task → Task) :
    (s.modTask id f).tags = s.tags := rfl
@[simp] theorem State.modTask_pois (s : State) (id : Nat) (f : Task → Task) :
    (s.modTask id f).pois = s.pois := rfl
@[simp] theorem State.modTask_rpois (s : State) (id : Nat) (f : Task → Task) :
    (s.modTask id f).rpois = s.rpois := rfl
@[simp] theorem State.modTask_cores (s : State) (id : Nat) (f : Task → Task) :
    (s.modTask id f).cores = s.cores := rfl
@[simp] theorem State.modTask_dies (s : State) (id : Nat) (f : Task → Task) :
    (s.modTask id f).dies = s.dies := rfl
@[simp] theorem State.modTask_ctl (s : State) (id : Nat) (f : Task → Task) :
    (s.modTask id f).ctl = s.ctl := rfl
@[simp] theorem State.modTask_meas (s : State) (id : Nat) (f : Task → Task) :
    (s.modTask id f).meas = s.meas := rfl
@[simp] theorem State.modTask_ext (s : State) (id : Nat) (f : Task → Task) :
    (s.modTask id f).ext = s.ext := rfl
@[simp] theorem State.modTask_rot (s : State) (id : Nat) (f : Task → Task) :
    (s.modTask id f).rot = s.rot := rfl
@[simp] theorem State.modTask_sq (s : State) (id : Nat) (f : Task → Task) :
    (s.modTask id f).sq = s.sq := rfl
@[simp] theorem State.modTask_tasks (s : State) (id : Nat) (f : Task → Task) :
    (s.modTask id f).tasks = s.tasks.map fun t => if t.id = id then f t else t := rfl
@[simp] theorem State.modTask_comp (s : State) (id : Nat) (f : Task → Task) :
    (s.modTask id f).comp = s.comp := rfl
@[simp] theorem State.modTask_banks (s : State) (id : Nat) (f : Task → Task) :
    (s.modTask id f).banks = s.banks := rfl
@[simp] theorem State.modTask_bars (s : State) (id : Nat) (f : Task → Task) :
    (s.modTask id f).bars = s.bars := rfl
@[simp] theorem State.modTask_combs (s : State) (id : Nat) (f : Task → Task) :
    (s.modTask id f).combs = s.combs := rfl
@[simp] theorem State.modTask_graphs (s : State) (id : Nat) (f : Task → Task) :
    (s.modTask id f).graphs = s.graphs := rfl
@[simp] theorem State.modTask_rings (s : State) (id : Nat) (f : Task → Task) :
    (s.modTask id f).rings = s.rings := rfl
@[simp] theorem State.modTask_zero (s : State) (id : Nat) (f : Task → Task) :
    (s.modTask id f).zero = s.zero := rfl
@[simp] theorem State.modTask_revoked (s : State) (id : Nat) (f : Task → Task) :
    (s.modTask id f).revoked = s.revoked := rfl
@[simp] theorem State.modTask_quote (s : State) (id : Nat) (f : Task → Task) :
    (s.modTask id f).quote = s.quote := rfl
@[simp] theorem State.modTask_oseq (s : State) (id : Nat) (f : Task → Task) :
    (s.modTask id f).oseq = s.oseq := rfl
@[simp] theorem State.modTask_remap (s : State) (id : Nat) (f : Task → Task) :
    (s.modTask id f).remap = s.remap := rfl
@[simp] theorem State.modTask_seen (s : State) (id : Nat) (f : Task → Task) :
    (s.modTask id f).seen = s.seen := rfl
@[simp] theorem State.modTask_free (s : State) (id : Nat) (f : Task → Task) :
    (s.modTask id f).free = s.free := rfl

/-! ### A result is put in flight -/

@[simp] theorem State.flight_cyc (s : State) (w : Cube) (due : Nat) (c : RCls) (reg : Nat) (pairs : List Pair) :
    (s.flight w due c reg pairs).cyc = s.cyc := rfl
@[simp] theorem State.flight_ph (s : State) (w : Cube) (due : Nat) (c : RCls) (reg : Nat) (pairs : List Pair) :
    (s.flight w due c reg pairs).ph = s.ph := rfl
@[simp] theorem State.flight_seqNo (s : State) (w : Cube) (due : Nat) (c : RCls) (reg : Nat) (pairs : List Pair) :
    (s.flight w due c reg pairs).seqNo = s.seqNo + 1 := rfl
@[simp] theorem State.flight_iss (s : State) (w : Cube) (due : Nat) (c : RCls) (reg : Nat) (pairs : List Pair) :
    (s.flight w due c reg pairs).iss = s.iss := rfl
@[simp] theorem State.flight_cw (s : State) (w : Cube) (due : Nat) (c : RCls) (reg : Nat) (pairs : List Pair) :
    (s.flight w due c reg pairs).cw = s.cw := rfl
@[simp] theorem State.flight_cal (s : State) (w : Cube) (due : Nat) (c : RCls) (reg : Nat) (pairs : List Pair) :
    (s.flight w due c reg pairs).cal = calInsert ⟨due, phLand, s.iss.core, s.iss.ctx, s.seqNo + 1,
      .resultLanding s.iss.core s.iss.ctx (s.seqNo + 1), CtlAcc.reset⟩ s.cal := rfl
@[simp] theorem State.flight_inputs (s : State) (w : Cube) (due : Nat) (c : RCls) (reg : Nat) (pairs : List Pair) :
    (s.flight w due c reg pairs).inputs = s.inputs := rfl
@[simp] theorem State.flight_out (s : State) (w : Cube) (due : Nat) (c : RCls) (reg : Nat) (pairs : List Pair) :
    (s.flight w due c reg pairs).out = s.out := rfl
@[simp] theorem State.flight_wait (s : State) (w : Cube) (due : Nat) (c : RCls) (reg : Nat) (pairs : List Pair) :
    (s.flight w due c reg pairs).wait = s.wait := rfl
@[simp] theorem State.flight_readVal (s : State) (w : Cube) (due : Nat) (c : RCls) (reg : Nat) (pairs : List Pair) :
    (s.flight w due c reg pairs).readVal = s.readVal := rfl
@[simp] theorem State.flight_mem (s : State) (w : Cube) (due : Nat) (c : RCls) (reg : Nat) (pairs : List Pair) :
    (s.flight w due c reg pairs).mem = s.mem := rfl
@[simp] theorem State.flight_tags (s : State) (w : Cube) (due : Nat) (c : RCls) (reg : Nat) (pairs : List Pair) :
    (s.flight w due c reg pairs).tags = s.tags := rfl
@[simp] theorem State.flight_pois (s : State) (w : Cube) (due : Nat) (c : RCls) (reg : Nat) (pairs : List Pair) :
    (s.flight w due c reg pairs).pois = s.pois := rfl
@[simp] theorem State.flight_rpois (s : State) (w : Cube) (due : Nat) (c : RCls) (reg : Nat) (pairs : List Pair) :
    (s.flight w due c reg pairs).rpois = s.rpois := rfl
@[simp] theorem State.flight_dies (s : State) (w : Cube) (due : Nat) (c : RCls) (reg : Nat) (pairs : List Pair) :
    (s.flight w due c reg pairs).dies = s.dies := rfl
@[simp] theorem State.flight_ctl (s : State) (w : Cube) (due : Nat) (c : RCls) (reg : Nat) (pairs : List Pair) :
    (s.flight w due c reg pairs).ctl = s.ctl := rfl
@[simp] theorem State.flight_meas (s : State) (w : Cube) (due : Nat) (c : RCls) (reg : Nat) (pairs : List Pair) :
    (s.flight w due c reg pairs).meas = s.meas := rfl
@[simp] theorem State.flight_ext (s : State) (w : Cube) (due : Nat) (c : RCls) (reg : Nat) (pairs : List Pair) :
    (s.flight w due c reg pairs).ext = s.ext := rfl
@[simp] theorem State.flight_rot (s : State) (w : Cube) (due : Nat) (c : RCls) (reg : Nat) (pairs : List Pair) :
    (s.flight w due c reg pairs).rot = s.rot := rfl
@[simp] theorem State.flight_sq (s : State) (w : Cube) (due : Nat) (c : RCls) (reg : Nat) (pairs : List Pair) :
    (s.flight w due c reg pairs).sq = s.sq := rfl
@[simp] theorem State.flight_tasks (s : State) (w : Cube) (due : Nat) (c : RCls) (reg : Nat) (pairs : List Pair) :
    (s.flight w due c reg pairs).tasks = s.tasks := rfl
@[simp] theorem State.flight_comp (s : State) (w : Cube) (due : Nat) (c : RCls) (reg : Nat) (pairs : List Pair) :
    (s.flight w due c reg pairs).comp = s.comp := rfl
@[simp] theorem State.flight_banks (s : State) (w : Cube) (due : Nat) (c : RCls) (reg : Nat) (pairs : List Pair) :
    (s.flight w due c reg pairs).banks = s.banks := rfl
@[simp] theorem State.flight_bars (s : State) (w : Cube) (due : Nat) (c : RCls) (reg : Nat) (pairs : List Pair) :
    (s.flight w due c reg pairs).bars = s.bars := rfl
@[simp] theorem State.flight_combs (s : State) (w : Cube) (due : Nat) (c : RCls) (reg : Nat) (pairs : List Pair) :
    (s.flight w due c reg pairs).combs = s.combs := rfl
@[simp] theorem State.flight_graphs (s : State) (w : Cube) (due : Nat) (c : RCls) (reg : Nat) (pairs : List Pair) :
    (s.flight w due c reg pairs).graphs = s.graphs := rfl
@[simp] theorem State.flight_rings (s : State) (w : Cube) (due : Nat) (c : RCls) (reg : Nat) (pairs : List Pair) :
    (s.flight w due c reg pairs).rings = s.rings := rfl
@[simp] theorem State.flight_zero (s : State) (w : Cube) (due : Nat) (c : RCls) (reg : Nat) (pairs : List Pair) :
    (s.flight w due c reg pairs).zero = s.zero := rfl
@[simp] theorem State.flight_revoked (s : State) (w : Cube) (due : Nat) (c : RCls) (reg : Nat) (pairs : List Pair) :
    (s.flight w due c reg pairs).revoked = s.revoked := rfl
@[simp] theorem State.flight_quote (s : State) (w : Cube) (due : Nat) (c : RCls) (reg : Nat) (pairs : List Pair) :
    (s.flight w due c reg pairs).quote = s.quote := rfl
@[simp] theorem State.flight_oseq (s : State) (w : Cube) (due : Nat) (c : RCls) (reg : Nat) (pairs : List Pair) :
    (s.flight w due c reg pairs).oseq = s.oseq := rfl
@[simp] theorem State.flight_remap (s : State) (w : Cube) (due : Nat) (c : RCls) (reg : Nat) (pairs : List Pair) :
    (s.flight w due c reg pairs).remap = s.remap := rfl
@[simp] theorem State.flight_seen (s : State) (w : Cube) (due : Nat) (c : RCls) (reg : Nat) (pairs : List Pair) :
    (s.flight w due c reg pairs).seen = s.seen := rfl
@[simp] theorem State.flight_free (s : State) (w : Cube) (due : Nat) (c : RCls) (reg : Nat) (pairs : List Pair) :
    (s.flight w due c reg pairs).free = s.free := rfl

/-! ### A guard opens -/

@[simp] theorem State.openAt_cyc (s : State) (gd due : Nat) (op : GOp) (args : List GArg) :
    (s.openAt gd due op args).cyc = s.cyc := rfl
@[simp] theorem State.openAt_ph (s : State) (gd due : Nat) (op : GOp) (args : List GArg) :
    (s.openAt gd due op args).ph = s.ph := rfl
@[simp] theorem State.openAt_seqNo (s : State) (gd due : Nat) (op : GOp) (args : List GArg) :
    (s.openAt gd due op args).seqNo = s.seqNo + 1 := rfl
@[simp] theorem State.openAt_iss (s : State) (gd due : Nat) (op : GOp) (args : List GArg) :
    (s.openAt gd due op args).iss = s.iss := rfl
@[simp] theorem State.openAt_cw (s : State) (gd due : Nat) (op : GOp) (args : List GArg) :
    (s.openAt gd due op args).cw = s.cw := rfl
@[simp] theorem State.openAt_cal (s : State) (gd due : Nat) (op : GOp) (args : List GArg) :
    (s.openAt gd due op args).cal = calInsert ⟨due, phGuard, s.iss.core, s.iss.ctx, s.seqNo + 1,
      .guardLanding s.iss.core s.iss.ctx gd, CtlAcc.reset⟩ s.cal := rfl
@[simp] theorem State.openAt_inputs (s : State) (gd due : Nat) (op : GOp) (args : List GArg) :
    (s.openAt gd due op args).inputs = s.inputs := rfl
@[simp] theorem State.openAt_out (s : State) (gd due : Nat) (op : GOp) (args : List GArg) :
    (s.openAt gd due op args).out = s.out := rfl
@[simp] theorem State.openAt_wait (s : State) (gd due : Nat) (op : GOp) (args : List GArg) :
    (s.openAt gd due op args).wait = s.wait := rfl
@[simp] theorem State.openAt_readVal (s : State) (gd due : Nat) (op : GOp) (args : List GArg) :
    (s.openAt gd due op args).readVal = s.readVal := rfl
@[simp] theorem State.openAt_mem (s : State) (gd due : Nat) (op : GOp) (args : List GArg) :
    (s.openAt gd due op args).mem = s.mem := rfl
@[simp] theorem State.openAt_tags (s : State) (gd due : Nat) (op : GOp) (args : List GArg) :
    (s.openAt gd due op args).tags = s.tags := rfl
@[simp] theorem State.openAt_pois (s : State) (gd due : Nat) (op : GOp) (args : List GArg) :
    (s.openAt gd due op args).pois = s.pois := rfl
@[simp] theorem State.openAt_rpois (s : State) (gd due : Nat) (op : GOp) (args : List GArg) :
    (s.openAt gd due op args).rpois = s.rpois := rfl
@[simp] theorem State.openAt_dies (s : State) (gd due : Nat) (op : GOp) (args : List GArg) :
    (s.openAt gd due op args).dies = s.dies := rfl
@[simp] theorem State.openAt_ctl (s : State) (gd due : Nat) (op : GOp) (args : List GArg) :
    (s.openAt gd due op args).ctl = s.ctl := rfl
@[simp] theorem State.openAt_meas (s : State) (gd due : Nat) (op : GOp) (args : List GArg) :
    (s.openAt gd due op args).meas = s.meas := rfl
@[simp] theorem State.openAt_ext (s : State) (gd due : Nat) (op : GOp) (args : List GArg) :
    (s.openAt gd due op args).ext = s.ext := rfl
@[simp] theorem State.openAt_rot (s : State) (gd due : Nat) (op : GOp) (args : List GArg) :
    (s.openAt gd due op args).rot = s.rot := rfl
@[simp] theorem State.openAt_sq (s : State) (gd due : Nat) (op : GOp) (args : List GArg) :
    (s.openAt gd due op args).sq = s.sq := rfl
@[simp] theorem State.openAt_tasks (s : State) (gd due : Nat) (op : GOp) (args : List GArg) :
    (s.openAt gd due op args).tasks = s.tasks := rfl
@[simp] theorem State.openAt_comp (s : State) (gd due : Nat) (op : GOp) (args : List GArg) :
    (s.openAt gd due op args).comp = s.comp := rfl
@[simp] theorem State.openAt_banks (s : State) (gd due : Nat) (op : GOp) (args : List GArg) :
    (s.openAt gd due op args).banks = s.banks := rfl
@[simp] theorem State.openAt_bars (s : State) (gd due : Nat) (op : GOp) (args : List GArg) :
    (s.openAt gd due op args).bars = s.bars := rfl
@[simp] theorem State.openAt_combs (s : State) (gd due : Nat) (op : GOp) (args : List GArg) :
    (s.openAt gd due op args).combs = s.combs := rfl
@[simp] theorem State.openAt_graphs (s : State) (gd due : Nat) (op : GOp) (args : List GArg) :
    (s.openAt gd due op args).graphs = s.graphs := rfl
@[simp] theorem State.openAt_rings (s : State) (gd due : Nat) (op : GOp) (args : List GArg) :
    (s.openAt gd due op args).rings = s.rings := rfl
@[simp] theorem State.openAt_zero (s : State) (gd due : Nat) (op : GOp) (args : List GArg) :
    (s.openAt gd due op args).zero = s.zero := rfl
@[simp] theorem State.openAt_revoked (s : State) (gd due : Nat) (op : GOp) (args : List GArg) :
    (s.openAt gd due op args).revoked = s.revoked := rfl
@[simp] theorem State.openAt_quote (s : State) (gd due : Nat) (op : GOp) (args : List GArg) :
    (s.openAt gd due op args).quote = s.quote := rfl
@[simp] theorem State.openAt_oseq (s : State) (gd due : Nat) (op : GOp) (args : List GArg) :
    (s.openAt gd due op args).oseq = s.oseq := rfl
@[simp] theorem State.openAt_remap (s : State) (gd due : Nat) (op : GOp) (args : List GArg) :
    (s.openAt gd due op args).remap = s.remap := rfl
@[simp] theorem State.openAt_seen (s : State) (gd due : Nat) (op : GOp) (args : List GArg) :
    (s.openAt gd due op args).seen = s.seen := rfl
@[simp] theorem State.openAt_free (s : State) (gd due : Nat) (op : GOp) (args : List GArg) :
    (s.openAt gd due op args).free = s.free := rfl

/-! ### A single result is put in flight -/

@[simp] theorem State.lands_cyc (s : State) (lat : Nat) (c : RCls) (r : Nat) (x : Vec) (ev : Nat) :
    (s.lands lat c r x ev).cyc = s.cyc := rfl
@[simp] theorem State.lands_ph (s : State) (lat : Nat) (c : RCls) (r : Nat) (x : Vec) (ev : Nat) :
    (s.lands lat c r x ev).ph = s.ph := rfl
@[simp] theorem State.lands_seqNo (s : State) (lat : Nat) (c : RCls) (r : Nat) (x : Vec) (ev : Nat) :
    (s.lands lat c r x ev).seqNo = s.seqNo + 1 := rfl
@[simp] theorem State.lands_iss (s : State) (lat : Nat) (c : RCls) (r : Nat) (x : Vec) (ev : Nat) :
    (s.lands lat c r x ev).iss = s.iss := rfl
@[simp] theorem State.lands_cw (s : State) (lat : Nat) (c : RCls) (r : Nat) (x : Vec) (ev : Nat) :
    (s.lands lat c r x ev).cw = s.cw := rfl
@[simp] theorem State.lands_cal (s : State) (lat : Nat) (c : RCls) (r : Nat) (x : Vec) (ev : Nat) :
    (s.lands lat c r x ev).cal = calInsert ⟨s.cyc + lat, phLand, s.iss.core, s.iss.ctx, s.seqNo + 1,
      .resultLanding s.iss.core s.iss.ctx (s.seqNo + 1), CtlAcc.reset⟩ s.cal := rfl
@[simp] theorem State.lands_inputs (s : State) (lat : Nat) (c : RCls) (r : Nat) (x : Vec) (ev : Nat) :
    (s.lands lat c r x ev).inputs = s.inputs := rfl
@[simp] theorem State.lands_out (s : State) (lat : Nat) (c : RCls) (r : Nat) (x : Vec) (ev : Nat) :
    (s.lands lat c r x ev).out = s.out := rfl
@[simp] theorem State.lands_wait (s : State) (lat : Nat) (c : RCls) (r : Nat) (x : Vec) (ev : Nat) :
    (s.lands lat c r x ev).wait = s.wait := rfl
@[simp] theorem State.lands_readVal (s : State) (lat : Nat) (c : RCls) (r : Nat) (x : Vec) (ev : Nat) :
    (s.lands lat c r x ev).readVal = s.readVal := rfl
@[simp] theorem State.lands_mem (s : State) (lat : Nat) (c : RCls) (r : Nat) (x : Vec) (ev : Nat) :
    (s.lands lat c r x ev).mem = s.mem := rfl
@[simp] theorem State.lands_tags (s : State) (lat : Nat) (c : RCls) (r : Nat) (x : Vec) (ev : Nat) :
    (s.lands lat c r x ev).tags = s.tags := rfl
@[simp] theorem State.lands_pois (s : State) (lat : Nat) (c : RCls) (r : Nat) (x : Vec) (ev : Nat) :
    (s.lands lat c r x ev).pois = s.pois := rfl
@[simp] theorem State.lands_rpois (s : State) (lat : Nat) (c : RCls) (r : Nat) (x : Vec) (ev : Nat) :
    (s.lands lat c r x ev).rpois = s.rpois := rfl
@[simp] theorem State.lands_dies (s : State) (lat : Nat) (c : RCls) (r : Nat) (x : Vec) (ev : Nat) :
    (s.lands lat c r x ev).dies = s.dies := rfl
@[simp] theorem State.lands_ctl (s : State) (lat : Nat) (c : RCls) (r : Nat) (x : Vec) (ev : Nat) :
    (s.lands lat c r x ev).ctl = s.ctl := rfl
@[simp] theorem State.lands_meas (s : State) (lat : Nat) (c : RCls) (r : Nat) (x : Vec) (ev : Nat) :
    (s.lands lat c r x ev).meas = s.meas := rfl
@[simp] theorem State.lands_ext (s : State) (lat : Nat) (c : RCls) (r : Nat) (x : Vec) (ev : Nat) :
    (s.lands lat c r x ev).ext = s.ext := rfl
@[simp] theorem State.lands_rot (s : State) (lat : Nat) (c : RCls) (r : Nat) (x : Vec) (ev : Nat) :
    (s.lands lat c r x ev).rot = s.rot := rfl
@[simp] theorem State.lands_sq (s : State) (lat : Nat) (c : RCls) (r : Nat) (x : Vec) (ev : Nat) :
    (s.lands lat c r x ev).sq = s.sq := rfl
@[simp] theorem State.lands_tasks (s : State) (lat : Nat) (c : RCls) (r : Nat) (x : Vec) (ev : Nat) :
    (s.lands lat c r x ev).tasks = s.tasks := rfl
@[simp] theorem State.lands_comp (s : State) (lat : Nat) (c : RCls) (r : Nat) (x : Vec) (ev : Nat) :
    (s.lands lat c r x ev).comp = s.comp := rfl
@[simp] theorem State.lands_banks (s : State) (lat : Nat) (c : RCls) (r : Nat) (x : Vec) (ev : Nat) :
    (s.lands lat c r x ev).banks = s.banks := rfl
@[simp] theorem State.lands_bars (s : State) (lat : Nat) (c : RCls) (r : Nat) (x : Vec) (ev : Nat) :
    (s.lands lat c r x ev).bars = s.bars := rfl
@[simp] theorem State.lands_combs (s : State) (lat : Nat) (c : RCls) (r : Nat) (x : Vec) (ev : Nat) :
    (s.lands lat c r x ev).combs = s.combs := rfl
@[simp] theorem State.lands_graphs (s : State) (lat : Nat) (c : RCls) (r : Nat) (x : Vec) (ev : Nat) :
    (s.lands lat c r x ev).graphs = s.graphs := rfl
@[simp] theorem State.lands_rings (s : State) (lat : Nat) (c : RCls) (r : Nat) (x : Vec) (ev : Nat) :
    (s.lands lat c r x ev).rings = s.rings := rfl
@[simp] theorem State.lands_zero (s : State) (lat : Nat) (c : RCls) (r : Nat) (x : Vec) (ev : Nat) :
    (s.lands lat c r x ev).zero = s.zero := rfl
@[simp] theorem State.lands_revoked (s : State) (lat : Nat) (c : RCls) (r : Nat) (x : Vec) (ev : Nat) :
    (s.lands lat c r x ev).revoked = s.revoked := rfl
@[simp] theorem State.lands_quote (s : State) (lat : Nat) (c : RCls) (r : Nat) (x : Vec) (ev : Nat) :
    (s.lands lat c r x ev).quote = s.quote := rfl
@[simp] theorem State.lands_oseq (s : State) (lat : Nat) (c : RCls) (r : Nat) (x : Vec) (ev : Nat) :
    (s.lands lat c r x ev).oseq = s.oseq := rfl
@[simp] theorem State.lands_remap (s : State) (lat : Nat) (c : RCls) (r : Nat) (x : Vec) (ev : Nat) :
    (s.lands lat c r x ev).remap = s.remap := rfl
@[simp] theorem State.lands_seen (s : State) (lat : Nat) (c : RCls) (r : Nat) (x : Vec) (ev : Nat) :
    (s.lands lat c r x ev).seen = s.seen := rfl
@[simp] theorem State.lands_free (s : State) (lat : Nat) (c : RCls) (r : Nat) (x : Vec) (ev : Nat) :
    (s.lands lat c r x ev).free = s.free := rfl

/-! ### Memory as it stood before the accesses from outside, and as it stands (R227) -/

@[simp] theorem State.present_cyc (s t : State) : (s.present t).cyc = t.cyc := rfl
@[simp] theorem State.present_ph (s t : State) : (s.present t).ph = t.ph := rfl
@[simp] theorem State.present_seqNo (s t : State) : (s.present t).seqNo = t.seqNo := rfl
@[simp] theorem State.present_iss (s t : State) : (s.present t).iss = t.iss := rfl
@[simp] theorem State.present_cw (s t : State) : (s.present t).cw = t.cw := rfl
@[simp] theorem State.present_cal (s t : State) : (s.present t).cal = t.cal := rfl
@[simp] theorem State.present_inputs (s t : State) : (s.present t).inputs = t.inputs := rfl
@[simp] theorem State.present_out (s t : State) : (s.present t).out = t.out := rfl
@[simp] theorem State.present_wait (s t : State) : (s.present t).wait = t.wait := rfl
@[simp] theorem State.present_readVal (s t : State) : (s.present t).readVal = t.readVal := rfl
@[simp] theorem State.present_mem (s t : State) : (s.present t).mem = s.mem := rfl
@[simp] theorem State.present_tags (s t : State) : (s.present t).tags = s.tags := rfl
@[simp] theorem State.present_pois (s t : State) : (s.present t).pois = s.pois := rfl
@[simp] theorem State.present_rpois (s t : State) : (s.present t).rpois = s.rpois := rfl
@[simp] theorem State.present_cores (s t : State) : (s.present t).cores = t.cores := rfl
@[simp] theorem State.present_dies (s t : State) : (s.present t).dies = t.dies := rfl
@[simp] theorem State.present_ctl (s t : State) : (s.present t).ctl = t.ctl := rfl
@[simp] theorem State.present_meas (s t : State) : (s.present t).meas = t.meas := rfl
@[simp] theorem State.present_ext (s t : State) : (s.present t).ext = t.ext := rfl
@[simp] theorem State.present_rot (s t : State) : (s.present t).rot = t.rot := rfl
@[simp] theorem State.present_sq (s t : State) : (s.present t).sq = t.sq := rfl
@[simp] theorem State.present_tasks (s t : State) : (s.present t).tasks = t.tasks := rfl
@[simp] theorem State.present_comp (s t : State) : (s.present t).comp = t.comp := rfl
@[simp] theorem State.present_banks (s t : State) : (s.present t).banks = t.banks := rfl
@[simp] theorem State.present_bars (s t : State) : (s.present t).bars = t.bars := rfl
@[simp] theorem State.present_combs (s t : State) : (s.present t).combs = t.combs := rfl
@[simp] theorem State.present_graphs (s t : State) : (s.present t).graphs = t.graphs := rfl
@[simp] theorem State.present_rings (s t : State) : (s.present t).rings = t.rings := rfl
@[simp] theorem State.present_zero (s t : State) : (s.present t).zero = t.zero := rfl
@[simp] theorem State.present_revoked (s t : State) : (s.present t).revoked = t.revoked := rfl
@[simp] theorem State.present_quote (s t : State) : (s.present t).quote = t.quote := rfl
@[simp] theorem State.present_oseq (s t : State) : (s.present t).oseq = t.oseq := rfl
@[simp] theorem State.present_remap (s t : State) : (s.present t).remap = t.remap := rfl
@[simp] theorem State.present_seen (s t : State) : (s.present t).seen = t.seen := rfl
@[simp] theorem State.present_free (s t : State) : (s.present t).free = t.free := rfl

theorem State.past_none {s : State} (h : s.seen = none) : s.past = s := by
  simp only [State.past, h]

theorem State.past_some {s : State} {k : Seen} (h : s.seen = some k) :
    s.past = { s with mem := k.mem, tags := k.tags, pois := k.pois, rpois := k.rpois } := by
  simp only [State.past, h]

/-- What is kept of memory is memory as it stands. -/
@[simp] theorem State.past_look (s : State) : ({ s with seen := some s.look } : State).past = { s with seen := some s.look } := rfl

@[simp] theorem State.past_cyc (s : State) : s.past.cyc = s.cyc := by
  unfold State.past; split <;> rfl
@[simp] theorem State.past_ph (s : State) : s.past.ph = s.ph := by
  unfold State.past; split <;> rfl
@[simp] theorem State.past_seqNo (s : State) : s.past.seqNo = s.seqNo := by
  unfold State.past; split <;> rfl
@[simp] theorem State.past_iss (s : State) : s.past.iss = s.iss := by
  unfold State.past; split <;> rfl
@[simp] theorem State.past_cw (s : State) : s.past.cw = s.cw := by
  unfold State.past; split <;> rfl
@[simp] theorem State.past_cal (s : State) : s.past.cal = s.cal := by
  unfold State.past; split <;> rfl
@[simp] theorem State.past_inputs (s : State) : s.past.inputs = s.inputs := by
  unfold State.past; split <;> rfl
@[simp] theorem State.past_out (s : State) : s.past.out = s.out := by
  unfold State.past; split <;> rfl
@[simp] theorem State.past_wait (s : State) : s.past.wait = s.wait := by
  unfold State.past; split <;> rfl
@[simp] theorem State.past_readVal (s : State) : s.past.readVal = s.readVal := by
  unfold State.past; split <;> rfl
@[simp] theorem State.past_cores (s : State) : s.past.cores = s.cores := by
  unfold State.past; split <;> rfl
@[simp] theorem State.past_dies (s : State) : s.past.dies = s.dies := by
  unfold State.past; split <;> rfl
@[simp] theorem State.past_ctl (s : State) : s.past.ctl = s.ctl := by
  unfold State.past; split <;> rfl
@[simp] theorem State.past_meas (s : State) : s.past.meas = s.meas := by
  unfold State.past; split <;> rfl
@[simp] theorem State.past_ext (s : State) : s.past.ext = s.ext := by
  unfold State.past; split <;> rfl
@[simp] theorem State.past_rot (s : State) : s.past.rot = s.rot := by
  unfold State.past; split <;> rfl
@[simp] theorem State.past_sq (s : State) : s.past.sq = s.sq := by
  unfold State.past; split <;> rfl
@[simp] theorem State.past_tasks (s : State) : s.past.tasks = s.tasks := by
  unfold State.past; split <;> rfl
@[simp] theorem State.past_comp (s : State) : s.past.comp = s.comp := by
  unfold State.past; split <;> rfl
@[simp] theorem State.past_banks (s : State) : s.past.banks = s.banks := by
  unfold State.past; split <;> rfl
@[simp] theorem State.past_bars (s : State) : s.past.bars = s.bars := by
  unfold State.past; split <;> rfl
@[simp] theorem State.past_combs (s : State) : s.past.combs = s.combs := by
  unfold State.past; split <;> rfl
@[simp] theorem State.past_graphs (s : State) : s.past.graphs = s.graphs := by
  unfold State.past; split <;> rfl
@[simp] theorem State.past_rings (s : State) : s.past.rings = s.rings := by
  unfold State.past; split <;> rfl
@[simp] theorem State.past_zero (s : State) : s.past.zero = s.zero := by
  unfold State.past; split <;> rfl
@[simp] theorem State.past_revoked (s : State) : s.past.revoked = s.revoked := by
  unfold State.past; split <;> rfl
@[simp] theorem State.past_quote (s : State) : s.past.quote = s.quote := by
  unfold State.past; split <;> rfl
@[simp] theorem State.past_oseq (s : State) : s.past.oseq = s.oseq := by
  unfold State.past; split <;> rfl
@[simp] theorem State.past_remap (s : State) : s.past.remap = s.remap := by
  unfold State.past; split <;> rfl
@[simp] theorem State.past_seen (s : State) : s.past.seen = s.seen := by
  unfold State.past; split <;> rfl
@[simp] theorem State.past_free (s : State) : s.past.free = s.free := by
  unfold State.past; split <;> rfl

end Sys2Proof.Machine
end

