-- ==== Sys2Proof/Laws/Ops.lean ====
section
/-! SUPPORT. Laws of the shared operations: what each does where its operands are single values under a literal landed true, and what it
does under one landed false. -/

namespace Sys2Proof.Machine

/-! ### The context whose bundle is being issued -/

@[simp] theorem State.me_modCtx (s : State) (f : Ctx → Ctx) : (s.modCtx s.iss.core s.iss.ctx f).me = f s.me := by
  simp only [State.me, State.ctx, State.core, Core.ctx, Core.setCtx, agetD_aset_self]

@[simp] theorem State.me_modSeq (s : State) (f : Seq → Seq) :
    (s.modSeq s.iss.core s.iss.ctx f).me = { s.me with q := f s.me.q } := State.me_modCtx s _

@[simp] theorem State.me_modMe (s : State) (f : Ctx → Ctx) : (s.modMe f).me = f s.me := State.me_modCtx s f

@[simp] theorem State.me_setMe (s : State) (x : Ctx) : (s.setMe x).me = x := State.me_modCtx s fun _ => x

@[simp] theorem State.me_sched (s : State) (a p i j k : Nat) (e : Instr) : (s.sched a p i j k e).me = s.me := rfl

/-- A result in flight joins the others of its context and changes nothing else in it. -/
@[simp] theorem State.me_flight (s : State) (w : Cube) (due : Nat) (c : RCls) (reg : Nat) (ps : List Pair) :
    (s.flight w due c reg ps).me = { s.me with fl := s.me.fl ++ [
      { id := s.seqNo + 1, due := due, cls := c, reg := reg, pairs := ps.filter fun p => (p.cube.conj w).isSome, w := w,
        dead := false, slot := s.iss.slot, fpc := s.iss.pc, iat := s.cyc, sup := s.me.q.sup }] } := by
  unfold State.flight
  rw [State.me_sched, State.me_modMe]

/-- A guard that opens is the one thing of its context that changes. -/
@[simp] theorem State.me_openAt (s : State) (gd due : Nat) (op : GOp) (args : List GArg) :
    (s.openAt gd due op args).me =
      { s.me with g := aset s.me.g gd { s.me.guard gd with opn := some ⟨s.cyc, due, op, args⟩ } } := by
  unfold State.openAt
  rw [State.me_sched, State.me_modMe]

/-! ### Conditions and takes -/

@[simp] theorem Cube.conj_tt (k : Cube) : k.conj Cube.tt = some k := by
  simp [Cube.conj, Cube.tt]

@[simp] theorem Cube.tt_conj (k : Cube) : Cube.tt.conj k = some k := by
  simp [Cube.conj, Cube.tt]

@[simp] theorem Cube.complement_tt : Cube.tt.complement = [] := by decide

@[simp] theorem Cube.isTrue_tt : Cube.tt.isTrue = true := by decide

/-- A write under the true literal replaces whatever the register held (R177). -/
theorem landWrite_one (old : List Take) (x : Vec) : landWrite old [(Cube.tt, x)] Cube.tt = oneTake x := by
  simp [landWrite]

@[simp] theorem product_nil : product [] = [(Cube.tt, [])] := rfl

theorem product_one (x : Vec) : product [oneTake x] = [(Cube.tt, [x])] := by
  simp [product]

theorem product_two (x y : Vec) : product [oneTake x, oneTake y] = [(Cube.tt, [x, y])] := by
  simp [product]

theorem product_three (x y z : Vec) : product [oneTake x, oneTake y, oneTake z] = [(Cube.tt, [x, y, z])] := by
  simp [product]

/-! ### Operands -/

/-- The source that a register field names, where the register holds one value and is not poisoned. -/
theorem src_of_reads {s : State} {c : RCls} {r : Nat} {x : Vec} (h : s.Reads c r x) :
    s.src c r = ⟨oneTake x, decide (c = .v ∧ 32 ≤ s.me.phys c r), false, s.me.phys c r⟩ := by
  obtain ⟨h1, h2⟩ := h
  simp only [State.src, h2]
  simp only [Ctx.rd] at h1
  rw [h1]

theorem single_of_reads {s : State} {c : RCls} {r : Nat} {x : Vec} (h : s.Reads c r x) : s.single c r = .ok x := by
  simp [State.single, src_of_reads h]

theorem singleS_of_reads {s : State} {r : Nat} {a : Word} (h : s.Reads .s r (ofWord a)) : s.singleS r = .ok a.toNat := by
  simp [State.singleS, single_of_reads h, Except.map]

@[simp] theorem toWord_ofWord (a : Word) : toWord (ofWord a) = a := by simp

/-! ### Results -/

theorem finish_ok (s t : State) : s.finish (.ok t) = .next t := rfl

theorem finish_error (s : State) (f : Flt) : s.finish (.error f) = .next (s.raiseFlt f) := rfl

/-- One pair under the true literal goes in flight, whatever the destination is. -/
theorem writeBack_one (s : State) (h p : Bool) (lat : Nat) (c : RCls) (r : Nat) (x : Vec) (ev : Nat) :
    s.writeBack Cube.tt h p lat c r [⟨Cube.tt, x, ev, none⟩] = .ok (s.lands lat c r x ev) := by
  unfold State.writeBack State.lands
  simp only [List.map_cons, List.map_nil, landWrite_one]
  split <;> simp

/-- Guard `gd` opens under the true literal, if it is not open. -/
theorem openGuard_one (s : State) {gd : Nat} (h0 : gd ≠ 0) (h : (s.me.guard gd).opn = none) (due : Nat) (op : GOp)
    (args : List GArg) : s.openGuard Cube.tt gd due op args = .ok (s.openAt gd due op args) := by
  simp [State.openGuard, h0, h]

theorem openGuard_zero (s : State) (due : Nat) (op : GOp) (args : List GArg) :
    s.openGuard Cube.tt 0 due op args = .ok s := by
  simp [State.openGuard]

/-! ### The shapes of scalar and vector instructions -/

theorem opS_none {s : State} {g : Lit} (hg : s.wlit g = none) (h : Bool) (lat sd : Nat) (srcs : List Src) (f : List Nat → Nat) :
    s.opS g h lat sd srcs f = .ok s := by
  simp [State.opS, hg]

theorem rrr_one {s : State} {g : Lit} {sa sb : Nat} {a b : Word} (hg : s.Plain g) (ha : s.Reads .s sa (ofWord a))
    (hb : s.Reads .s sb (ofWord b)) (h : Bool) (lat sd : Nat) (f : Nat → Nat → Nat) :
    s.rrr g h lat sd sa sb f = .ok (s.landsS lat sd (BitVec.ofNat 64 (f a.toNat b.toNat))) := by
  simp only [State.Plain] at hg
  simp only [State.rrr, State.opS, hg, src_of_reads ha, src_of_reads hb, checkPoison, List.map, product_two,
    Bool.false_eq_true, ↓reduceIte, bind, Except.bind, bin, toWord_ofWord]
  exact writeBack_one ..

theorem rr_one {s : State} {g : Lit} {sa : Nat} {a : Word} (hg : s.Plain g) (ha : s.Reads .s sa (ofWord a))
    (h : Bool) (sd : Nat) (f : Nat → Nat) :
    s.rr g h sd sa f = .ok (s.landsS 1 sd (BitVec.ofNat 64 (f a.toNat))) := by
  simp only [State.Plain] at hg
  simp only [State.rr, State.opS, hg, src_of_reads ha, checkPoison, List.map, product_one,
    Bool.false_eq_true, ↓reduceIte, bind, Except.bind, un, toWord_ofWord]
  exact writeBack_one ..

theorem opWhole_one {s : State} {g : Lit} (hg : s.Plain g) (lat : Nat) (c : RCls) (d : Nat) {a : Src} {x : Vec}
    (ha : a.ts = oneTake x) (hp : a.poison = false) (f : List Vec → Vec × Nat) :
    s.opWhole g lat c d [a] f = .ok (s.lands (lat + coldAdd [a]) c d (f [x]).1 (f [x]).2) := by
  simp only [State.Plain] at hg
  simp only [State.opWhole, hg, checkPoison, hp, List.map, ha, product_one, Bool.false_eq_true, ↓reduceIte, bind, Except.bind]
  exact writeBack_one ..

theorem opWhole_two {s : State} {g : Lit} (hg : s.Plain g) (lat : Nat) (c : RCls) (d : Nat) {a b : Src} {x y : Vec}
    (ha : a.ts = oneTake x) (hb : b.ts = oneTake y) (hp : a.poison = false) (hq : b.poison = false) (f : List Vec → Vec × Nat) :
    s.opWhole g lat c d [a, b] f = .ok (s.lands (lat + coldAdd [a, b]) c d (f [x, y]).1 (f [x, y]).2) := by
  simp only [State.Plain] at hg
  simp only [State.opWhole, hg, checkPoison, hp, hq, List.map, ha, hb, product_two, Bool.false_eq_true, ↓reduceIte, bind,
    Except.bind]
  exact writeBack_one ..

/-! ### Lanes -/

theorem product_ones (xs : List Vec) : product (xs.map oneTake) = [(Cube.tt, xs)] := by
  induction xs with
  | nil => rfl
  | cons x r ih => simp [product, ih]

theorem checkPoison_ok {l : List Src} (h : ∀ a ∈ l, a.poison = false) : checkPoison l = .ok () := by
  induction l with
  | nil => rfl
  | cons a r ih =>
    simp only [checkPoison, h a (List.mem_cons_self ..), Bool.false_eq_true, if_false]
    exact ih fun b hb => h b (List.mem_cons_of_mem _ hb)

/-- The lanes of a masked operation, lane by lane. -/
theorem maskedLanes_fst (op : List Nat → Nat × Nat) (q : Nat) (F : Nat → List Nat) (o : Nat → Nat) (n : Nat) : ∀ i,
    (maskedLanes op q i ((List.range' i n).map F) ((List.range' i n).map o)).1 =
      (List.range' i n).map fun j => if q.testBit j then (op (F j ++ [o j])).1 else o j := by
  induction n with
  | zero => intro i; rfl
  | succ n ih =>
    intro i
    simp only [List.range'_succ, List.map_cons, maskedLanes]
    have hb : (q / 2 ^ i % 2 = 1) ↔ q.testBit i = true := by
      simp [Nat.testBit, Nat.shiftRight_eq_div_pow, Nat.and_comm 1, Nat.and_one_is_mod]
    by_cases h : q.testBit i = true
    · simp [hb.2 h, h, ih]
    · rw [if_neg (fun e => h (hb.1 e))]; simp [h, ih]

theorem maskedLanes_snd (op : List Nat → Nat × Nat) (q : Nat) (F : Nat → List Nat) (o : Nat → Nat) (n : Nat) : ∀ i,
    (maskedLanes op q i ((List.range' i n).map F) ((List.range' i n).map o)).2 =
      (List.range' i n).foldr (fun j e => if q.testBit j then evOr (op (F j ++ [o j])).2 e else e) 0 := by
  induction n with
  | zero => intro i; rfl
  | succ n ih =>
    intro i
    simp only [List.range'_succ, List.map_cons, maskedLanes, List.foldr_cons]
    have hb : (q / 2 ^ i % 2 = 1) ↔ q.testBit i = true := by
      simp [Nat.testBit, Nat.shiftRight_eq_div_pow, Nat.and_comm 1, Nat.and_one_is_mod]
    by_cases h : q.testBit i = true
    · simp [hb.2 h, h, ih]
    · rw [if_neg (fun e => h (hb.1 e))]; simp [h, ih]

theorem zipLanes_eq (w n : Nat) (xs : List Vec) :
    zipLanes w n xs = (List.range' 0 n).map fun i => xs.map fun x => laneAt w x i := by
  simp only [zipLanes, List.range_eq_range']
  refine List.map_congr_left fun i hi => ?_
  have hi' : i < n := by simpa using hi
  simp [lanesOf, laneAt, hi', List.getD_eq_getElem?_getD]

theorem lanesOf_eq (w n : Nat) (x : Vec) : lanesOf w n x = (List.range' 0 n).map (laneAt w x) := by
  simp [lanesOf, laneAt, List.range_eq_range']

/-- A masked operation on single-valued sources: each active lane gets the operation's value, each inactive one keeps vd's. -/
theorem opLanes_one {s : State} {g : Lit} (hg : s.Plain g) {lat lw vd ev : Nat} {srcs : List Src} {xs : List Vec} {useVd : Bool}
    {op : List Nat → Nat × Nat} (hx : srcs.map (·.ts) = xs.map oneTake) (hp : ∀ a ∈ srcs, a.poison = false) {q d : Vec}
    (hq : s.Reads .m 0 q) (rd : Bool) (hrd : rd = (useVd || (q.toNat % 2 ^ (2048 / lw) != 2 ^ (2048 / lw) - 1)))
    (hd : rd = true → s.Reads .v vd d) (f : Nat → Nat × Nat)
    (hf : ∀ i o, i < 2048 / lw → (rd = true → o = laneAt lw d i) → op ((xs.map fun x => laneAt lw x i) ++ [o]) = f i) :
    s.opLanes g lat lw vd srcs useVd ev op = .ok (s.lands
      (lat + coldAdd (srcs ++ if rd then [s.src .v vd] else [])) .v vd (maskedValue lw q d f) (evOr ev (maskedEvents lw q f))) := by
  have hm := src_of_reads hq
  have hpm : (s.src .m 0).poison = false := by rw [hm]
  have hpd : rd = true → (s.src .v vd).poison = false := fun h => by rw [src_of_reads (hd h)]
  have hany : ((s.src .m 0).ts.any fun t => (t.x.toNat % 2 ^ (2048 / lw) != 2 ^ (2048 / lw) - 1)) =
      (q.toNat % 2 ^ (2048 / lw) != 2 ^ (2048 / lw) - 1) := by
    rw [hm]; simp
  have hprod : product (srcs.map (·.ts) ++ [(s.src .m 0).ts]) = [(Cube.tt, xs ++ [q])] := by
    have e : srcs.map (·.ts) ++ [(s.src .m 0).ts] = (xs ++ [q]).map oneTake := by rw [hm, hx]; simp
    rw [e, product_ones]
  have val : ∀ o : Nat → Nat, (∀ i, i < 2048 / lw → rd = true → o i = laneAt lw d i) →
      (∀ i, i < 2048 / lw → rd = false → q.toNat.testBit i = true) →
      pack lw (maskedLanes op q.toNat 0 (zipLanes lw (2048 / lw) xs) ((List.range' 0 (2048 / lw)).map o)).1 = maskedValue lw q d f ∧
      (maskedLanes op q.toNat 0 (zipLanes lw (2048 / lw) xs) ((List.range' 0 (2048 / lw)).map o)).2 = maskedEvents lw q f := by
    intro o ho hall
    rw [zipLanes_eq, maskedLanes_fst, maskedLanes_snd]
    have step : ∀ i, i < 2048 / lw → op ((xs.map fun x => laneAt lw x i) ++ [o i]) = f i := fun i hi =>
      hf i (o i) hi (fun h => ho i hi h)
    constructor
    · simp only [maskedValue, ofLanes, List.range_eq_range']
      congr 1
      refine List.map_congr_left fun i hi => ?_
      have hi' : i < 2048 / lw := by simpa using hi
      rw [step i hi']
      by_cases hb : q.toNat.testBit i = true
      · simp [hb]
      · have : rd = true := by
          cases hr : rd with
          | true => rfl
          | false => exact absurd (hall i hi' hr) hb
        simp [hb, ho i hi' this]
    · simp only [maskedEvents, List.range_eq_range']
      generalize hl : List.range' 0 (2048 / lw) = l
      have hmem : ∀ i ∈ l, i < 2048 / lw := by intro i hi; rw [← hl] at hi; simpa using hi
      clear hl
      induction l with
      | nil => rfl
      | cons i r ih =>
        simp only [List.foldr_cons]
        rw [ih fun j hj => hmem j (List.mem_cons_of_mem _ hj), step i (hmem i (List.mem_cons_self ..))]
  simp only [State.Plain] at hg
  unfold State.opLanes
  simp only [hg, hany, ← hrd, hprod]
  have hpoi : checkPoison (srcs ++ [s.src .m 0] ++ if rd = true then [s.src .v vd] else []) = .ok () := by
    refine checkPoison_ok fun a ha => ?_
    rcases List.mem_append.1 ha with ha | ha
    · rcases List.mem_append.1 ha with ha | ha
      · exact hp a ha
      · rw [List.mem_singleton.1 ha]; exact hpm
    · by_cases hr : rd = true
      · rw [if_pos hr] at ha; rw [List.mem_singleton.1 ha]; exact hpd hr
      · rw [if_neg hr] at ha; simp at ha
  simp only [hpoi, bind, Except.bind, List.flatMap_cons, List.flatMap_nil, List.append_nil, List.getLastD_concat,
    List.dropLast_concat, lanesOf_eq]
  cases hr : rd with
  | true =>
    rw [hr] at hrd
    have hdd := src_of_reads (hd hr)
    have v := val (laneAt lw d) (fun i _ _ => rfl) (fun i _ h => by rw [hr] at h; simp at h)
    rw [← hrd]
    simp only [if_true, hdd, List.filterMap_cons, List.filterMap_nil, Cube.conj_tt, Option.map_some, v.1, v.2]
    exact writeBack_one ..
  | false =>
    rw [hr] at hrd
    have hfull : q.toNat % 2 ^ (2048 / lw) = 2 ^ (2048 / lw) - 1 := by
      have := hrd.symm
      simp only [Bool.or_eq_false_iff, bne_eq_false_iff_eq] at this
      exact this.2
    have v := val (laneAt lw 0) (fun i _ h => by rw [hr] at h; simp at h) (fun i hi _ => by
      have h1 : (q.toNat % 2 ^ (2048 / lw)).testBit i = true := by
        rw [hfull, Nat.testBit_two_pow_sub_one]; simpa using hi
      rw [Nat.testBit_mod_two_pow] at h1
      simp at h1; exact h1.2)
    rw [← hrd]
    simp only [Bool.false_eq_true, if_false, v.1, v.2]
    exact writeBack_one ..

/-! ### Lists of numbers that stand for levels and traps, requesters of the array, turns, links -/

theorem Trap.ofContents_contents (t : Trap) : Trap.ofContents t.contents = t := by
  cases t; simp [Trap.ofContents, Trap.contents]

theorem ringsOf_contents (l : List Ring) : ringsOf (l.flatMap Ring.contents) = l := by
  induction l with
  | nil => rfl
  | cons g r ih => cases g with | mk c b n => cases c <;> simp [Ring.contents, ringsOf, Ring.ofContents, ih]

theorem Loop.ofContents_contents (l : Loop) : Loop.ofContents l.contents = l := by
  cases l; simp [Loop.ofContents, Loop.contents, ringsOf_contents]

/-- A requester of the array that may proceed is entered, and that is all. -/
theorem State.claimArr_ok {s t : State} {n who off : Nat} (h : s.claimArr n who off = .ok t) : t = s.addReqs n who (rowsOf [off]) := by
  unfold State.claimArr at h
  split at h <;> simp_all

/-- A core whose turn has not passed takes it: nothing else changes. -/
theorem State.beginTurn_of_le {s : State} {n : Nat} (h : s.ph ≤ phIssue + n) : s.beginTurn n = { s with ph := phIssue + n } :=
  if_pos h

/-- The open literal is the write literal where there is one. -/
theorem State.openLit_of_wlit {s : State} {g : Lit} {w : Cube} (h : s.wlit g = some w) : s.openLit g = some w := by
  unfold State.openLit; rw [h]

/-- Without a write literal the open literal is the instruction's own, against that of an outstanding BRD, or there is none. -/
theorem State.openLit_of_none {s : State} {g : Lit} (h : s.wlit g = none) :
    s.openLit g = none ∨ ∃ k j, s.me.lit s.cyc g = .opn k ∧ s.me.brdLit s.cyc = .opn j ∧ s.openLit g = some k := by
  unfold State.openLit
  rw [h]
  cases s.me.lit s.cyc g <;> cases s.me.brdLit s.cyc <;> simp

/-- An answer leaves at once unless the traffic to the pod is to be remapped. -/
theorem State.reply_cases (s : State) (key : List Nat) (target : Nat) (m : Msg) :
    (s.remapping = true ∧ s.reply key target m = s.wants s.cyc key target m) ∨
    (s.remapping = false ∧ s.reply key target m = s.send key target m) := by
  unfold State.reply
  cases s.remapping <;> simp

/-- What a link that goes down does to one request sent on it: it stays as it was, with its target yet to answer, or leaves the link;
beside the error log and the counter of free values nothing changes. -/
theorem State.loseOn_cases (s : State) (o : Out) :
    ((s.loseOn o).2 = { o with link := none } ∨ (s.loseOn o).2 = o ∧ s.unanswered o = true) ∧
    (s.loseOn o).1 = { s with dies := (s.loseOn o).1.dies, free := (s.loseOn o).1.free } := by
  unfold State.loseOn
  split
  · by_cases h : s.unanswered o = true <;> simp [h]
  · dsimp only
    split
    · exact ⟨.inl rfl, rfl⟩
    · by_cases h : s.unanswered o = true <;> simp [h]

/-! ### Poison of registers (R338) -/

/-- A register that an error strikes is poisoned. -/
@[simp] theorem Ctx.isPoisoned_strike (x : Ctx) (c : RCls) (r : Nat) : (x.strike c r).isPoisoned c r = true := by
  simp [Ctx.strike, Ctx.isPoisoned]

/-- An error changes the poison of no other register. -/
theorem Ctx.isPoisoned_strike_ne (x : Ctx) {c c' : RCls} {r r' : Nat} (h : c' ≠ c ∨ r' ≠ r) :
    (x.strike c r).isPoisoned c' r' = x.isPoisoned c' r' := by
  have : ∀ p : RegPoison, ((decide (p.cls ≠ c) || decide (p.reg ≠ r)) && (decide (p.cls = c') && decide (p.reg = r'))) =
      (decide (p.cls = c') && decide (p.reg = r')) := fun p => by
    by_cases hc : p.cls = c' <;> by_cases hr : p.reg = r' <;> simp [hc, hr, h]
  simp only [Ctx.strike, Ctx.isPoisoned, List.any_append, List.any_filter, this, List.any_cons, List.any_nil, Bool.or_false]
  rcases h with h | h <;> simp [Ne.symm h]

/-- A whole write under the true literal clears the poison of its register and leaves that of the others. -/
theorem Ctx.cure_tt (x : Ctx) (c : RCls) (r : Nat) :
    (x.cure c r Cube.tt).poison = x.poison.filter fun p => !(p.cls = c && p.reg = r) := by
  simp only [Ctx.cure, Cube.complement_tt, List.filterMap_nil]
  induction x.poison with
  | nil => rfl
  | cons p l ih =>
    by_cases h : p.cls = c ∧ p.reg = r
    · simp [h, ih]
    · rw [List.filter_cons_of_pos (by by_cases hc : p.cls = c <;> simp_all)]
      simp [h, ih]

theorem Ctx.isPoisoned_cure_tt (x : Ctx) (c : RCls) (r : Nat) : (x.cure c r Cube.tt).isPoisoned c r = false := by
  simp only [Ctx.isPoisoned, Ctx.cure_tt, List.any_filter]
  refine List.any_eq_false.mpr fun p _ => ?_
  by_cases hc : p.cls = c <;> simp [hc]

/-- A write changes the poison of no other register. -/
theorem Ctx.isPoisoned_cure_ne (x : Ctx) {c c' : RCls} {r r' : Nat} (w : Cube) (h : c' ≠ c ∨ r' ≠ r) :
    (x.cure c r w).isPoisoned c' r' = x.isPoisoned c' r' := by
  simp only [Ctx.cure, Ctx.isPoisoned]
  induction x.poison with
  | nil => rfl
  | cons p l ih =>
    rw [List.flatMap_cons, List.any_append, ih, List.any_cons]
    congr 1
    by_cases hp : p.cls = c ∧ p.reg = r
    · obtain ⟨hc, hr⟩ := hp
      have h2 : (decide (p.cls = c') && decide (p.reg = r')) = false := by
        rw [hc, hr]; rcases h with h | h <;> simp [Ne.symm h]
      rw [if_pos ⟨hc, hr⟩, h2, List.any_eq_false]
      intro k hk
      simp only [List.mem_filterMap, Option.map_eq_some_iff] at hk
      obtain ⟨a, _, b, _, rfl⟩ := hk
      simp [h2]
    · rw [if_neg hp]; simp

end Sys2Proof.Machine
end

