-- ==== Sys2Proof/Laws/PerInstr.lean ====
section
/-! SUPPORT. Statements per instruction: the word of a well-formed instruction fits 32 bits (03_encoding.md R46). -/

set_option Elab.async false
set_option linter.unusedSimpArgs false

namespace Sys2Proof.Laws

theorem code_le (l : Lit) : l.code ≤ 16 + l.idx := by
  unfold Lit.code; split <;> omega

theorem ofFlag_le (b : Bool) : ofFlag b ≤ 1 := by
  unfold ofFlag; split <;> omega

theorem unsigned_lt (n : Nat) (x : Int) : unsigned n x < 2 ^ n := by
  unfold unsigned
  have h : (0 : Int) < 2 ^ n := by positivity
  have h1 := Int.emod_lt_of_pos x h
  have h2 := Int.emod_nonneg x (ne_of_gt h)
  have : ((x % 2 ^ n).toNat : Int) < ((2 ^ n : Nat) : Int) := by
    rw [Int.toNat_of_nonneg h2]; push_cast; exact h1
  exact_mod_cast this

/-- The word of the instruction is one of 32 bits. -/
def EncodingFits.Statement (i : Instr) : Prop := i.WellFormed → encode i < 2 ^ 32

theorem EncodingFits.br (off : Int) : EncodingFits.Statement (.br off) := by
  intro hw
  simp only [Instr.WellFormed, Lit.wf, Lit.wfOp, inS] at hw
  have h0 := unsigned_lt 18 off
  simp only [encode, Instr.cls, encodeC]
  omega

theorem EncodingFits.brc (l : Lit) (off : Int) : EncodingFits.Statement (.brc l off) := by
  intro hw
  simp only [Instr.WellFormed, Lit.wf, Lit.wfOp, inS] at hw
  have h0 := code_le l
  have h1 := unsigned_lt 13 off
  simp only [encode, Instr.cls, encodeC]
  omega

theorem EncodingFits.brd (l : Lit) (off : Int) : EncodingFits.Statement (.brd l off) := by
  intro hw
  simp only [Instr.WellFormed, Lit.wf, Lit.wfOp, inS] at hw
  have h0 := code_le l
  have h1 := unsigned_lt 13 off
  simp only [encode, Instr.cls, encodeC]
  omega

theorem EncodingFits.jt (sa : Nat) (sb : Nat) : EncodingFits.Statement (.jt sa sb) := by
  intro hw
  simp only [Instr.WellFormed, Lit.wf, Lit.wfOp, inS] at hw
  simp only [encode, Instr.cls, encodeC]
  omega

theorem EncodingFits.call (off : Int) : EncodingFits.Statement (.call off) := by
  intro hw
  simp only [Instr.WellFormed, Lit.wf, Lit.wfOp, inS] at hw
  have h0 := unsigned_lt 18 off
  simp only [encode, Instr.cls, encodeC]
  omega

theorem EncodingFits.callg (sa : Nat) : EncodingFits.Statement (.callg sa) := by
  intro hw
  simp only [Instr.WellFormed, Lit.wf, Lit.wfOp, inS] at hw
  simp only [encode, Instr.cls, encodeC]
  omega

theorem EncodingFits.loopReg (sa : Nat) : EncodingFits.Statement (.loopReg sa) := by
  intro hw
  simp only [Instr.WellFormed, Lit.wf, Lit.wfOp, inS] at hw
  simp only [encode, Instr.cls, encodeC]
  omega

theorem EncodingFits.loopImm (n : Nat) : EncodingFits.Statement (.loopImm n) := by
  intro hw
  simp only [Instr.WellFormed, Lit.wf, Lit.wfOp, inS] at hw
  simp only [encode, Instr.cls, encodeC]
  omega

theorem EncodingFits.trap (n : Nat) : EncodingFits.Statement (.trap n) := by
  intro hw
  simp only [Instr.WellFormed, Lit.wf, Lit.wfOp, inS] at hw
  simp only [encode, Instr.cls, encodeC]
  omega

theorem EncodingFits.brk (n : Nat) : EncodingFits.Statement (.brk n) := by
  intro hw
  simp only [Instr.WellFormed, Lit.wf, Lit.wfOp, inS] at hw
  simp only [encode, Instr.cls, encodeC]
  omega

theorem EncodingFits.syscall (n : Nat) : EncodingFits.Statement (.syscall n) := by
  intro hw
  simp only [Instr.WellFormed, Lit.wf, Lit.wfOp, inS] at hw
  simp only [encode, Instr.cls, encodeC]
  omega

theorem EncodingFits.waitc (sa : Nat) : EncodingFits.Statement (.waitc sa) := by
  intro hw
  simp only [Instr.WellFormed, Lit.wf, Lit.wfOp, inS] at hw
  simp only [encode, Instr.cls, encodeC]
  omega

theorem EncodingFits.slateQ (sd : Nat) : EncodingFits.Statement (.slateQ sd) := by
  intro hw
  simp only [Instr.WellFormed, Lit.wf, Lit.wfOp, inS] at hw
  simp only [encode, Instr.cls, encodeC]
  omega

theorem EncodingFits.slateT (sd : Nat) : EncodingFits.Statement (.slateT sd) := by
  intro hw
  simp only [Instr.WellFormed, Lit.wf, Lit.wfOp, inS] at hw
  simp only [encode, Instr.cls, encodeC]
  omega

theorem EncodingFits.scene (d : Nat) : EncodingFits.Statement (.scene d) := by
  intro hw
  simp only [Instr.WellFormed, Lit.wf, Lit.wfOp, inS] at hw
  simp only [encode, Instr.cls, encodeC]
  omega

theorem EncodingFits.add (g : Lit) (h : Bool) (sd : Nat) (sa : Nat) (sb : Nat) : EncodingFits.Statement (.add g h sd sa sb) := by
  intro hw
  simp only [Instr.WellFormed, Lit.wf, Lit.wfOp, inS] at hw
  have h0 := code_le g
  have h1 := ofFlag_le h
  simp only [encode, Instr.cls, encodeS, encSR]
  omega

theorem EncodingFits.sub (g : Lit) (h : Bool) (sd : Nat) (sa : Nat) (sb : Nat) : EncodingFits.Statement (.sub g h sd sa sb) := by
  intro hw
  simp only [Instr.WellFormed, Lit.wf, Lit.wfOp, inS] at hw
  have h0 := code_le g
  have h1 := ofFlag_le h
  simp only [encode, Instr.cls, encodeS, encSR]
  omega

theorem EncodingFits.andS (g : Lit) (h : Bool) (sd : Nat) (sa : Nat) (sb : Nat) : EncodingFits.Statement (.andS g h sd sa sb) := by
  intro hw
  simp only [Instr.WellFormed, Lit.wf, Lit.wfOp, inS] at hw
  have h0 := code_le g
  have h1 := ofFlag_le h
  simp only [encode, Instr.cls, encodeS, encSR]
  omega

theorem EncodingFits.orS (g : Lit) (h : Bool) (sd : Nat) (sa : Nat) (sb : Nat) : EncodingFits.Statement (.orS g h sd sa sb) := by
  intro hw
  simp only [Instr.WellFormed, Lit.wf, Lit.wfOp, inS] at hw
  have h0 := code_le g
  have h1 := ofFlag_le h
  simp only [encode, Instr.cls, encodeS, encSR]
  omega

theorem EncodingFits.xorS (g : Lit) (h : Bool) (sd : Nat) (sa : Nat) (sb : Nat) : EncodingFits.Statement (.xorS g h sd sa sb) := by
  intro hw
  simp only [Instr.WellFormed, Lit.wf, Lit.wfOp, inS] at hw
  have h0 := code_le g
  have h1 := ofFlag_le h
  simp only [encode, Instr.cls, encodeS, encSR]
  omega

theorem EncodingFits.andn (g : Lit) (h : Bool) (sd : Nat) (sa : Nat) (sb : Nat) : EncodingFits.Statement (.andn g h sd sa sb) := by
  intro hw
  simp only [Instr.WellFormed, Lit.wf, Lit.wfOp, inS] at hw
  have h0 := code_le g
  have h1 := ofFlag_le h
  simp only [encode, Instr.cls, encodeS, encSR]
  omega

theorem EncodingFits.shl (g : Lit) (h : Bool) (sd : Nat) (sa : Nat) (sb : Nat) : EncodingFits.Statement (.shl g h sd sa sb) := by
  intro hw
  simp only [Instr.WellFormed, Lit.wf, Lit.wfOp, inS] at hw
  have h0 := code_le g
  have h1 := ofFlag_le h
  simp only [encode, Instr.cls, encodeS, encSR]
  omega

theorem EncodingFits.shr (g : Lit) (h : Bool) (sd : Nat) (sa : Nat) (sb : Nat) : EncodingFits.Statement (.shr g h sd sa sb) := by
  intro hw
  simp only [Instr.WellFormed, Lit.wf, Lit.wfOp, inS] at hw
  have h0 := code_le g
  have h1 := ofFlag_le h
  simp only [encode, Instr.cls, encodeS, encSR]
  omega

theorem EncodingFits.sar (g : Lit) (h : Bool) (sd : Nat) (sa : Nat) (sb : Nat) : EncodingFits.Statement (.sar g h sd sa sb) := by
  intro hw
  simp only [Instr.WellFormed, Lit.wf, Lit.wfOp, inS] at hw
  have h0 := code_le g
  have h1 := ofFlag_le h
  simp only [encode, Instr.cls, encodeS, encSR]
  omega

theorem EncodingFits.minS (g : Lit) (h : Bool) (sd : Nat) (sa : Nat) (sb : Nat) : EncodingFits.Statement (.minS g h sd sa sb) := by
  intro hw
  simp only [Instr.WellFormed, Lit.wf, Lit.wfOp, inS] at hw
  have h0 := code_le g
  have h1 := ofFlag_le h
  simp only [encode, Instr.cls, encodeS, encSR]
  omega

theorem EncodingFits.maxS (g : Lit) (h : Bool) (sd : Nat) (sa : Nat) (sb : Nat) : EncodingFits.Statement (.maxS g h sd sa sb) := by
  intro hw
  simp only [Instr.WellFormed, Lit.wf, Lit.wfOp, inS] at hw
  have h0 := code_le g
  have h1 := ofFlag_le h
  simp only [encode, Instr.cls, encodeS, encSR]
  omega

theorem EncodingFits.minN (g : Lit) (h : Bool) (sd : Nat) (sa : Nat) (sb : Nat) : EncodingFits.Statement (.minN g h sd sa sb) := by
  intro hw
  simp only [Instr.WellFormed, Lit.wf, Lit.wfOp, inS] at hw
  have h0 := code_le g
  have h1 := ofFlag_le h
  simp only [encode, Instr.cls, encodeS, encSR]
  omega

theorem EncodingFits.maxN (g : Lit) (h : Bool) (sd : Nat) (sa : Nat) (sb : Nat) : EncodingFits.Statement (.maxN g h sd sa sb) := by
  intro hw
  simp only [Instr.WellFormed, Lit.wf, Lit.wfOp, inS] at hw
  have h0 := code_le g
  have h1 := ofFlag_le h
  simp only [encode, Instr.cls, encodeS, encSR]
  omega

theorem EncodingFits.sel (l : Lit) (h : Bool) (sd : Nat) (sa : Nat) (sb : Nat) : EncodingFits.Statement (.sel l h sd sa sb) := by
  intro hw
  simp only [Instr.WellFormed, Lit.wf, Lit.wfOp, inS] at hw
  have h0 := code_le l
  have h1 := ofFlag_le h
  simp only [encode, Instr.cls, encodeS, encSR]
  omega

theorem EncodingFits.clz (g : Lit) (h : Bool) (sd : Nat) (sa : Nat) : EncodingFits.Statement (.clz g h sd sa) := by
  intro hw
  simp only [Instr.WellFormed, Lit.wf, Lit.wfOp, inS] at hw
  have h0 := code_le g
  have h1 := ofFlag_le h
  simp only [encode, Instr.cls, encodeS, encSR]
  omega

theorem EncodingFits.popc (g : Lit) (h : Bool) (sd : Nat) (sa : Nat) : EncodingFits.Statement (.popc g h sd sa) := by
  intro hw
  simp only [Instr.WellFormed, Lit.wf, Lit.wfOp, inS] at hw
  have h0 := code_le g
  have h1 := ofFlag_le h
  simp only [encode, Instr.cls, encodeS, encSR]
  omega

theorem EncodingFits.mul (g : Lit) (h : Bool) (sd : Nat) (sa : Nat) (sb : Nat) : EncodingFits.Statement (.mul g h sd sa sb) := by
  intro hw
  simp only [Instr.WellFormed, Lit.wf, Lit.wfOp, inS] at hw
  have h0 := code_le g
  have h1 := ofFlag_le h
  simp only [encode, Instr.cls, encodeS, encSR]
  omega

theorem EncodingFits.mulh (g : Lit) (h : Bool) (sd : Nat) (sa : Nat) (sb : Nat) : EncodingFits.Statement (.mulh g h sd sa sb) := by
  intro hw
  simp only [Instr.WellFormed, Lit.wf, Lit.wfOp, inS] at hw
  have h0 := code_le g
  have h1 := ofFlag_le h
  simp only [encode, Instr.cls, encodeS, encSR]
  omega

theorem EncodingFits.mulhN (g : Lit) (h : Bool) (sd : Nat) (sa : Nat) (sb : Nat) : EncodingFits.Statement (.mulhN g h sd sa sb) := by
  intro hw
  simp only [Instr.WellFormed, Lit.wf, Lit.wfOp, inS] at hw
  have h0 := code_le g
  have h1 := ofFlag_le h
  simp only [encode, Instr.cls, encodeS, encSR]
  omega

theorem EncodingFits.divS (g : Lit) (h : Bool) (sd : Nat) (sa : Nat) (sb : Nat) : EncodingFits.Statement (.divS g h sd sa sb) := by
  intro hw
  simp only [Instr.WellFormed, Lit.wf, Lit.wfOp, inS] at hw
  have h0 := code_le g
  have h1 := ofFlag_le h
  simp only [encode, Instr.cls, encodeS, encSR]
  omega

theorem EncodingFits.divN (g : Lit) (h : Bool) (sd : Nat) (sa : Nat) (sb : Nat) : EncodingFits.Statement (.divN g h sd sa sb) := by
  intro hw
  simp only [Instr.WellFormed, Lit.wf, Lit.wfOp, inS] at hw
  have h0 := code_le g
  have h1 := ofFlag_le h
  simp only [encode, Instr.cls, encodeS, encSR]
  omega

theorem EncodingFits.rem (g : Lit) (h : Bool) (sd : Nat) (sa : Nat) (sb : Nat) : EncodingFits.Statement (.rem g h sd sa sb) := by
  intro hw
  simp only [Instr.WellFormed, Lit.wf, Lit.wfOp, inS] at hw
  have h0 := code_le g
  have h1 := ofFlag_le h
  simp only [encode, Instr.cls, encodeS, encSR]
  omega

theorem EncodingFits.remN (g : Lit) (h : Bool) (sd : Nat) (sa : Nat) (sb : Nat) : EncodingFits.Statement (.remN g h sd sa sb) := by
  intro hw
  simp only [Instr.WellFormed, Lit.wf, Lit.wfOp, inS] at hw
  have h0 := code_le g
  have h1 := ofFlag_le h
  simp only [encode, Instr.cls, encodeS, encSR]
  omega

theorem EncodingFits.cmp (g : Lit) (cond : Nat) (gd : Nat) (sa : Nat) (sb : Nat) : EncodingFits.Statement (.cmp g cond gd sa sb) := by
  intro hw
  simp only [Instr.WellFormed, Lit.wf, Lit.wfOp, inS] at hw
  have h0 := code_le g
  simp only [encode, Instr.cls, encodeS, encSR, ofFlag, Bool.false_eq_true, if_false]
  omega

theorem EncodingFits.gand (g : Lit) (gd : Nat) (la : Lit) (lb : Lit) : EncodingFits.Statement (.gand g gd la lb) := by
  intro hw
  simp only [Instr.WellFormed, Lit.wf, Lit.wfOp, inS] at hw
  have h0 := code_le g
  have h1 := code_le la
  have h2 := code_le lb
  simp only [encode, Instr.cls, encodeS, encSR, ofFlag, Bool.false_eq_true, if_false]
  omega

theorem EncodingFits.gor (g : Lit) (gd : Nat) (la : Lit) (lb : Lit) : EncodingFits.Statement (.gor g gd la lb) := by
  intro hw
  simp only [Instr.WellFormed, Lit.wf, Lit.wfOp, inS] at hw
  have h0 := code_le g
  have h1 := code_le la
  have h2 := code_le lb
  simp only [encode, Instr.cls, encodeS, encSR, ofFlag, Bool.false_eq_true, if_false]
  omega

theorem EncodingFits.gnot (g : Lit) (gd : Nat) (la : Lit) : EncodingFits.Statement (.gnot g gd la) := by
  intro hw
  simp only [Instr.WellFormed, Lit.wf, Lit.wfOp, inS] at hw
  have h0 := code_le g
  have h1 := code_le la
  simp only [encode, Instr.cls, encodeS, encSR, ofFlag, Bool.false_eq_true, if_false]
  omega

theorem EncodingFits.gcopy (g : Lit) (gd : Nat) (la : Lit) : EncodingFits.Statement (.gcopy g gd la) := by
  intro hw
  simp only [Instr.WellFormed, Lit.wf, Lit.wfOp, inS] at hw
  have h0 := code_le g
  have h1 := code_le la
  simp only [encode, Instr.cls, encodeS, encSR, ofFlag, Bool.false_eq_true, if_false]
  omega

theorem EncodingFits.takeWait (g : Lit) (k : Nat) : EncodingFits.Statement (.takeWait g k) := by
  intro hw
  simp only [Instr.WellFormed, Lit.wf, Lit.wfOp, inS] at hw
  have h0 := code_le g
  simp only [encode, Instr.cls, encodeS, encSR, ofFlag, Bool.false_eq_true, if_false]
  omega

theorem EncodingFits.tkcnt (g : Lit) (sd : Nat) (sa : Nat) : EncodingFits.Statement (.tkcnt g sd sa) := by
  intro hw
  simp only [Instr.WellFormed, Lit.wf, Lit.wfOp, inS] at hw
  have h0 := code_le g
  simp only [encode, Instr.cls, encodeS, encSR, ofFlag, Bool.false_eq_true, if_false]
  omega

theorem EncodingFits.csrr (g : Lit) (sd : Nat) (n : Nat) : EncodingFits.Statement (.csrr g sd n) := by
  intro hw
  simp only [Instr.WellFormed, Lit.wf, Lit.wfOp, inS] at hw
  have h0 := code_le g
  simp only [encode, Instr.cls, encodeS, encSR, ofFlag, Bool.false_eq_true, if_false]
  omega

theorem EncodingFits.csrw (g : Lit) (sa : Nat) (n : Nat) : EncodingFits.Statement (.csrw g sa n) := by
  intro hw
  simp only [Instr.WellFormed, Lit.wf, Lit.wfOp, inS] at hw
  have h0 := code_le g
  simp only [encode, Instr.cls, encodeS, encSR, ofFlag, Bool.false_eq_true, if_false]
  omega

theorem EncodingFits.rol (g : Lit) (h : Bool) (sd : Nat) (sa : Nat) (sb : Nat) : EncodingFits.Statement (.rol g h sd sa sb) := by
  intro hw
  simp only [Instr.WellFormed, Lit.wf, Lit.wfOp, inS] at hw
  have h0 := code_le g
  have h1 := ofFlag_le h
  simp only [encode, Instr.cls, encodeS, encSR]
  omega

theorem EncodingFits.ror (g : Lit) (h : Bool) (sd : Nat) (sa : Nat) (sb : Nat) : EncodingFits.Statement (.ror g h sd sa sb) := by
  intro hw
  simp only [Instr.WellFormed, Lit.wf, Lit.wfOp, inS] at hw
  have h0 := code_le g
  have h1 := ofFlag_le h
  simp only [encode, Instr.cls, encodeS, encSR]
  omega

theorem EncodingFits.ctz (g : Lit) (h : Bool) (sd : Nat) (sa : Nat) : EncodingFits.Statement (.ctz g h sd sa) := by
  intro hw
  simp only [Instr.WellFormed, Lit.wf, Lit.wfOp, inS] at hw
  have h0 := code_le g
  have h1 := ofFlag_le h
  simp only [encode, Instr.cls, encodeS, encSR]
  omega

theorem EncodingFits.addx1 (g : Lit) (h : Bool) (sd : Nat) (sa : Nat) (sb : Nat) : EncodingFits.Statement (.addx1 g h sd sa sb) := by
  intro hw
  simp only [Instr.WellFormed, Lit.wf, Lit.wfOp, inS] at hw
  have h0 := code_le g
  have h1 := ofFlag_le h
  simp only [encode, Instr.cls, encodeS, encSR]
  omega

theorem EncodingFits.addx2 (g : Lit) (h : Bool) (sd : Nat) (sa : Nat) (sb : Nat) : EncodingFits.Statement (.addx2 g h sd sa sb) := by
  intro hw
  simp only [Instr.WellFormed, Lit.wf, Lit.wfOp, inS] at hw
  have h0 := code_le g
  have h1 := ofFlag_le h
  simp only [encode, Instr.cls, encodeS, encSR]
  omega

theorem EncodingFits.addx3 (g : Lit) (h : Bool) (sd : Nat) (sa : Nat) (sb : Nat) : EncodingFits.Statement (.addx3 g h sd sa sb) := by
  intro hw
  simp only [Instr.WellFormed, Lit.wf, Lit.wfOp, inS] at hw
  have h0 := code_le g
  have h1 := ofFlag_le h
  simp only [encode, Instr.cls, encodeS, encSR]
  omega

theorem EncodingFits.addx8 (g : Lit) (h : Bool) (sd : Nat) (sa : Nat) (sb : Nat) : EncodingFits.Statement (.addx8 g h sd sa sb) := by
  intro hw
  simp only [Instr.WellFormed, Lit.wf, Lit.wfOp, inS] at hw
  have h0 := code_le g
  have h1 := ofFlag_le h
  simp only [encode, Instr.cls, encodeS, encSR]
  omega

theorem EncodingFits.addi (g : Lit) (sd : Nat) (sa : Nat) (imm : Int) : EncodingFits.Statement (.addi g sd sa imm) := by
  intro hw
  simp only [Instr.WellFormed, Lit.wf, Lit.wfOp, inS] at hw
  have h0 := code_le g
  have h1 := unsigned_lt 12 imm
  simp only [encode, Instr.cls, encodeS]
  omega

theorem EncodingFits.lih (sd : Nat) (imm : Nat) : EncodingFits.Statement (.lih sd imm) := by
  intro hw
  simp only [Instr.WellFormed, Lit.wf, Lit.wfOp, inS] at hw
  simp only [encode, Instr.cls, encodeS]
  omega

theorem EncodingFits.cmpi (g : Lit) (cond : Nat) (gd : Nat) (sa : Nat) (imm : Nat) : EncodingFits.Statement (.cmpi g cond gd sa imm) := by
  intro hw
  simp only [Instr.WellFormed, Lit.wf, Lit.wfOp, inS] at hw
  have h0 := code_le g
  simp only [encode, Instr.cls, encodeS]
  omega

theorem EncodingFits.shli (g : Lit) (sd : Nat) (sa : Nat) (amt : Nat) : EncodingFits.Statement (.shli g sd sa amt) := by
  intro hw
  simp only [Instr.WellFormed, Lit.wf, Lit.wfOp, inS] at hw
  have h0 := code_le g
  simp only [encode, Instr.cls, encodeS, encSL]
  omega

theorem EncodingFits.shri (g : Lit) (sd : Nat) (sa : Nat) (amt : Nat) : EncodingFits.Statement (.shri g sd sa amt) := by
  intro hw
  simp only [Instr.WellFormed, Lit.wf, Lit.wfOp, inS] at hw
  have h0 := code_le g
  simp only [encode, Instr.cls, encodeS, encSL]
  omega

theorem EncodingFits.sari (g : Lit) (sd : Nat) (sa : Nat) (amt : Nat) : EncodingFits.Statement (.sari g sd sa amt) := by
  intro hw
  simp only [Instr.WellFormed, Lit.wf, Lit.wfOp, inS] at hw
  have h0 := code_le g
  simp only [encode, Instr.cls, encodeS, encSL]
  omega

theorem EncodingFits.andi (g : Lit) (sd : Nat) (sa : Nat) (imm : Int) : EncodingFits.Statement (.andi g sd sa imm) := by
  intro hw
  simp only [Instr.WellFormed, Lit.wf, Lit.wfOp, inS] at hw
  have h0 := code_le g
  have h1 := unsigned_lt 9 imm
  simp only [encode, Instr.cls, encodeS, encSL]
  omega

theorem EncodingFits.ori (g : Lit) (sd : Nat) (sa : Nat) (imm : Int) : EncodingFits.Statement (.ori g sd sa imm) := by
  intro hw
  simp only [Instr.WellFormed, Lit.wf, Lit.wfOp, inS] at hw
  have h0 := code_le g
  have h1 := unsigned_lt 9 imm
  simp only [encode, Instr.cls, encodeS, encSL]
  omega

theorem EncodingFits.xori (g : Lit) (sd : Nat) (sa : Nat) (imm : Int) : EncodingFits.Statement (.xori g sd sa imm) := by
  intro hw
  simp only [Instr.WellFormed, Lit.wf, Lit.wfOp, inS] at hw
  have h0 := code_le g
  have h1 := unsigned_lt 9 imm
  simp only [encode, Instr.cls, encodeS, encSL]
  omega

theorem EncodingFits.roli (g : Lit) (sd : Nat) (sa : Nat) (amt : Nat) : EncodingFits.Statement (.roli g sd sa amt) := by
  intro hw
  simp only [Instr.WellFormed, Lit.wf, Lit.wfOp, inS] at hw
  have h0 := code_le g
  simp only [encode, Instr.cls, encodeS, encSL]
  omega

theorem EncodingFits.vaddInt (g : Lit) (ty : Nat) (vd : Nat) (va : Nat) (vb : Nat) : EncodingFits.Statement (.vaddInt g ty vd va vb) := by
  intro hw
  simp only [Instr.WellFormed, Lit.wf, Lit.wfOp, inS] at hw
  have h0 := code_le g
  simp only [encode, Instr.cls, encodeV, encVA]
  omega

theorem EncodingFits.vsubInt (g : Lit) (ty : Nat) (vd : Nat) (va : Nat) (vb : Nat) : EncodingFits.Statement (.vsubInt g ty vd va vb) := by
  intro hw
  simp only [Instr.WellFormed, Lit.wf, Lit.wfOp, inS] at hw
  have h0 := code_le g
  simp only [encode, Instr.cls, encodeV, encVA]
  omega

theorem EncodingFits.vmulInt (g : Lit) (ty : Nat) (vd : Nat) (va : Nat) (vb : Nat) : EncodingFits.Statement (.vmulInt g ty vd va vb) := by
  intro hw
  simp only [Instr.WellFormed, Lit.wf, Lit.wfOp, inS] at hw
  have h0 := code_le g
  simp only [encode, Instr.cls, encodeV, encVA]
  omega

theorem EncodingFits.vminInt (g : Lit) (ty : Nat) (vd : Nat) (va : Nat) (vb : Nat) : EncodingFits.Statement (.vminInt g ty vd va vb) := by
  intro hw
  simp only [Instr.WellFormed, Lit.wf, Lit.wfOp, inS] at hw
  have h0 := code_le g
  simp only [encode, Instr.cls, encodeV, encVA]
  omega

theorem EncodingFits.vmaxInt (g : Lit) (ty : Nat) (vd : Nat) (va : Nat) (vb : Nat) : EncodingFits.Statement (.vmaxInt g ty vd va vb) := by
  intro hw
  simp only [Instr.WellFormed, Lit.wf, Lit.wfOp, inS] at hw
  have h0 := code_le g
  simp only [encode, Instr.cls, encodeV, encVA]
  omega

theorem EncodingFits.vminN (g : Lit) (ty : Nat) (vd : Nat) (va : Nat) (vb : Nat) : EncodingFits.Statement (.vminN g ty vd va vb) := by
  intro hw
  simp only [Instr.WellFormed, Lit.wf, Lit.wfOp, inS] at hw
  have h0 := code_le g
  simp only [encode, Instr.cls, encodeV, encVA]
  omega

theorem EncodingFits.vmaxN (g : Lit) (ty : Nat) (vd : Nat) (va : Nat) (vb : Nat) : EncodingFits.Statement (.vmaxN g ty vd va vb) := by
  intro hw
  simp only [Instr.WellFormed, Lit.wf, Lit.wfOp, inS] at hw
  have h0 := code_le g
  simp only [encode, Instr.cls, encodeV, encVA]
  omega

theorem EncodingFits.vaddSatI (g : Lit) (ty : Nat) (vd : Nat) (va : Nat) (vb : Nat) : EncodingFits.Statement (.vaddSatI g ty vd va vb) := by
  intro hw
  simp only [Instr.WellFormed, Lit.wf, Lit.wfOp, inS] at hw
  have h0 := code_le g
  simp only [encode, Instr.cls, encodeV, encVA]
  omega

theorem EncodingFits.vsubSatI (g : Lit) (ty : Nat) (vd : Nat) (va : Nat) (vb : Nat) : EncodingFits.Statement (.vsubSatI g ty vd va vb) := by
  intro hw
  simp only [Instr.WellFormed, Lit.wf, Lit.wfOp, inS] at hw
  have h0 := code_le g
  simp only [encode, Instr.cls, encodeV, encVA]
  omega

theorem EncodingFits.vaddSatN (g : Lit) (ty : Nat) (vd : Nat) (va : Nat) (vb : Nat) : EncodingFits.Statement (.vaddSatN g ty vd va vb) := by
  intro hw
  simp only [Instr.WellFormed, Lit.wf, Lit.wfOp, inS] at hw
  have h0 := code_le g
  simp only [encode, Instr.cls, encodeV, encVA]
  omega

theorem EncodingFits.vsubSatN (g : Lit) (ty : Nat) (vd : Nat) (va : Nat) (vb : Nat) : EncodingFits.Statement (.vsubSatN g ty vd va vb) := by
  intro hw
  simp only [Instr.WellFormed, Lit.wf, Lit.wfOp, inS] at hw
  have h0 := code_le g
  simp only [encode, Instr.cls, encodeV, encVA]
  omega

theorem EncodingFits.vshl (g : Lit) (ty : Nat) (vd : Nat) (va : Nat) (vb : Nat) : EncodingFits.Statement (.vshl g ty vd va vb) := by
  intro hw
  simp only [Instr.WellFormed, Lit.wf, Lit.wfOp, inS] at hw
  have h0 := code_le g
  simp only [encode, Instr.cls, encodeV, encVA]
  omega

theorem EncodingFits.vshr (g : Lit) (ty : Nat) (vd : Nat) (va : Nat) (vb : Nat) : EncodingFits.Statement (.vshr g ty vd va vb) := by
  intro hw
  simp only [Instr.WellFormed, Lit.wf, Lit.wfOp, inS] at hw
  have h0 := code_le g
  simp only [encode, Instr.cls, encodeV, encVA]
  omega

theorem EncodingFits.vsar (g : Lit) (ty : Nat) (vd : Nat) (va : Nat) (vb : Nat) : EncodingFits.Statement (.vsar g ty vd va vb) := by
  intro hw
  simp only [Instr.WellFormed, Lit.wf, Lit.wfOp, inS] at hw
  have h0 := code_le g
  simp only [encode, Instr.cls, encodeV, encVA]
  omega

theorem EncodingFits.vand (g : Lit) (vd : Nat) (va : Nat) (vb : Nat) : EncodingFits.Statement (.vand g vd va vb) := by
  intro hw
  simp only [Instr.WellFormed, Lit.wf, Lit.wfOp, inS] at hw
  have h0 := code_le g
  simp only [encode, Instr.cls, encodeV, encVA]
  omega

theorem EncodingFits.vor (g : Lit) (vd : Nat) (va : Nat) (vb : Nat) : EncodingFits.Statement (.vor g vd va vb) := by
  intro hw
  simp only [Instr.WellFormed, Lit.wf, Lit.wfOp, inS] at hw
  have h0 := code_le g
  simp only [encode, Instr.cls, encodeV, encVA]
  omega

theorem EncodingFits.vxor (g : Lit) (vd : Nat) (va : Nat) (vb : Nat) : EncodingFits.Statement (.vxor g vd va vb) := by
  intro hw
  simp only [Instr.WellFormed, Lit.wf, Lit.wfOp, inS] at hw
  have h0 := code_le g
  simp only [encode, Instr.cls, encodeV, encVA]
  omega

theorem EncodingFits.vandn (g : Lit) (vd : Nat) (va : Nat) (vb : Nat) : EncodingFits.Statement (.vandn g vd va vb) := by
  intro hw
  simp only [Instr.WellFormed, Lit.wf, Lit.wfOp, inS] at hw
  have h0 := code_le g
  simp only [encode, Instr.cls, encodeV, encVA]
  omega

theorem EncodingFits.vaddFp (g : Lit) (ty : Nat) (vd : Nat) (va : Nat) (vb : Nat) : EncodingFits.Statement (.vaddFp g ty vd va vb) := by
  intro hw
  simp only [Instr.WellFormed, Lit.wf, Lit.wfOp, inS] at hw
  have h0 := code_le g
  simp only [encode, Instr.cls, encodeV, encVA]
  omega

theorem EncodingFits.vsubFp (g : Lit) (ty : Nat) (vd : Nat) (va : Nat) (vb : Nat) : EncodingFits.Statement (.vsubFp g ty vd va vb) := by
  intro hw
  simp only [Instr.WellFormed, Lit.wf, Lit.wfOp, inS] at hw
  have h0 := code_le g
  simp only [encode, Instr.cls, encodeV, encVA]
  omega

theorem EncodingFits.vmulFp (g : Lit) (ty : Nat) (vd : Nat) (va : Nat) (vb : Nat) : EncodingFits.Statement (.vmulFp g ty vd va vb) := by
  intro hw
  simp only [Instr.WellFormed, Lit.wf, Lit.wfOp, inS] at hw
  have h0 := code_le g
  simp only [encode, Instr.cls, encodeV, encVA]
  omega

theorem EncodingFits.vfma (g : Lit) (ty : Nat) (vd : Nat) (va : Nat) (vb : Nat) : EncodingFits.Statement (.vfma g ty vd va vb) := by
  intro hw
  simp only [Instr.WellFormed, Lit.wf, Lit.wfOp, inS] at hw
  have h0 := code_le g
  simp only [encode, Instr.cls, encodeV, encVA]
  omega

theorem EncodingFits.vminFp (g : Lit) (ty : Nat) (vd : Nat) (va : Nat) (vb : Nat) : EncodingFits.Statement (.vminFp g ty vd va vb) := by
  intro hw
  simp only [Instr.WellFormed, Lit.wf, Lit.wfOp, inS] at hw
  have h0 := code_le g
  simp only [encode, Instr.cls, encodeV, encVA]
  omega

theorem EncodingFits.vmaxFp (g : Lit) (ty : Nat) (vd : Nat) (va : Nat) (vb : Nat) : EncodingFits.Statement (.vmaxFp g ty vd va vb) := by
  intro hw
  simp only [Instr.WellFormed, Lit.wf, Lit.wfOp, inS] at hw
  have h0 := code_le g
  simp only [encode, Instr.cls, encodeV, encVA]
  omega

theorem EncodingFits.vcmpInt (g : Lit) (ty : Nat) (cond : Nat) (m : Nat) (va : Nat) (vb : Nat) : EncodingFits.Statement (.vcmpInt g ty cond m va vb) := by
  intro hw
  simp only [Instr.WellFormed, Lit.wf, Lit.wfOp, inS] at hw
  have h0 := code_le g
  simp only [encode, Instr.cls, encodeV, encVA]
  omega

theorem EncodingFits.vcmpFp (g : Lit) (ty : Nat) (cond : Nat) (m : Nat) (va : Nat) (vb : Nat) : EncodingFits.Statement (.vcmpFp g ty cond m va vb) := by
  intro hw
  simp only [Instr.WellFormed, Lit.wf, Lit.wfOp, inS] at hw
  have h0 := code_le g
  simp only [encode, Instr.cls, encodeV, encVA]
  omega

theorem EncodingFits.vsel (g : Lit) (ty : Nat) (vd : Nat) (va : Nat) (m : Nat) : EncodingFits.Statement (.vsel g ty vd va m) := by
  intro hw
  simp only [Instr.WellFormed, Lit.wf, Lit.wfOp, inS] at hw
  have h0 := code_le g
  simp only [encode, Instr.cls, encodeV, encVA]
  omega

theorem EncodingFits.vpermb (g : Lit) (vd : Nat) (va : Nat) (vb : Nat) : EncodingFits.Statement (.vpermb g vd va vb) := by
  intro hw
  simp only [Instr.WellFormed, Lit.wf, Lit.wfOp, inS] at hw
  have h0 := code_le g
  simp only [encode, Instr.cls, encodeV, encVA]
  omega

theorem EncodingFits.vshuf (g : Lit) (vd : Nat) (va : Nat) (vb : Nat) : EncodingFits.Statement (.vshuf g vd va vb) := by
  intro hw
  simp only [Instr.WellFormed, Lit.wf, Lit.wfOp, inS] at hw
  have h0 := code_le g
  simp only [encode, Instr.cls, encodeV, encVA]
  omega

theorem EncodingFits.vdot4 (g : Lit) (uns : Bool) (vd : Nat) (va : Nat) (vb : Nat) : EncodingFits.Statement (.vdot4 g uns vd va vb) := by
  intro hw
  simp only [Instr.WellFormed, Lit.wf, Lit.wfOp, inS] at hw
  have h0 := code_le g
  have h1 := ofFlag_le uns
  simp only [encode, Instr.cls, encodeV, encVA]
  omega

theorem EncodingFits.vbcast (g : Lit) (ty : Nat) (vd : Nat) (va : Nat) (vb : Nat) : EncodingFits.Statement (.vbcast g ty vd va vb) := by
  intro hw
  simp only [Instr.WellFormed, Lit.wf, Lit.wfOp, inS] at hw
  have h0 := code_le g
  simp only [encode, Instr.cls, encodeV, encVA]
  omega

theorem EncodingFits.vpack (g : Lit) (ty : Nat) (vd : Nat) (va : Nat) (vb : Nat) : EncodingFits.Statement (.vpack g ty vd va vb) := by
  intro hw
  simp only [Instr.WellFormed, Lit.wf, Lit.wfOp, inS] at hw
  have h0 := code_le g
  simp only [encode, Instr.cls, encodeV, encVA]
  omega

theorem EncodingFits.vunpk (g : Lit) (ty : Nat) (vd : Nat) (va : Nat) (hi : Bool) (zx : Bool) : EncodingFits.Statement (.vunpk g ty vd va hi zx) := by
  intro hw
  simp only [Instr.WellFormed, Lit.wf, Lit.wfOp, inS] at hw
  have h0 := code_le g
  have h1 := ofFlag_le hi
  have h2 := ofFlag_le zx
  simp only [encode, Instr.cls, encodeV, encVA]
  omega

theorem EncodingFits.vcvt (g : Lit) (dst : Nat) (rnd : Nat) (src : Nat) (vd : Nat) (va : Nat) : EncodingFits.Statement (.vcvt g dst rnd src vd va) := by
  intro hw
  simp only [Instr.WellFormed, Lit.wf, Lit.wfOp, inS] at hw
  have h0 := code_le g
  simp only [encode, Instr.cls, encodeV, encVA]
  omega

theorem EncodingFits.vmov (g : Lit) (vd : Nat) (va : Nat) : EncodingFits.Statement (.vmov g vd va) := by
  intro hw
  simp only [Instr.WellFormed, Lit.wf, Lit.wfOp, inS] at hw
  have h0 := code_le g
  simp only [encode, Instr.cls, encodeV, encVA]
  omega

theorem EncodingFits.vexp (g : Lit) (ty : Nat) (vd : Nat) (va : Nat) : EncodingFits.Statement (.vexp g ty vd va) := by
  intro hw
  simp only [Instr.WellFormed, Lit.wf, Lit.wfOp, inS] at hw
  have h0 := code_le g
  simp only [encode, Instr.cls, encodeV, encVA]
  omega

theorem EncodingFits.vrcp (g : Lit) (ty : Nat) (vd : Nat) (va : Nat) : EncodingFits.Statement (.vrcp g ty vd va) := by
  intro hw
  simp only [Instr.WellFormed, Lit.wf, Lit.wfOp, inS] at hw
  have h0 := code_le g
  simp only [encode, Instr.cls, encodeV, encVA]
  omega

theorem EncodingFits.vrsq (g : Lit) (ty : Nat) (vd : Nat) (va : Nat) : EncodingFits.Statement (.vrsq g ty vd va) := by
  intro hw
  simp only [Instr.WellFormed, Lit.wf, Lit.wfOp, inS] at hw
  have h0 := code_le g
  simp only [encode, Instr.cls, encodeV, encVA]
  omega

theorem EncodingFits.vlog (g : Lit) (ty : Nat) (vd : Nat) (va : Nat) : EncodingFits.Statement (.vlog g ty vd va) := by
  intro hw
  simp only [Instr.WellFormed, Lit.wf, Lit.wfOp, inS] at hw
  have h0 := code_le g
  simp only [encode, Instr.cls, encodeV, encVA]
  omega

theorem EncodingFits.vredAdd (g : Lit) (ty : Nat) (sd : Nat) (va : Nat) : EncodingFits.Statement (.vredAdd g ty sd va) := by
  intro hw
  simp only [Instr.WellFormed, Lit.wf, Lit.wfOp, inS] at hw
  have h0 := code_le g
  simp only [encode, Instr.cls, encodeV, encVA]
  omega

theorem EncodingFits.vredMax (g : Lit) (ty : Nat) (sd : Nat) (va : Nat) : EncodingFits.Statement (.vredMax g ty sd va) := by
  intro hw
  simp only [Instr.WellFormed, Lit.wf, Lit.wfOp, inS] at hw
  have h0 := code_le g
  simp only [encode, Instr.cls, encodeV, encVA]
  omega

theorem EncodingFits.vredMin (g : Lit) (ty : Nat) (sd : Nat) (va : Nat) : EncodingFits.Statement (.vredMin g ty sd va) := by
  intro hw
  simp only [Instr.WellFormed, Lit.wf, Lit.wfOp, inS] at hw
  have h0 := code_le g
  simp only [encode, Instr.cls, encodeV, encVA]
  omega

theorem EncodingFits.vany (g : Lit) (ty : Nat) (gd : Nat) (m : Nat) : EncodingFits.Statement (.vany g ty gd m) := by
  intro hw
  simp only [Instr.WellFormed, Lit.wf, Lit.wfOp, inS] at hw
  have h0 := code_le g
  simp only [encode, Instr.cls, encodeV, encVA]
  omega

theorem EncodingFits.vall (g : Lit) (ty : Nat) (gd : Nat) (m : Nat) : EncodingFits.Statement (.vall g ty gd m) := by
  intro hw
  simp only [Instr.WellFormed, Lit.wf, Lit.wfOp, inS] at hw
  have h0 := code_le g
  simp only [encode, Instr.cls, encodeV, encVA]
  omega

theorem EncodingFits.vscanAdd (g : Lit) (ty : Nat) (vd : Nat) (va : Nat) : EncodingFits.Statement (.vscanAdd g ty vd va) := by
  intro hw
  simp only [Instr.WellFormed, Lit.wf, Lit.wfOp, inS] at hw
  have h0 := code_le g
  simp only [encode, Instr.cls, encodeV, encVA]
  omega

theorem EncodingFits.vscanMax (g : Lit) (ty : Nat) (vd : Nat) (va : Nat) : EncodingFits.Statement (.vscanMax g ty vd va) := by
  intro hw
  simp only [Instr.WellFormed, Lit.wf, Lit.wfOp, inS] at hw
  have h0 := code_le g
  simp only [encode, Instr.cls, encodeV, encVA]
  omega

theorem EncodingFits.vrng (g : Lit) (vd : Nat) (va : Nat) : EncodingFits.Statement (.vrng g vd va) := by
  intro hw
  simp only [Instr.WellFormed, Lit.wf, Lit.wfOp, inS] at hw
  have h0 := code_le g
  simp only [encode, Instr.cls, encodeV, encVA]
  omega

theorem EncodingFits.vsat (g : Lit) (ty : Nat) (vd : Nat) (va : Nat) : EncodingFits.Statement (.vsat g ty vd va) := by
  intro hw
  simp only [Instr.WellFormed, Lit.wf, Lit.wfOp, inS] at hw
  have h0 := code_le g
  simp only [encode, Instr.cls, encodeV, encVA]
  omega

theorem EncodingFits.vsatN (g : Lit) (ty : Nat) (vd : Nat) (va : Nat) : EncodingFits.Statement (.vsatN g ty vd va) := by
  intro hw
  simp only [Instr.WellFormed, Lit.wf, Lit.wfOp, inS] at hw
  have h0 := code_le g
  simp only [encode, Instr.cls, encodeV, encVA]
  omega

theorem EncodingFits.vcompressG16 (g : Lit) (ty : Nat) (vd : Nat) (va : Nat) : EncodingFits.Statement (.vcompressG16 g ty vd va) := by
  intro hw
  simp only [Instr.WellFormed, Lit.wf, Lit.wfOp, inS] at hw
  have h0 := code_le g
  simp only [encode, Instr.cls, encodeV, encVA]
  omega

theorem EncodingFits.vcompressG8 (g : Lit) (k : Nat) (ty : Nat) (vd : Nat) (va : Nat) : EncodingFits.Statement (.vcompressG8 g k ty vd va) := by
  intro hw
  simp only [Instr.WellFormed, Lit.wf, Lit.wfOp, inS] at hw
  have h0 := code_le g
  simp only [encode, Instr.cls, encodeV, encVA]
  omega

theorem EncodingFits.vmovOq (g : Lit) (vd : Nat) (oq : Nat) (vb : Nat) : EncodingFits.Statement (.vmovOq g vd oq vb) := by
  intro hw
  simp only [Instr.WellFormed, Lit.wf, Lit.wfOp, inS] at hw
  have h0 := code_le g
  simp only [encode, Instr.cls, encodeV, encVQ]
  omega

theorem EncodingFits.vaddOqFp (g : Lit) (ty : Nat) (vd : Nat) (oq : Nat) (vb : Nat) : EncodingFits.Statement (.vaddOqFp g ty vd oq vb) := by
  intro hw
  simp only [Instr.WellFormed, Lit.wf, Lit.wfOp, inS] at hw
  have h0 := code_le g
  simp only [encode, Instr.cls, encodeV, encVQ]
  omega

theorem EncodingFits.vmulOqFp (g : Lit) (ty : Nat) (vd : Nat) (oq : Nat) (vb : Nat) : EncodingFits.Statement (.vmulOqFp g ty vd oq vb) := by
  intro hw
  simp only [Instr.WellFormed, Lit.wf, Lit.wfOp, inS] at hw
  have h0 := code_le g
  simp only [encode, Instr.cls, encodeV, encVQ]
  omega

theorem EncodingFits.vfmaOq (g : Lit) (ty : Nat) (vd : Nat) (oq : Nat) (vb : Nat) : EncodingFits.Statement (.vfmaOq g ty vd oq vb) := by
  intro hw
  simp only [Instr.WellFormed, Lit.wf, Lit.wfOp, inS] at hw
  have h0 := code_le g
  simp only [encode, Instr.cls, encodeV, encVQ]
  omega

theorem EncodingFits.vmaxOq (g : Lit) (ty : Nat) (vd : Nat) (oq : Nat) (vb : Nat) : EncodingFits.Statement (.vmaxOq g ty vd oq vb) := by
  intro hw
  simp only [Instr.WellFormed, Lit.wf, Lit.wfOp, inS] at hw
  have h0 := code_le g
  simp only [encode, Instr.cls, encodeV, encVQ]
  omega

theorem EncodingFits.vaddOqInt (g : Lit) (ty : Nat) (vd : Nat) (oq : Nat) (vb : Nat) : EncodingFits.Statement (.vaddOqInt g ty vd oq vb) := by
  intro hw
  simp only [Instr.WellFormed, Lit.wf, Lit.wfOp, inS] at hw
  have h0 := code_le g
  simp only [encode, Instr.cls, encodeV, encVQ]
  omega

theorem EncodingFits.vmulOqInt (g : Lit) (ty : Nat) (vd : Nat) (oq : Nat) (vb : Nat) : EncodingFits.Statement (.vmulOqInt g ty vd oq vb) := by
  intro hw
  simp only [Instr.WellFormed, Lit.wf, Lit.wfOp, inS] at hw
  have h0 := code_le g
  simp only [encode, Instr.cls, encodeV, encVQ]
  omega

theorem EncodingFits.mwload (fmt : Nat) (bank : Nat) (p : Nat) : EncodingFits.Statement (.mwload fmt bank p) := by
  intro hw
  simp only [Instr.WellFormed, Lit.wf, Lit.wfOp, inS] at hw
  simp only [encode, Instr.cls, encodeM]
  omega

theorem EncodingFits.mswap (mask : Nat) : EncodingFits.Statement (.mswap mask) := by
  intro hw
  simp only [Instr.WellFormed, Lit.wf, Lit.wfOp, inS] at hw
  simp only [encode, Instr.cls, encodeM]
  omega

theorem EncodingFits.mres (bank : Nat) (sa : Nat) : EncodingFits.Statement (.mres bank sa) := by
  intro hw
  simp only [Instr.WellFormed, Lit.wf, Lit.wfOp, inS] at hw
  simp only [encode, Instr.cls, encodeM]
  omega

theorem EncodingFits.mmulTm (init : Bool) (live : Bool) (acc : Nat) (p : Nat) (m : Nat) (n : Nat) (sl : Nat) : EncodingFits.Statement (.mmulTm init live acc p m n sl) := by
  intro hw
  simp only [Instr.WellFormed, Lit.wf, Lit.wfOp, inS] at hw
  have h0 := ofFlag_le init
  have h1 := ofFlag_le live
  simp only [encode, Instr.cls, encodeM]
  omega

theorem EncodingFits.mmulBank (init : Bool) (live : Bool) (acc : Nat) (p : Nat) (bank : Nat) (n : Nat) (sl : Nat) : EncodingFits.Statement (.mmulBank init live acc p bank n sl) := by
  intro hw
  simp only [Instr.WellFormed, Lit.wf, Lit.wfOp, inS] at hw
  have h0 := ofFlag_le init
  have h1 := ofFlag_le live
  simp only [encode, Instr.cls, encodeM]
  omega

theorem EncodingFits.mdrain (oq : Nat) (acc : Nat) (scale : Bool) (topk : Bool) (tree : Bool) (sp : Nat) (n : Nat) : EncodingFits.Statement (.mdrain oq acc scale topk tree sp n) := by
  intro hw
  simp only [Instr.WellFormed, Lit.wf, Lit.wfOp, inS] at hw
  have h0 := ofFlag_le scale
  have h1 := ofFlag_le topk
  have h2 := ofFlag_le tree
  simp only [encode, Instr.cls, encodeM]
  omega

theorem EncodingFits.mtopk (k : Nat) (sa : Nat) : EncodingFits.Statement (.mtopk k sa) := by
  intro hw
  simp only [Instr.WellFormed, Lit.wf, Lit.wfOp, inS] at hw
  simp only [encode, Instr.cls, encodeM]
  omega

theorem EncodingFits.mtree (sa : Nat) : EncodingFits.Statement (.mtree sa) := by
  intro hw
  simp only [Instr.WellFormed, Lit.wf, Lit.wfOp, inS] at hw
  simp only [encode, Instr.cls, encodeM]
  omega

theorem EncodingFits.mgrad (bank : Nat) (acc : Nat) (p : Nat) (n : Nat) : EncodingFits.Statement (.mgrad bank acc p n) := by
  intro hw
  simp only [Instr.WellFormed, Lit.wf, Lit.wfOp, inS] at hw
  simp only [encode, Instr.cls, encodeM]
  omega

theorem EncodingFits.mlive (sd : Nat) (acc : Nat) : EncodingFits.Statement (.mlive sd acc) := by
  intro hw
  simp only [Instr.WellFormed, Lit.wf, Lit.wfOp, inS] at hw
  simp only [encode, Instr.cls, encodeM]
  omega

theorem EncodingFits.mclr (mask : Nat) : EncodingFits.Statement (.mclr mask) := by
  intro hw
  simp only [Instr.WellFormed, Lit.wf, Lit.wfOp, inS] at hw
  simp only [encode, Instr.cls, encodeM]
  omega

theorem EncodingFits.ld (g : Lit) (ty : Nat) (sd : Nat) (sa : Nat) (off : Int) : EncodingFits.Statement (.ld g ty sd sa off) := by
  intro hw
  simp only [Instr.WellFormed, Lit.wf, Lit.wfOp, inS] at hw
  have h0 := code_le g
  have h1 := unsigned_lt 9 off
  simp only [encode, Instr.cls, encodeL, encLM]
  omega

theorem EncodingFits.st (g : Lit) (ty : Nat) (sv : Nat) (sa : Nat) (off : Int) : EncodingFits.Statement (.st g ty sv sa off) := by
  intro hw
  simp only [Instr.WellFormed, Lit.wf, Lit.wfOp, inS] at hw
  have h0 := code_le g
  have h1 := unsigned_lt 9 off
  simp only [encode, Instr.cls, encodeL, encLM]
  omega

theorem EncodingFits.stZ (g : Lit) (ty : Nat) (sv : Nat) (sa : Nat) (off : Int) : EncodingFits.Statement (.stZ g ty sv sa off) := by
  intro hw
  simp only [Instr.WellFormed, Lit.wf, Lit.wfOp, inS] at hw
  have h0 := code_le g
  have h1 := unsigned_lt 9 off
  simp only [encode, Instr.cls, encodeL, encLM]
  omega

theorem EncodingFits.vld (g : Lit) (vd : Nat) (sa : Nat) (off : Int) : EncodingFits.Statement (.vld g vd sa off) := by
  intro hw
  simp only [Instr.WellFormed, Lit.wf, Lit.wfOp, inS] at hw
  have h0 := code_le g
  have h1 := unsigned_lt 8 off
  simp only [encode, Instr.cls, encodeL, encLV]
  omega

theorem EncodingFits.vst (g : Lit) (vv : Nat) (sa : Nat) (off : Int) : EncodingFits.Statement (.vst g vv sa off) := by
  intro hw
  simp only [Instr.WellFormed, Lit.wf, Lit.wfOp, inS] at hw
  have h0 := code_le g
  have h1 := unsigned_lt 8 off
  simp only [encode, Instr.cls, encodeL, encLV]
  omega

theorem EncodingFits.vgather (g : Lit) (vd : Nat) (sa : Nat) (vi : Nat) : EncodingFits.Statement (.vgather g vd sa vi) := by
  intro hw
  simp only [Instr.WellFormed, Lit.wf, Lit.wfOp, inS] at hw
  have h0 := code_le g
  simp only [encode, Instr.cls, encodeL]
  omega

theorem EncodingFits.vscatter (g : Lit) (vv : Nat) (sa : Nat) (vi : Nat) : EncodingFits.Statement (.vscatter g vv sa vi) := by
  intro hw
  simp only [Instr.WellFormed, Lit.wf, Lit.wfOp, inS] at hw
  have h0 := code_le g
  simp only [encode, Instr.cls, encodeL]
  omega

theorem EncodingFits.pset (p : Nat) (sa : Nat) : EncodingFits.Statement (.pset p sa) := by
  intro hw
  simp only [Instr.WellFormed, Lit.wf, Lit.wfOp, inS] at hw
  simp only [encode, Instr.cls, encodeL]
  omega

theorem EncodingFits.ptag (p : Nat) (t : Nat) : EncodingFits.Statement (.ptag p t) := by
  intro hw
  simp only [Instr.WellFormed, Lit.wf, Lit.wfOp, inS] at hw
  simp only [encode, Instr.cls, encodeL]
  omega

theorem EncodingFits.seal (hd : Nat) (sa : Nat) : EncodingFits.Statement (.seal hd sa) := by
  intro hw
  simp only [Instr.WellFormed, Lit.wf, Lit.wfOp, inS] at hw
  simp only [encode, Instr.cls, encodeL]
  omega

theorem EncodingFits.bind (w : Nat) (sa : Nat) : EncodingFits.Statement (.bind w sa) := by
  intro hw
  simp only [Instr.WellFormed, Lit.wf, Lit.wfOp, inS] at hw
  simp only [encode, Instr.cls, encodeL]
  omega

theorem EncodingFits.copy (rd : Nat) (ra : Nat) (rn : Nat) (rt : Nat) : EncodingFits.Statement (.copy rd ra rn rt) := by
  intro hw
  simp only [Instr.WellFormed, Lit.wf, Lit.wfOp, inS] at hw
  simp only [encode, Instr.cls, encodeL]
  omega

theorem EncodingFits.atom (op : Nat) (wide : Bool) (sd : Nat) (sa : Nat) (sb : Nat) : EncodingFits.Statement (.atom op wide sd sa sb) := by
  intro hw
  simp only [Instr.WellFormed, Lit.wf, Lit.wfOp, inS] at hw
  have h0 := ofFlag_le wide
  simp only [encode, Instr.cls, encodeL]
  omega

theorem EncodingFits.fenceX (sa : Nat) : EncodingFits.Statement (.fenceX sa) := by
  intro hw
  simp only [Instr.WellFormed, Lit.wf, Lit.wfOp, inS] at hw
  simp only [encode, Instr.cls, encodeL]
  omega

theorem EncodingFits.pflush (sa : Nat) (sn : Nat) : EncodingFits.Statement (.pflush sa sn) := by
  intro hw
  simp only [Instr.WellFormed, Lit.wf, Lit.wfOp, inS] at hw
  simp only [encode, Instr.cls, encodeL]
  omega

theorem EncodingFits.pfence (sc : Nat) : EncodingFits.Statement (.pfence sc) := by
  intro hw
  simp only [Instr.WellFormed, Lit.wf, Lit.wfOp, inS] at hw
  simp only [encode, Instr.cls, encodeL]
  omega

theorem EncodingFits.rtx (lane : Nat) (v : Nat) : EncodingFits.Statement (.rtx lane v) := by
  intro hw
  simp only [Instr.WellFormed, Lit.wf, Lit.wfOp, inS] at hw
  simp only [encode, Instr.cls, encodeQ]
  omega

theorem EncodingFits.rtap (lane : Nat) (sa : Nat) (t : Nat) : EncodingFits.Statement (.rtap lane sa t) := by
  intro hw
  simp only [Instr.WellFormed, Lit.wf, Lit.wfOp, inS] at hw
  simp only [encode, Instr.cls, encodeQ]
  omega

theorem EncodingFits.tqsend (q : Nat) (v : Nat) : EncodingFits.Statement (.tqsend q v) := by
  intro hw
  simp only [Instr.WellFormed, Lit.wf, Lit.wfOp, inS] at hw
  simp only [encode, Instr.cls, encodeQ]
  omega

theorem EncodingFits.tqrecv (v : Nat) (q : Nat) : EncodingFits.Statement (.tqrecv v q) := by
  intro hw
  simp only [Instr.WellFormed, Lit.wf, Lit.wfOp, inS] at hw
  simp only [encode, Instr.cls, encodeQ]
  omega

theorem EncodingFits.tqpeek (sd : Nat) (q : Nat) : EncodingFits.Statement (.tqpeek sd q) := by
  intro hw
  simp only [Instr.WellFormed, Lit.wf, Lit.wfOp, inS] at hw
  simp only [encode, Instr.cls, encodeQ]
  omega

theorem EncodingFits.bar (sc : Nat) (b : Nat) (sp : Nat) : EncodingFits.Statement (.bar sc b sp) := by
  intro hw
  simp only [Instr.WellFormed, Lit.wf, Lit.wfOp, inS] at hw
  simp only [encode, Instr.cls, encodeQ]
  omega

theorem EncodingFits.xslot (sd : Nat) (sa : Nat) : EncodingFits.Statement (.xslot sd sa) := by
  intro hw
  simp only [Instr.WellFormed, Lit.wf, Lit.wfOp, inS] at hw
  simp only [encode, Instr.cls, encodeQ]
  omega

theorem EncodingFits.xslotRel (sd : Nat) (sa : Nat) : EncodingFits.Statement (.xslotRel sd sa) := by
  intro hw
  simp only [Instr.WellFormed, Lit.wf, Lit.wfOp, inS] at hw
  simp only [encode, Instr.cls, encodeQ]
  omega

theorem EncodingFits.accept (sd : Nat) (sa : Nat) : EncodingFits.Statement (.accept sd sa) := by
  intro hw
  simp only [Instr.WellFormed, Lit.wf, Lit.wfOp, inS] at hw
  simp only [encode, Instr.cls, encodeQ]
  omega

theorem EncodingFits.pkey (sd : Nat) (sa : Nat) (sb : Nat) : EncodingFits.Statement (.pkey sd sa sb) := by
  intro hw
  simp only [Instr.WellFormed, Lit.wf, Lit.wfOp, inS] at hw
  simp only [encode, Instr.cls, encodeQ]
  omega

theorem EncodingFits.plook (sd : Nat) (sa : Nat) : EncodingFits.Statement (.plook sd sa) := by
  intro hw
  simp only [Instr.WellFormed, Lit.wf, Lit.wfOp, inS] at hw
  simp only [encode, Instr.cls, encodeQ]
  omega

theorem EncodingFits.combine (rn : Bool) (sa : Nat) : EncodingFits.Statement (.combine rn sa) := by
  intro hw
  simp only [Instr.WellFormed, Lit.wf, Lit.wfOp, inS] at hw
  have h0 := ofFlag_le rn
  simp only [encode, Instr.cls, encodeQ]
  omega

theorem EncodingFits.hring (sa : Nat) : EncodingFits.Statement (.hring sa) := by
  intro hw
  simp only [Instr.WellFormed, Lit.wf, Lit.wfOp, inS] at hw
  simp only [encode, Instr.cls, encodeQ]
  omega

theorem EncodingFits.irq (n : Nat) : EncodingFits.Statement (.irq n) := by
  intro hw
  simp only [Instr.WellFormed, Lit.wf, Lit.wfOp, inS] at hw
  simp only [encode, Instr.cls, encodeQ]
  omega

theorem EncodingFits.resultLanding (core : Nat) (ctx : Nat) (id : Nat) : EncodingFits.Statement (.resultLanding core ctx id) := fun _ => by simp [encode, Instr.cls]

theorem EncodingFits.guardLanding (core : Nat) (ctx : Nat) (gi : Nat) : EncodingFits.Statement (.guardLanding core ctx gi) := fun _ => by simp [encode, Instr.cls]

theorem EncodingFits.brdEffect (core : Nat) (ctx : Nat) : EncodingFits.Statement (.brdEffect core ctx) := fun _ => by simp [encode, Instr.cls]

theorem EncodingFits.heldStoreRelease (core : Nat) (ctx : Nat) : EncodingFits.Statement (.heldStoreRelease core ctx) := fun _ => by simp [encode, Instr.cls]

theorem EncodingFits.heldStorePerform (core : Nat) (ctx : Nat) (id : Nat) : EncodingFits.Statement (.heldStorePerform core ctx id) := fun _ => by simp [encode, Instr.cls]

theorem EncodingFits.storePerform (core : Nat) (ctx : Nat) (id : Nat) : EncodingFits.Statement (.storePerform core ctx id) := fun _ => by simp [encode, Instr.cls]

theorem EncodingFits.handlerEntry (core : Nat) (ctx : Nat) : EncodingFits.Statement (.handlerEntry core ctx) := fun _ => by simp [encode, Instr.cls]

theorem EncodingFits.faultStop (core : Nat) (ctx : Nat) : EncodingFits.Statement (.faultStop core ctx) := fun _ => by simp [encode, Instr.cls]

theorem EncodingFits.contextSwitch (core : Nat) : EncodingFits.Statement (.contextSwitch core) := fun _ => by simp [encode, Instr.cls]

theorem EncodingFits.blockRelease (core : Nat) (ctx : Nat) : EncodingFits.Statement (.blockRelease core ctx) := fun _ => by simp [encode, Instr.cls]

theorem EncodingFits.waitEnd (core : Nat) (ctx : Nat) : EncodingFits.Statement (.waitEnd core ctx) := fun _ => by simp [encode, Instr.cls]

theorem EncodingFits.tqEntryReceivable (tq : Nat) (id : Nat) : EncodingFits.Statement (.tqEntryReceivable tq id) := fun _ => by simp [encode, Instr.cls]

theorem EncodingFits.tqPlaceFreed (tq : Nat) : EncodingFits.Statement (.tqPlaceFreed tq) := fun _ => by simp [encode, Instr.cls]

theorem EncodingFits.barrierRelease (part : Nat) (sc : Nat) (inst : Nat) (num : Nat) : EncodingFits.Statement (.barrierRelease part sc inst num) := fun _ => by simp [encode, Instr.cls]

theorem EncodingFits.flitLeave (die : Nat) (id : Nat) : EncodingFits.Statement (.flitLeave die id) := fun _ => by simp [encode, Instr.cls]

theorem EncodingFits.copyStart (core : Nat) (id : Nat) : EncodingFits.Statement (.copyStart core id) := fun _ => by simp [encode, Instr.cls]

theorem EncodingFits.copyArrival (core : Nat) (id : Nat) : EncodingFits.Statement (.copyArrival core id) := fun _ => by simp [encode, Instr.cls]

theorem EncodingFits.copyPostedWrite (core : Nat) (id : Nat) (gran : Nat) : EncodingFits.Statement (.copyPostedWrite core id gran) := fun _ => by simp [encode, Instr.cls]

theorem EncodingFits.copyReadReturn (core : Nat) (id : Nat) (gran : Nat) (data : Nat) (poison : Bool) : EncodingFits.Statement (.copyReadReturn core id gran data poison) := fun _ => by simp [encode, Instr.cls]

theorem EncodingFits.lazyDrain (core : Nat) (id : Nat) : EncodingFits.Statement (.lazyDrain core id) := fun _ => by simp [encode, Instr.cls]

theorem EncodingFits.atomPerform (core : Nat) (id : Nat) : EncodingFits.Statement (.atomPerform core id) := fun _ => by simp [encode, Instr.cls]

theorem EncodingFits.atomReply (core : Nat) (id : Nat) (old : Nat) (refused : Bool) : EncodingFits.Statement (.atomReply core id old refused) := fun _ => by simp [encode, Instr.cls]

theorem EncodingFits.bindComplete (core : Nat) (ctx : Nat) : EncodingFits.Statement (.bindComplete core ctx) := fun _ => by simp [encode, Instr.cls]

theorem EncodingFits.flushGranulePersist (core : Nat) (id : Nat) (gran : Nat) : EncodingFits.Statement (.flushGranulePersist core id gran) := fun _ => by simp [encode, Instr.cls]

theorem EncodingFits.psaveHeaderWrite (core : Nat) (id : Nat) : EncodingFits.Statement (.psaveHeaderWrite core id) := fun _ => by simp [encode, Instr.cls]

theorem EncodingFits.queueShadowPersist (tq : Nat) (id : Nat) : EncodingFits.Statement (.queueShadowPersist tq id) := fun _ => by simp [encode, Instr.cls]

theorem EncodingFits.mmulRowEntry (core : Nat) (id : Nat) (row : Nat) : EncodingFits.Statement (.mmulRowEntry core id row) := fun _ => by simp [encode, Instr.cls]

theorem EncodingFits.mmulRowLand (core : Nat) (id : Nat) (row : Nat) : EncodingFits.Statement (.mmulRowLand core id row) := fun _ => by simp [encode, Instr.cls]

theorem EncodingFits.mwloadFillPop (core : Nat) (id : Nat) (j : Nat) : EncodingFits.Statement (.mwloadFillPop core id j) := fun _ => by simp [encode, Instr.cls]

theorem EncodingFits.mwloadFillLand (core : Nat) (id : Nat) : EncodingFits.Statement (.mwloadFillLand core id) := fun _ => by simp [encode, Instr.cls]

theorem EncodingFits.mgradLand (core : Nat) (id : Nat) : EncodingFits.Statement (.mgradLand core id) := fun _ => by simp [encode, Instr.cls]

theorem EncodingFits.drainRowRead (core : Nat) (id : Nat) (row : Nat) : EncodingFits.Statement (.drainRowRead core id row) := fun _ => by simp [encode, Instr.cls]

theorem EncodingFits.drainScaleRead (core : Nat) (id : Nat) (k : Nat) : EncodingFits.Statement (.drainScaleRead core id k) := fun _ => by simp [encode, Instr.cls]

theorem EncodingFits.segmentArrival (core : Nat) (id : Nat) (k : Nat) : EncodingFits.Statement (.segmentArrival core id k) := fun _ => by simp [encode, Instr.cls]

theorem EncodingFits.treeApply (core : Nat) (id : Nat) : EncodingFits.Statement (.treeApply core id) := fun _ => by simp [encode, Instr.cls]

theorem EncodingFits.xslotPerform (core : Nat) (id : Nat) : EncodingFits.Statement (.xslotPerform core id) := fun _ => by simp [encode, Instr.cls]

theorem EncodingFits.acceptRowRead (core : Nat) (id : Nat) (k : Nat) : EncodingFits.Statement (.acceptRowRead core id k) := fun _ => by simp [encode, Instr.cls]

theorem EncodingFits.acceptComplete (core : Nat) (id : Nat) : EncodingFits.Statement (.acceptComplete core id) := fun _ => by simp [encode, Instr.cls]

theorem EncodingFits.pkeyComplete (core : Nat) (id : Nat) : EncodingFits.Statement (.pkeyComplete core id) := fun _ => by simp [encode, Instr.cls]

theorem EncodingFits.plookPerform (core : Nat) (id : Nat) : EncodingFits.Statement (.plookPerform core id) := fun _ => by simp [encode, Instr.cls]

theorem EncodingFits.hringDepart (part : Nat) (id : Nat) : EncodingFits.Statement (.hringDepart part id) := fun _ => by simp [encode, Instr.cls]

theorem EncodingFits.ringCoalesceTimeout (part : Nat) : EncodingFits.Statement (.ringCoalesceTimeout part) := fun _ => by simp [encode, Instr.cls]

theorem EncodingFits.combineRowRead (core : Nat) (ctx : Nat) (k : Nat) : EncodingFits.Statement (.combineRowRead core ctx k) := fun _ => by simp [encode, Instr.cls]

theorem EncodingFits.combineCloseTimeout (part : Nat) (grp : Nat) (phase : Nat) : EncodingFits.Statement (.combineCloseTimeout part grp phase) := fun _ => by simp [encode, Instr.cls]

theorem EncodingFits.combineRelease (part : Nat) (grp : Nat) (phase : Nat) : EncodingFits.Statement (.combineRelease part grp phase) := fun _ => by simp [encode, Instr.cls]

theorem EncodingFits.taskLaunch (q : Nat) : EncodingFits.Statement (.taskLaunch q) := fun _ => by simp [encode, Instr.cls]

theorem EncodingFits.taskComplete (id : Nat) : EncodingFits.Statement (.taskComplete id) := fun _ => by simp [encode, Instr.cls]

theorem EncodingFits.taskTrigger (id : Nat) : EncodingFits.Statement (.taskTrigger id) := fun _ => by simp [encode, Instr.cls]

theorem EncodingFits.preemptStop (core : Nat) (ctx : Nat) : EncodingFits.Statement (.preemptStop core ctx) := fun _ => by simp [encode, Instr.cls]

theorem EncodingFits.contextSaveComplete (core : Nat) (ctx : Nat) (id : Nat) : EncodingFits.Statement (.contextSaveComplete core ctx id) := fun _ => by simp [encode, Instr.cls]

theorem EncodingFits.graphLaunch (part : Nat) : EncodingFits.Statement (.graphLaunch part) := fun _ => by simp [encode, Instr.cls]

theorem EncodingFits.graphWait (part : Nat) : EncodingFits.Statement (.graphWait part) := fun _ => by simp [encode, Instr.cls]

theorem EncodingFits.graphCond (part : Nat) : EncodingFits.Statement (.graphCond part) := fun _ => by simp [encode, Instr.cls]

theorem EncodingFits.graphEnd (part : Nat) : EncodingFits.Statement (.graphEnd part) := fun _ => by simp [encode, Instr.cls]

theorem EncodingFits.zeroingEnd (unit : Nat) (idx : Nat) : EncodingFits.Statement (.zeroingEnd unit idx) := fun _ => by simp [encode, Instr.cls]

theorem EncodingFits.debugStop (core : Nat) (ctx : Nat) : EncodingFits.Statement (.debugStop core ctx) := fun _ => by simp [encode, Instr.cls]

theorem EncodingFits.thermalTrip (die : Nat) (temp : Nat) : EncodingFits.Statement (.thermalTrip die temp) := fun _ => by simp [encode, Instr.cls]

theorem EncodingFits.supplyFailure (dieRail : Bool) (place : Nat) (cause : Nat) : EncodingFits.Statement (.supplyFailure dieRail place cause) := fun _ => by simp [encode, Instr.cls]

theorem EncodingFits.lossReport (dieRail : Bool) (place : Nat) (cause : Nat) : EncodingFits.Statement (.lossReport dieRail place cause) := fun _ => by simp [encode, Instr.cls]

theorem EncodingFits.gateRequest (core : Nat) : EncodingFits.Statement (.gateRequest core) := fun _ => by simp [encode, Instr.cls]

theorem EncodingFits.coreGate (core : Nat) : EncodingFits.Statement (.coreGate core) := fun _ => by simp [encode, Instr.cls]

theorem EncodingFits.coreUngate (core : Nat) : EncodingFits.Statement (.coreUngate core) := fun _ => by simp [encode, Instr.cls]

theorem EncodingFits.recoveryResume (q : Nat) : EncodingFits.Statement (.recoveryResume q) := fun _ => by simp [encode, Instr.cls]

theorem EncodingFits.queueResetMessage (src : Nat) (die : Nat) (q : Nat) : EncodingFits.Statement (.queueResetMessage src die q) := fun _ => by simp [encode, Instr.cls]

theorem EncodingFits.hostMemoryAccess (wr : Bool) (addr : Nat) (len : Nat) (data : Nat) : EncodingFits.Statement (.hostMemoryAccess wr addr len data) := fun _ => by simp [encode, Instr.cls]

theorem EncodingFits.queueApertureWrite (off : Nat) (len : Nat) (data : Nat) (poison : Bool) : EncodingFits.Statement (.queueApertureWrite off len data poison) := fun _ => by simp [encode, Instr.cls]

theorem EncodingFits.hostAtomicop (addr : Nat) : EncodingFits.Statement (.hostAtomicop addr) := fun _ => by simp [encode, Instr.cls]

theorem EncodingFits.zieshRequest (src : Nat) (head : Nat) (addr : Nat) (len : Nat) (data : Nat) (poison : Bool) : EncodingFits.Statement (.zieshRequest src head addr len data poison) := fun _ => by simp [encode, Instr.cls]

theorem EncodingFits.linkDown (link : Nat) : EncodingFits.Statement (.linkDown link) := fun _ => by simp [encode, Instr.cls]

theorem EncodingFits.definedNop (cls : Cls) (w : Nat) : EncodingFits.Statement (.definedNop cls w) := by
  intro hw
  cases cls <;> simp [Instr.WellFormed, definedNopWord] at hw <;>
    simp only [encode, Instr.cls, encodeC, encodeS, encodeV, encodeM, encodeL, encodeQ] <;> omega

theorem EncodingFits.uncorrectableError (kind : Nat) (place : Nat) (idx : Nat) : EncodingFits.Statement (.uncorrectableError kind place idx) := fun _ => by simp [encode, Instr.cls]

theorem EncodingFits.powerRestored (kind : Nat) (place : Nat) : EncodingFits.Statement (.powerRestored kind place) := fun _ => by simp [encode, Instr.cls]

theorem EncodingFits.zieshLinkUp (link : Nat) (pkg : Nat) : EncodingFits.Statement (.zieshLinkUp link pkg) := fun _ => by simp [encode, Instr.cls]

theorem EncodingFits.nop : EncodingFits.Statement (.nop) := fun _ => by simp [encode, Instr.cls]

theorem EncodingFits.ret : EncodingFits.Statement (.ret) := fun _ => by simp [encode, Instr.cls, encodeC]

theorem EncodingFits.lend : EncodingFits.Statement (.lend) := fun _ => by simp [encode, Instr.cls, encodeC]

theorem EncodingFits.halt : EncodingFits.Statement (.halt) := fun _ => by simp [encode, Instr.cls, encodeC]

theorem EncodingFits.trigger : EncodingFits.Statement (.trigger) := fun _ => by simp [encode, Instr.cls, encodeC]

theorem EncodingFits.yieldC : EncodingFits.Statement (.yieldC) := fun _ => by simp [encode, Instr.cls, encodeC]

theorem EncodingFits.eret : EncodingFits.Statement (.eret) := fun _ => by simp [encode, Instr.cls, encodeC]

theorem EncodingFits.mown : EncodingFits.Statement (.mown) := fun _ => by simp [encode, Instr.cls, encodeM]

theorem EncodingFits.mrel : EncodingFits.Statement (.mrel) := fun _ => by simp [encode, Instr.cls, encodeM]

theorem EncodingFits.fenceO : EncodingFits.Statement (.fenceO) := fun _ => by simp [encode, Instr.cls, encodeL]

theorem EncodingFits.psave : EncodingFits.Statement (.psave) := fun _ => by simp [encode, Instr.cls, encodeL]

theorem EncodingFits.qtailDoorbell : EncodingFits.Statement (.qtailDoorbell) := fun _ => by simp [encode, Instr.cls]

theorem EncodingFits.qcfgWrite : EncodingFits.Statement (.qcfgWrite) := fun _ => by simp [encode, Instr.cls]

theorem EncodingFits.preemptWrite : EncodingFits.Statement (.preemptWrite) := fun _ => by simp [encode, Instr.cls]

theorem EncodingFits.gnodeWrite : EncodingFits.Statement (.gnodeWrite) := fun _ => by simp [encode, Instr.cls]

theorem EncodingFits.hrcfgWrite : EncodingFits.Statement (.hrcfgWrite) := fun _ => by simp [encode, Instr.cls]

theorem EncodingFits.hrheadWrite : EncodingFits.Statement (.hrheadWrite) := fun _ => by simp [encode, Instr.cls]

theorem EncodingFits.expertSlotWrite : EncodingFits.Statement (.expertSlotWrite) := fun _ => by simp [encode, Instr.cls]

theorem EncodingFits.partitionGrant : EncodingFits.Statement (.partitionGrant) := fun _ => by simp [encode, Instr.cls]

theorem EncodingFits.partitionRevoke : EncodingFits.Statement (.partitionRevoke) := fun _ => by simp [encode, Instr.cls]

theorem EncodingFits.ownerChange : EncodingFits.Statement (.ownerChange) := fun _ => by simp [encode, Instr.cls]

theorem EncodingFits.mirrorWrite : EncodingFits.Statement (.mirrorWrite) := fun _ => by simp [encode, Instr.cls]

theorem EncodingFits.extWrite : EncodingFits.Statement (.extWrite) := fun _ => by simp [encode, Instr.cls]

theorem EncodingFits.qreqWrite : EncodingFits.Statement (.qreqWrite) := fun _ => by simp [encode, Instr.cls]

theorem EncodingFits.quoteComplete : EncodingFits.Statement (.quoteComplete) := fun _ => by simp [encode, Instr.cls]

theorem EncodingFits.debugAttach : EncodingFits.Statement (.debugAttach) := fun _ => by simp [encode, Instr.cls]

theorem EncodingFits.debugResume : EncodingFits.Statement (.debugResume) := fun _ => by simp [encode, Instr.cls]

theorem EncodingFits.dbgstopWrite : EncodingFits.Statement (.dbgstopWrite) := fun _ => by simp [encode, Instr.cls]

theorem EncodingFits.debugImageWrite : EncodingFits.Statement (.debugImageWrite) := fun _ => by simp [encode, Instr.cls]

theorem EncodingFits.debugApertureAccess : EncodingFits.Statement (.debugApertureAccess) := fun _ => by simp [encode, Instr.cls]

theorem EncodingFits.tkill : EncodingFits.Statement (.tkill) := fun _ => by simp [encode, Instr.cls]

theorem EncodingFits.poisonarrBar : EncodingFits.Statement (.poisonarrBar) := fun _ => by simp [encode, Instr.cls]

theorem EncodingFits.poisonarrCombine : EncodingFits.Statement (.poisonarrCombine) := fun _ => by simp [encode, Instr.cls]

theorem EncodingFits.pkgnumWrite : EncodingFits.Statement (.pkgnumWrite) := fun _ => by simp [encode, Instr.cls]

theorem EncodingFits.qrstClear : EncodingFits.Statement (.qrstClear) := fun _ => by simp [encode, Instr.cls]

theorem EncodingFits.suptestArm : EncodingFits.Statement (.suptestArm) := fun _ => by simp [encode, Instr.cls]

theorem EncodingFits.suptestRestore : EncodingFits.Statement (.suptestRestore) := fun _ => by simp [encode, Instr.cls]

theorem EncodingFits.packageReset : EncodingFits.Statement (.packageReset) := fun _ => by simp [encode, Instr.cls]

theorem EncodingFits.fullServiceChange : EncodingFits.Statement (.fullServiceChange) := fun _ => by simp [encode, Instr.cls]

theorem EncodingFits.controlRegisterWrite : EncodingFits.Statement (.controlRegisterWrite) := fun _ => by simp [encode, Instr.cls]

end Sys2Proof.Laws

set_option linter.unusedSimpArgs true
set_option Elab.async true
end

