-- ==== Sys2Proof/Tests/Slice0.lean ====
section
/-! SUPPORT. Tests: an ill-formed term for each kind of check, words the spec writes out, and for every statement with hypotheses
states that meet them. -/

set_option Elab.async false

open Sys2Proof Sys2Proof.Machine

/-! ## Well-formed instructions -/

/-- Each check of a control instruction's operands refuses a term. -/
theorem test_ill_control :
    ¬ (Instr.br 131072).WellFormed ∧ ¬ (Instr.br (-131073)).WellFormed ∧ ¬ (Instr.brc ⟨false, 0⟩ 1).WellFormed ∧
    ¬ (Instr.brc ⟨false, 1⟩ 4096).WellFormed ∧ ¬ (Instr.brd ⟨true, 16⟩ 1).WellFormed ∧ ¬ (Instr.jt 64 0).WellFormed ∧
    ¬ (Instr.jt 0 64).WellFormed ∧ ¬ (Instr.loopImm 0).WellFormed ∧ ¬ (Instr.loopImm 131072).WellFormed ∧
    ¬ (Instr.trap 256).WellFormed ∧ ¬ (Instr.syscall 4096).WellFormed ∧ ¬ (Instr.scene 131072).WellFormed ∧
    ¬ (Instr.definedNop .c 0).WellFormed := by simp [Instr.WellFormed, definedNopWord]

/-- Each check of a scalar instruction's operands refuses a term. -/
theorem test_ill_scalar :
    ¬ (Instr.add ⟨true, 0⟩ false 1 2 3).WellFormed ∧ ¬ (Instr.add ⟨false, 16⟩ false 1 2 3).WellFormed ∧
    ¬ (Instr.add ⟨false, 0⟩ false 64 2 3).WellFormed ∧ ¬ (Instr.add ⟨false, 0⟩ false 1 64 3).WellFormed ∧
    ¬ (Instr.add ⟨false, 0⟩ false 1 2 64).WellFormed ∧ ¬ (Instr.cmp ⟨false, 0⟩ 8 1 2 3).WellFormed ∧
    ¬ (Instr.cmp ⟨false, 0⟩ 0 16 2 3).WellFormed ∧ ¬ (Instr.cmpi ⟨false, 0⟩ 0 1 2 1024).WellFormed ∧
    ¬ (Instr.gand ⟨false, 0⟩ 1 ⟨false, 16⟩ ⟨false, 1⟩).WellFormed ∧ ¬ (Instr.takeWait ⟨false, 0⟩ 16).WellFormed ∧
    ¬ (Instr.csrr ⟨false, 0⟩ 1 4096).WellFormed ∧ ¬ (Instr.addi ⟨false, 0⟩ 1 2 2048).WellFormed ∧
    ¬ (Instr.lih 1 1048576).WellFormed ∧ ¬ (Instr.shli ⟨false, 0⟩ 1 2 64).WellFormed ∧
    ¬ (Instr.andi ⟨false, 0⟩ 1 2 256).WellFormed := by simp [Instr.WellFormed]

/-- Each check of a vector instruction's operands refuses a term. -/
theorem test_ill_vector :
    ¬ (Instr.vaddInt ⟨false, 0⟩ 4 1 2 3).WellFormed ∧ ¬ (Instr.vaddInt ⟨false, 0⟩ 0 128 2 3).WellFormed ∧
    ¬ (Instr.vaddInt ⟨false, 0⟩ 0 1 128 3).WellFormed ∧ ¬ (Instr.vaddInt ⟨false, 0⟩ 0 1 2 64).WellFormed ∧
    ¬ (Instr.vaddFp ⟨false, 0⟩ 3 1 2 3).WellFormed ∧ ¬ (Instr.vcmpFp ⟨false, 0⟩ 0 4 1 2 3).WellFormed ∧
    ¬ (Instr.vcmpFp ⟨false, 0⟩ 0 5 1 2 3).WellFormed ∧ ¬ (Instr.vcmpFp ⟨false, 0⟩ 0 9 1 2 3).WellFormed ∧
    ¬ (Instr.vcmpInt ⟨false, 0⟩ 0 0 8 2 3).WellFormed ∧ ¬ (Instr.vsel ⟨false, 0⟩ 0 1 2 8).WellFormed ∧
    ¬ (Instr.vcvt ⟨false, 0⟩ 1 3 0 1 2).WellFormed ∧ ¬ (Instr.vcvt ⟨false, 0⟩ 1 0 1 1 2).WellFormed ∧
    ¬ (Instr.vcvt ⟨false, 0⟩ 8 0 1 1 2).WellFormed ∧ ¬ (Instr.vredAdd ⟨false, 0⟩ 0 64 2).WellFormed ∧
    ¬ (Instr.vany ⟨false, 0⟩ 0 16 2).WellFormed ∧ ¬ (Instr.vcompressG8 ⟨false, 0⟩ 0 0 1 2).WellFormed ∧
    ¬ (Instr.vcompressG8 ⟨false, 0⟩ 8 0 1 2).WellFormed ∧ ¬ (Instr.vmovOq ⟨false, 0⟩ 1 8 2).WellFormed := by
  simp [Instr.WellFormed]

/-- Each check of a matrix instruction's operands refuses a term. -/
theorem test_ill_matrix :
    ¬ (Instr.mwload 6 0 0).WellFormed ∧ ¬ (Instr.mwload 0 4 0).WellFormed ∧ ¬ (Instr.mwload 0 0 8).WellFormed ∧
    ¬ (Instr.mswap 0).WellFormed ∧ ¬ (Instr.mswap 16).WellFormed ∧ ¬ (Instr.mmulTm true true 8 0 0 1 0).WellFormed ∧
    ¬ (Instr.mmulTm true true 0 0 8 1 0).WellFormed ∧ ¬ (Instr.mmulTm true true 0 0 0 0 0).WellFormed ∧
    ¬ (Instr.mmulTm true true 0 0 0 257 0).WellFormed ∧ ¬ (Instr.mmulTm true false 0 0 0 1 1).WellFormed ∧
    ¬ (Instr.mmulBank true true 0 0 4 1 0).WellFormed ∧ ¬ (Instr.mdrain 8 0 false false false 0 1).WellFormed ∧
    ¬ (Instr.mdrain 0 0 false true true 0 1).WellFormed ∧ ¬ (Instr.mdrain 0 0 false false false 1 1).WellFormed ∧
    ¬ (Instr.mtopk 0 1).WellFormed ∧ ¬ (Instr.mtopk 65 1).WellFormed ∧ ¬ (Instr.mclr 0).WellFormed ∧
    ¬ (Instr.mclr 256).WellFormed ∧ ¬ (Instr.mgrad 0 0 0 257).WellFormed := by simp [Instr.WellFormed]

/-- Each check of a local-access or queue instruction's operands refuses a term. -/
theorem test_ill_local_queue :
    ¬ (Instr.ld ⟨false, 0⟩ 7 1 2 0).WellFormed ∧ ¬ (Instr.ld ⟨false, 0⟩ 0 1 2 256).WellFormed ∧
    ¬ (Instr.st ⟨false, 0⟩ 4 1 2 0).WellFormed ∧ ¬ (Instr.vld ⟨false, 0⟩ 1 2 128).WellFormed ∧
    ¬ (Instr.vgather ⟨false, 0⟩ 1 2 32).WellFormed ∧ ¬ (Instr.pset 8 1).WellFormed ∧ ¬ (Instr.ptag 0 256).WellFormed ∧
    ¬ (Instr.seal 16 1).WellFormed ∧ ¬ (Instr.bind 16 1).WellFormed ∧ ¬ (Instr.atom 7 false 1 2 3).WellFormed ∧
    ¬ (Instr.pfence 0).WellFormed ∧ ¬ (Instr.pfence 5).WellFormed ∧ ¬ (Instr.rtx 16 0).WellFormed ∧
    ¬ (Instr.rtap 0 0 256).WellFormed ∧ ¬ (Instr.tqsend 64 0).WellFormed ∧ ¬ (Instr.bar 6 0 0).WellFormed ∧
    ¬ (Instr.bar 0 16 0).WellFormed ∧ ¬ (Instr.irq 2048).WellFormed ∧ ¬ (Instr.definedNop .q 0).WellFormed := by
  simp [Instr.WellFormed, definedNopWord]

/-- A header the word checks of R47 refuse. -/
theorem test_ill_header : ¬ Header.wf ⟨false, true, 0, 0⟩ ∧ ¬ Header.wf ⟨true, false, 7, 0⟩ ∧ ¬ Header.wf ⟨true, false, 0, 7⟩ := by
  simp

/-! ## Words the spec writes out -/

/-- The fates of words that are no instruction (R49, Tables 03-4, 03-6, 03-15): all ones, the permanently illegal codes, a reserved
opcode, a guard field of polarity 1 with index 0, a field shown as 0; a defined no-operation; NOP. -/
theorem test_fates :
    decodeWord .q 0xFFFFFFFF = .permanent ∧ decodeWord .c 0x00FC0000 = .permanent ∧ decodeWord .s 0xE0000000 = .permanent ∧
    decodeWord .c 0x00540000 = .reserved ∧ decodeWord .s 0x10043100 = .reserved ∧ decodeWord .m 0x04000001 = .reserved ∧
    decodeWord .c 0x00E00000 = .instr (.definedNop .c 0x00E00000) ∧ decodeWord .v 0 = .instr .nop ∧
    headerOf 0x80500020 = ⟨true, false, 0, 0⟩ := by decide

/-- Class C: words the spec writes out (04_progress.md Table 04-1 and the examples of R52, R80 to R90, R192). -/
theorem test_decode_c :
    decodeWord .c 0x0007FFFD = .instr (.br (-3)) ∧
    decodeWord .c 0x000A4005 = .instr (.brc ⟨true, 2⟩ 5) ∧
    decodeWord .c 0x000C4008 = .instr (.brd ⟨false, 2⟩ 8) ∧
    decodeWord .c 0x0010C340 = .instr (.jt 12 13) ∧
    decodeWord .c 0x00140028 = .instr (.call 40) ∧
    decodeWord .c 0x00189000 = .instr (.callg 9) ∧
    decodeWord .c 0x001C0000 = .instr (.ret) ∧
    decodeWord .c 0x00200007 = .instr (.loopReg 7) ∧
    decodeWord .c 0x00220010 = .instr (.loopImm 16) ∧
    decodeWord .c 0x00240000 = .instr (.lend) ∧
    decodeWord .c 0x00280000 = .instr (.halt) ∧
    decodeWord .c 0x002C0000 = .instr (.trigger) ∧
    decodeWord .c 0x00300000 = .instr (.yieldC) ∧
    decodeWord .c 0x003C0000 = .instr (.eret) ∧
    decodeWord .c 0x00454000 = .instr (.waitc 20) ∧
    decodeWord .c 0x80500020 = .instr (.scene 32) := by decide

/-- Class S: words the spec writes out (06_scalar_vector.md Table 06-4, 03_encoding.md, R182, R183, Table 07-3). -/
theorem test_decode_s :
    decodeWord .s 0x4028A100 = .instr (.addi ⟨false, 0⟩ 10 10 256) ∧
    decodeWord .s 0x41140064 = .instr (.addi ⟨false, 1⟩ 5 0 100) ∧
    decodeWord .s 0x00043100 = .instr (.add ⟨false, 0⟩ false 3 4 0) ∧
    decodeWord .s 0x00846147 = .instr (.add ⟨false, 0⟩ true 6 5 7) ∧
    decodeWord .s 0x00539515 = .instr (.divS ⟨false, 0⟩ false 57 20 21) ∧
    decodeWord .s 0x0068C105 = .instr (.cmp ⟨false, 0⟩ 2 3 4 5) ∧
    decodeWord .s 0xA02217FD = .instr (.cmpi ⟨false, 0⟩ 2 2 5 0x3FD) ∧
    decodeWord .s 0x1238824A = .instr (.sel ⟨true, 2⟩ false 8 9 10) ∧
    decodeWord .s 0xC00C3030 = .instr (.shli ⟨false, 0⟩ 24 24 48) ∧
    decodeWord .s 0x80900043 = .instr (.lih 9 0x43) ∧
    decodeWord .s 0x20189012 = .instr (.csrr ⟨false, 0⟩ 9 0x012) ∧
    decodeWord .s 0x201C4010 = .instr (.csrw ⟨false, 0⟩ 4 0x010) ∧
    decodeWord .s 0x20100080 = .instr (.takeWait ⟨false, 0⟩ 2) ∧
    decodeWord .s 0x20149140 = .instr (.tkcnt ⟨false, 0⟩ 9 5) ∧
    decodeWord .s 0x2000C052 = .instr (.gand ⟨false, 0⟩ 3 ⟨false, 1⟩ ⟨true, 2⟩) ∧
    decodeWord .s 0x20050042 = .instr (.gor ⟨false, 0⟩ 4 ⟨false, 1⟩ ⟨false, 2⟩) ∧
    decodeWord .s 0x200940C0 = .instr (.gnot ⟨false, 0⟩ 5 ⟨false, 3⟩) ∧
    decodeWord .s 0x200D8440 = .instr (.gcopy ⟨false, 0⟩ 6 ⟨true, 1⟩) := by decide

/-- Class V: words the spec writes out (03_encoding.md and 06_scalar_vector.md, the examples of R62, R63 and Table 06-8). -/
theorem test_decode_v :
    decodeWord .v 0x00403004 = .instr (.vaddInt ⟨false, 0⟩ 0 4 1 32) ∧
    decodeWord .v 0x0080A304 = .instr (.vaddInt ⟨false, 0⟩ 0 8 5 6) ∧
    decodeWord .v 0x011082DC = .instr (.vcmpFp ⟨false, 0⟩ 0 2 1 4 5) ∧
    decodeWord .v 0x0050C160 = .instr (.vsel ⟨false, 0⟩ 0 5 6 2) ∧
    decodeWord .v 0x00104478 = .instr (.vany ⟨false, 0⟩ 0 1 2) ∧
    decodeWord .v 0x007122F8 = .instr (.vredAdd ⟨false, 0⟩ 0 7 9) ∧
    decodeWord .v 0x00A16678 = .instr (.vrng ⟨false, 0⟩ 10 11) ∧
    decodeWord .v 0x0050C978 = .instr (.vcompressG8 ⟨false, 0⟩ 2 0 5 6) ∧
    decodeWord .v 0x00C011FC = .instr (.vfmaOq ⟨false, 0⟩ 0 12 0 2) ∧
    decodeWord .v 0x00C0117C = .instr (.vmulOqFp ⟨false, 0⟩ 0 12 0 2) ∧
    decodeWord .v 0x00310474 = .instr (.vcvt ⟨false, 0⟩ 1 0 0 3 8) := by decide

/-- Class M: words the spec writes out (the examples of 08_matrix.md). -/
theorem test_decode_m :
    decodeWord .m 0x04000000 = .instr (.mown) ∧
    decodeWord .m 0x08000000 = .instr (.mrel) ∧
    decodeWord .m 0x10800000 = .instr (.mswap 2) ∧
    decodeWord .m 0x1807C903 = .instr (.mmulTm true true 0 0 3 4 9) ∧
    decodeWord .m 0x1884807F = .instr (.mmulBank true false 1 0 2 128 0) ∧
    decodeWord .m 0x1C000003 = .instr (.mdrain 0 0 false false false 0 4) ∧
    decodeWord .m 0x20114000 = .instr (.mtopk 2 5) ∧
    decodeWord .m 0x24600000 = .instr (.mtree 6) ∧
    decodeWord .m 0x294CFC00 = .instr (.mgrad 1 2 3 64) ∧
    decodeWord .m 0x2C440000 = .instr (.mlive 4 2) ∧
    decodeWord .m 0x300C0000 = .instr (.mclr 3) := by decide

/-- Class L: words the spec writes out (06_scalar_vector.md Table 06-9 and the examples of 12_memory.md). -/
theorem test_decode_l :
    decodeWord .l 0x44020A00 = .instr (.vst ⟨false, 0⟩ 8 10 0) ∧
    decodeWord .l 0x14018802 = .instr (.ld ⟨false, 0⟩ 4 3 4 2) ∧
    decodeWord .l 0x2C030802 = .instr (.st ⟨false, 0⟩ 3 6 4 2) ∧
    decodeWord .l 0x3C030802 = .instr (.stZ ⟨false, 0⟩ 3 6 4 2) ∧
    decodeWord .l 0x4000C802 = .instr (.vld ⟨false, 0⟩ 3 8 2) ∧
    decodeWord .l 0x48010938 = .instr (.vgather ⟨false, 0⟩ 4 9 7) ∧
    decodeWord .l 0x80140000 = .instr (.pset 0 10) ∧
    decodeWord .l 0x84AD0000 = .instr (.ptag 1 0x5A) ∧
    decodeWord .l 0x88C90000 = .instr (.seal 3 9) ∧
    decodeWord .l 0x8CC90000 = .instr (.bind 3 9) ∧
    decodeWord .l 0x9145565C = .instr (.copy 20 21 22 23) ∧
    decodeWord .l 0x94451870 = .instr (.atom 0 true 5 6 7) ∧
    decodeWord .l 0x960824A0 = .instr (.atom 4 false 8 9 10) ∧
    decodeWord .l 0x98000000 = .instr (.fenceO) ∧
    decodeWord .l 0x9CC00000 = .instr (.fenceX 12) ∧
    decodeWord .l 0xA1454000 = .instr (.pflush 20 21) ∧
    decodeWord .l 0xA5000000 = .instr (.pfence 2) ∧
    decodeWord .l 0xA8000000 = .instr (.psave) := by decide

/-- Class Q: words the spec writes out (the examples of R67, R95, R97 and chapters 12, 15, 17). -/
theorem test_decode_q :
    decodeWord .q 0x04C38000 = .instr (.rtx 3 7) ∧
    decodeWord .q 0x08CC2100 = .instr (.rtap 3 12 0x21) ∧
    decodeWord .q 0x0C512000 = .instr (.tqsend 5 9) ∧
    decodeWord .q 0x1048A000 = .instr (.tqrecv 9 5) ∧
    decodeWord .q 0x14314000 = .instr (.tqpeek 3 5) ∧
    decodeWord .q 0x19100000 = .instr (.bar 2 2 0) ∧
    decodeWord .q 0x1980E000 = .instr (.bar 3 0 7) ∧
    decodeWord .q 0x1C80C000 = .instr (.xslot 8 3) ∧
    decodeWord .q 0x1C80E000 = .instr (.xslotRel 8 3) ∧
    decodeWord .q 0x20C50000 = .instr (.accept 12 20) ∧
    decodeWord .q 0x24955600 = .instr (.pkey 9 21 22) ∧
    decodeWord .q 0x28A5C000 = .instr (.plook 10 23) ∧
    decodeWord .q 0x2D800000 = .instr (.combine false 24) ∧
    decodeWord .q 0x2D880000 = .instr (.combine true 24) ∧
    decodeWord .q 0x31900000 = .instr (.hring 25) ∧
    decodeWord .q 0x34028000 = .instr (.irq 5) := by decide

/-! ## States for the witnesses -/

/-- A window over 64 KiB of a scratchpad, readable, writable and persistent. -/
def tWin : Win := { vbase := 0x10000, size := 0x10000, attr := 2, rq := 0, pbase := 0x080000000000, sup := false }

/-- A running context at user privilege with an instruction page, a window, and s2 = 0x10000, s3 = 64, s4 = 5. -/
def tCtx : Ctx := { Ctx.reset with
  q := { Seq.reset with st := .holder, task := 1, itlb := [⟨0, 0x1000000, false⟩] }
  win := [(0, tWin)]
  s := [(2, oneTake 0x10000), (3, oneTake 64), (4, oneTake 5)]
  m := [(0, oneTake maskOnes)] }

/-- The same at supervisor privilege. -/
def tSup : Ctx := { tCtx with q := { tCtx.q with sup := true, itlb := [⟨0, 0x1000000, true⟩] } }

/-- Cycle 100 with context 0 of core 0 as given, its bundle being issued. -/
def tAt (x : Ctx) : State :=
  { State.reset with cyc := 100, ph := phIssue, cores := [(0, { Core.reset with ctxs := [(0, x)] })] }

/-- The usual state of the witnesses. -/
def tS : State := tAt tCtx

/-- A calendar entry at cycle `c` and phase `p`. -/
def tEntry (c p : Nat) : Entry := ⟨c, p, 0, 0, 0, .contextSwitch 0, CtlAcc.reset⟩

/-! ## Witnesses: encoding and the step -/

theorem test_premises_decodeEncode :
    (Instr.add ⟨true, 15⟩ true 63 63 63).WellFormed ∧ (Instr.add ⟨true, 15⟩ true 63 63 63).cls = some .s ∧
    (∀ cl w, Instr.add ⟨true, 15⟩ true 63 63 63 ≠ .definedNop cl w) ∧ Instr.nop.WellFormed ∧
    definedNopWord .q 0xE0000000 = true ∧ (⟨true, true, 6, 6⟩ : Header).wf ∧ (Instr.br (-131072)).WellFormed ∧
    (Instr.br (-131072)).cls = some .c ∧ ∀ cl w, Instr.br (-131072) ≠ .definedNop cl w := by
  simp [Instr.WellFormed, Instr.cls, definedNopWord, Lit.wf, inS]

/-- A bundle of one ADD in slot 1 at instruction address 0, and what the step makes of it. -/
def tRun : State := { tS with mem := [(0x1000004, 0x85), (0x1000005, 0x30), (0x1000006, 0x04)] }
def tRun1 : State := (tRun.beginTurn 0).modCtx 0 0 Ctx.atStop
def tRun2 : State := { tRun1 with iss := { Iss.reset with core := 0, ctx := 0, pc := (tRun1.ctx 0 0).q.pc } }
def tBundle : Nat := (tRun2.fetch (tRun1.ctx 0 0) (tRun1.ctx 0 0).q.pc).getD 0
def tInstrs : List Instr := [.nop, .add .always false 3 2 5, .nop, .nop, .nop, .nop, .nop, .nop]
def tRun3 : State := { tRun2 with iss := { tRun2.iss with hdr := headerOf (tBundle % 2 ^ 32), count := 1 } }

theorem test_premises_stepRunsDecodedBundle :
    tRun.cal = [] ∧ (tRun.beginTurn 0).brdWaits 0 = none ∧ phIssue ≤ tRun.ph ∧ tRun.ph < phSeg ∧ tRun.nextCore = some 0 ∧ (tRun1.ctx 0 0).pendF = [] ∧
    (tRun1.ctx 0 0).dueTrap = none ∧ tRun2.fetch (tRun1.ctx 0 0) (tRun1.ctx 0 0).q.pc = some tBundle ∧
    tRun2.decodeFrom (tRun1.ctx 0 0).q.loops.length 0 (bundleWords tBundle) = .ok tInstrs ∧
    collide 0 (tInstrs.map (tRun1.ctx 0 0).dest) = none ∧ (tInstrs.filter (fun i => match i with
      | .nop | .definedNop _ _ => false
      | _ => true)).length = 1 ∧ (headerOf (tBundle % 2 ^ 32)).sl = false ∧
    (tRun1.ctx 0 0).q.acts (headerOf (tBundle % 2 ^ 32)) = true ∧ tRun3.bundleRules tInstrs (tBundle % 2 ^ 32) = .ok () ∧
    tRun3.contsDue 0 0 = [] ∧ ∃ t, tRun3.runBundle tInstrs = .next t ∧ t.iss.fault = none ∧ t.iss.hold = false ∧
      t.iss.block = none ∧ (t.issued (tRun1.ctx 0 0).q.xfer).oqOver 0 = none := by
  refine ⟨rfl, by decide, by decide, by decide, by decide, rfl, by decide, by decide, rfl, by decide, rfl, by decide, by decide, rfl,
    rfl, ?_⟩
  exact ⟨_, rfl, rfl, rfl, rfl, by decide⟩

/-- The same holder, let issue by something from outside that wrote byte 0 of its scratchpad. -/
def tWoken : State :=
  { tS with
    ph := 2999
    mem := [(0x1000004, 0x85), (0x1000005, 0x30), (0x1000006, 0x04), (0x080000000000, 9)]
    seen := some ⟨tRun.mem, [], [], []⟩ }

theorem test_premises_stepRunsDecodedBundle_outside : phOut ≤ tWoken.ph ∧ tWoken.ph < phSched ∧ tWoken.inputs = [] ∧ tWoken.cal = [] ∧
    tWoken.nextCore = none ∧
    ({ tWoken with cores := [(0, { (tWoken.core 0) with again := some 100 })] } : State).nextCore = some 0 ∧
    tWoken.seen = some ⟨tRun.mem, [], [], []⟩ ∧ tWoken.past.mem = tRun.mem := by decide

theorem test_premises_stepRunsDecodedBundle_fault : ∃ t f, tRun3.runBundle [.eret, .nop, .nop, .nop, .nop, .nop, .nop, .nop] = .next t ∧
    t.iss.fault = some f ∧ (tRun3.bundleFault 0 0 f).oqOver 0 = none := ⟨_, _, rfl, rfl, by decide⟩

theorem test_premises_bundleRunsInstruction_fault : lateS .eret = false ∧
    ∃ u, exec .eret { tS with iss := { tS.iss with slot := 0 } } = .next u ∧ u.iss.fault.isSome = true := ⟨rfl, _, rfl, rfl⟩

theorem test_premises_bundleRunsInstruction : lateS (.add .always false 3 2 5) = false ∧ lateS (.br 1) = true ∧ tS.iss.block = none ∧
    tS.iss.fault = none ∧ ∃ u, exec (.add .always false 3 2 5) { tS with iss := { tS.iss with slot := 7 } } = .next u ∧
    u.iss.fault = none := ⟨rfl, rfl, rfl, rfl, _, rfl, rfl⟩

theorem test_premises_stepRunsDueWork :
    ({ tS with cal := [tEntry 99 9000] } : State).cal = [tEntry 99 9000] ∧ (tEntry 99 9000).at_ < tS.cyc ∧
    ((tEntry 100 999).at_ = tS.cyc ∧ (tEntry 100 999).ph < phIssue) ∧ (tEntry 100 phIssue).ph ≤ tS.ph ∧
    ({ tS with ph := 2999, cal := [tEntry 101 0], inputs := [tEntry 100 0] } : State).dueNow (tEntry 101 0) = false ∧
    phSeg ≤ ({ tS with ph := 1950 } : State).ph ∧ ({ tS with ph := 1950 } : State).ph < phOut ∧ (State.reset.nextCore = none ∧ phOut ≤ ({ State.reset with ph := 2999 } : State).ph ∧ ({ State.reset with ph := 2999 } : State).inputs = []) ∧
    (tEntry 100 0).at_ ≤ tS.cyc ∧ tS.svcMode = 0 ∧ (tEntry 100 0).needsService = false ∧
    ({ tEntry 100 0 with ev := .hostMemoryAccess true 0 8 5 } : Entry).needsService = true ∧
    ({ tS with ctl := [(offSvc, 1)] } : State).svcMode ≠ 0 ∧ phOut ≤ 2999 ∧ 2999 < phSched ∧ phDone ≤ 100000 := by decide

theorem test_premises_stepKeepsMemoryForm : State.reset.Inv ∧ ∃ t, step State.reset = .next t := ⟨by unfold State.Inv; decide, _, rfl⟩

theorem test_premises_resetState : (15 : Nat) < 16 ∧ (511 : Nat) < 512 := by decide

theorem test_premises_memoryReadAfterWrite : tRun.Inv ∧ (31 : Nat) < 2048 / 64 ∧ (64 : Nat) ∈ [4, 8, 16, 32, 64] := by unfold State.Inv; decide

/-! ## Witnesses: scalar instructions -/

/-- s2, s3 and s4 of the usual state read as one value, and an instruction without guard is plain. -/
theorem test_premises_scalarOperands : (∃ o, o ∈ scalarForms) ∧ tS.Plain .always ∧ tS.Plain ⟨true, 1⟩ ∧ tS.Reads .s 2 (ofWord 0x10000) ∧
    tS.Reads .s 3 (ofWord 64) ∧ tS.Reads .s 4 (ofWord 5) ∧ tS.Reads .s 0 (ofWord 0) ∧ (63 : Nat) < 64 ∧ (2 ^ 20 - 1 : Nat) < 2 ^ 20 :=
  ⟨⟨_, List.Mem.head _⟩, by unfold State.Reads State.Plain; decide +kernel⟩

/-- A guard g1 open until cycle 103, opened at 99. -/
def tOpen : State := tAt { tCtx with g := [(1, ⟨false, some ⟨99, 103, .value, [⟨some true, 0, false⟩]⟩⟩)] }

theorem test_premises_scalarTakes : tS.wlit ⟨false, 1⟩ = none ∧ tOpen.wlit ⟨false, 1⟩ = some (Cube.lit 1 false) ∧
    tS.poisonReg .s (tS.me.phys .s 2) = false ∧
    (tAt { tCtx with poison := [⟨.s, 2, Cube.tt⟩] }).poisonReg .s ((tAt { tCtx with poison := [⟨.s, 2, Cube.tt⟩] }).me.phys .s 2) = true := by decide

theorem test_premises_scalarBitCounts : (0 : Word) = 0 ∧ ((63 : Nat) < 64 ∧ 2 ^ (63 - 63) ≤ (1 : Word).toNat ∧ (1 : Word).toNat < 2 ^ (64 - 63)) ∧
    ((63 : Nat) < 64 ∧ (0x8000000000000000 : Word).getLsbD 63 = true ∧ ∀ j < 63, (0x8000000000000000 : Word).getLsbD j = false) ∧
    (64 : Nat) = ((List.range 64).filter fun i => (-1 : Word).getLsbD i).length := by decide

theorem test_premises_scalarDivision : tS.Reads .s 4 (ofWord 5) ∧ (5 : Word) ≠ 0 ∧ tS.Reads .s 0 (ofWord 0) :=
  by unfold State.Reads; decide +kernel

theorem test_premises_selectAndCount : tS.me.lit tS.cyc ⟨true, 1⟩ = .const true ∧ tS.me.lit tS.cyc ⟨false, 1⟩ = .const false ∧
    tOpen.me.lit tOpen.cyc ⟨false, 1⟩ = .opn (Cube.lit 1 false) ∧ tS.poisonReg .s (tS.me.phys .s 2) = false := by decide

theorem test_premises_scalarCompare : (7 : Nat) < 8 ∧ (1023 : Nat) < 1024 ∧ (tS.me.guard 15).opn = none ∧ (tOpen.me.guard 1).opn ≠ none ∧
    tOpen.Plain .always ∧ tOpen.wlit ⟨false, 1⟩ = some (Cube.lit 1 false) ∧ (Cube.lit 1 false).isTrue = false ∧
    tOpen.Reads .s 3 (ofWord 64) ∧ tOpen.Reads .s 4 (ofWord 5) := by unfold State.Plain State.Reads; decide +kernel

theorem test_premises_guardLogic : tS.Plain .always ∧ (tS.me.guard 15).opn = none ∧ tOpen.me.gopen tOpen.cyc 1 = true ∧
    tOpen.me.gopen tOpen.cyc 2 = false ∧ (tOpen.me.guard 1).opn ≠ none ∧ tOpen.wlit ⟨true, 1⟩ = some (Cube.lit 1 true) ∧
    (Cube.lit 1 true).isTrue = false := by unfold State.Plain; decide

/-- The same with a BRD outstanding whose literal contradicts that of an instruction under g1. -/
def tContra : State := tAt { tCtx with
  g := [(1, ⟨false, some ⟨99, 103, .value, [⟨some true, 0, false⟩]⟩⟩)]
  brd := some ⟨⟨false, 1⟩, 99, 64, 0, none, 100⟩ }

theorem test_premises_openLiteral : tContra.wlit ⟨false, 1⟩ = none ∧ tContra.openLit ⟨false, 1⟩ = some (Cube.lit 1 false) ∧
    tOpen.openLit ⟨true, 1⟩ = some (Cube.lit 1 true) ∧ (Cube.lit 1 true).isTrue = false ∧ tContra.Reads .s 3 (ofWord 64) := by
  unfold State.Reads; decide +kernel

/-- g1 lands in this cycle and g2, which waits for it, in the next. -/
def tLand : State := tAt { tCtx with g := [(1, ⟨false, some ⟨98, 100, .value, [⟨some true, 0, false⟩]⟩⟩),
  (2, ⟨false, some ⟨99, 101, .not, [⟨none, 1, false⟩]⟩⟩)] }

theorem test_premises_guardLogic_landing : (∃ o, ((tLand.ctx 0 0).guard 1).opn = some o ∧ o.due = tLand.cyc) ∧
    ∃ p, ((tLand.ctx 0 0).guard 2).opn = some p := ⟨⟨_, rfl, rfl⟩, _, rfl⟩

theorem test_premises_takeWait : tS.me.gopen tS.cyc 15 = false ∧ tOpen.me.gopen tOpen.cyc 1 = true := by decide

theorem test_premises_csrAccess : tS.csrVal 0x003 = some 0 ∧ (0x003 : Nat) < 0x100 ∧ (tAt tSup).csrVal 0x188 = some 0 ∧ (tAt tSup).me.q.sup = true ∧
    (tAt tSup).Plain .always ∧ (tAt tSup).Reads .s 4 (ofWord 5) ∧ tS.Plain .always ∧ tS.Reads .s 4 (ofWord 5) ∧
    tS.csrVal 0x010 = some 0 ∧ (0x004 : Nat) < 0x100 ∧ (0x004 : Nat) ∉ [0x001, 0x002, 0x003, 0x010, 0x011, 0x012] ∧ (0x102 : Nat) ∉ [0x100, 0x101] ∧ tS.csrVal 0x001 = some 100 ∧ (0x188 : Nat) ∈ [0x010, 0x011, 0x012, 0x101, 0x180, 0x181, 0x185, 0x186, 0x187, 0x188] ∧
    tS.me.q.sup = false := by unfold State.Plain State.Reads; decide +kernel

/-! ## Witnesses: vector instructions -/

/-- A result that is no fault. -/
theorem okOf {α : Type} (e : Except Flt α) (h : (match e with | .ok _ => true | .error _ => false) = true) : ∃ a, e = .ok a := by
  cases e with
  | ok a => exact ⟨a, rfl⟩
  | error _ => cases h

/-- A result that is a fault. -/
theorem errOf {α : Type} (e : Except Flt α) (h : (match e with | .ok _ => false | .error _ => true) = true) : ∃ f, e = .error f := by
  cases e with
  | ok _ => cases h
  | error f => exact ⟨f, rfl⟩

/-- A result that is a given number. -/
theorem okIs (e : Except Flt Nat) (v : Nat) (h : (match e with | .ok p => p == v | .error _ => false) = true) : e = .ok v := by
  cases e with
  | ok p => simpa using h
  | error _ => cases h

/-- Execution mask `q`, four distinct rows to pop at port 2, and the context owns the array, whose oq0 holds a segment. -/
def tVec (q : Vec) : State :=
  (tAt { tCtx with
    m := [(0, oneTake q)]
    ports := [(2, { set := some ⟨0, false, 0, none, [4, 1, 1, 1], [256, 0, 0, 0]⟩, at_ := 50, pos := 0, check := none, refetch := false })] }).modArr 0
    fun a => { a with owner := some 0, oq := [(0, [⟨7, 1⟩])] }

theorem test_premises_sourceB : tS.Reads .v 31 0 ∧ tS.me.phys .v 31 < 32 ∧ (∃ p, (tVec 1).pop 0 0 (34 - 32) 0 false = .ok p) ∧
    (40 : Nat) ≤ 40 ∧ (63 : Nat) < 64 :=
  ⟨by unfold State.Reads; decide +kernel, by decide, okOf _ (by decide +kernel), by decide, by decide⟩

/-- Every lane active, and only lane 0 active with the old vd read; a port as source b. -/
theorem test_premises_laneReady : tS.LaneReady .always 32 127 126 0 0 maskOnes ∧ (tVec 1).LaneReady .always 4 3 126 0 0 1 ∧
    tS.ReadsB .always 31 (immInt 4) tS 0 ∧ tS.ReadsB .always 63 (immInt 4) tS (immInt 4 15) ∧ (∃ t y, (tVec 1).ReadsB .always 34 (immInt 8) t y) ∧
    (1 : Vec).toNat % 2 ^ (2048 / 4) ≠ 2 ^ (2048 / 4) - 1 := by
  refine ⟨⟨(by decide : tS.wlit .always = some Cube.tt), by unfold State.Reads; decide +kernel, by unfold State.Reads; decide +kernel,
      fun h => absurd h (by decide +kernel)⟩,
    ⟨(by decide : (tVec 1).wlit .always = some Cube.tt), by unfold State.Reads; decide +kernel, by unfold State.Reads; decide +kernel,
      fun _ => by unfold State.Reads; decide +kernel⟩, ⟨_, rfl, by decide +kernel, by decide +kernel, by decide +kernel⟩,
    ⟨_, rfl, rfl, rfl, rfl⟩, ?_, by decide +kernel⟩
  obtain ⟨q, hq⟩ := okOf ((tVec 1).pop (tVec 1).iss.core (tVec 1).iss.ctx (34 - 32) (tVec 1).iss.slot false) (by decide +kernel)
  refine ⟨q.1, q.2.row, Src.const q.2.row, ?_, rfl, rfl, rfl⟩
  unfold State.srcB
  rw [if_neg (by decide), if_pos (by decide), hq]
  rfl

theorem test_premises_vectorForms : (∃ o, o ∈ laneForms) ∧ (∃ o, o ∈ logicForms) ∧ intWidth 3 = 4 ∧ (fpFmt 2).width = 16 ∧
    tS.Reads .m 0 maskOnes ∧ tS.Reads .m 7 maskOnes ∧ (tS.me.guard 15).opn = none ∧ 2048 / intWidth 3 = 512 :=
  ⟨⟨_, List.Mem.head _⟩, ⟨_, List.Mem.head _⟩, by unfold State.Reads; decide +kernel⟩

/-- Source a holds two takes under g1, source b is poisoned, and vd is a cold register. -/
def tTakes (p : List RegPoison) : State :=
  tAt { tCtx with
    v := [(1, [⟨Cube.lit 1 false, 7⟩, ⟨Cube.lit 1 true, 9⟩])]
    g := [(1, ⟨false, some ⟨99, 103, .value, [⟨some true, 0, false⟩]⟩⟩)]
    poison := p }

theorem test_premises_vectorTakes : tS.wlit ⟨false, 1⟩ = none ∧ tS.me.phys .v 2 < 32 ∧ tS.openLit ⟨false, 1⟩ = none ∧
    (tTakes []).wlit ⟨false, 1⟩ = some (Cube.lit 1 false) ∧ ((tTakes []).me.rd .v 1).length = 2 ∧
    (∀ a ∈ [(RCls.v, 1), (.v, 2), (.m, 0)], (tTakes []).poisonReg a.1 ((tTakes []).me.phys a.1 a.2) = false) ∧
    (tTakes [⟨.v, 2, Cube.tt⟩]).poisonReg .v ((tTakes [⟨.v, 2, Cube.tt⟩]).me.phys .v 2) = true ∧
    32 ≤ (tAt { tCtx with brd := some ⟨⟨false, 1⟩, 99, 64, 0, none, 0⟩, g := [(1, ⟨false, some ⟨99, 103, .value, []⟩⟩)] }).me.phys .v 40 ∧
    (tAt { tCtx with brd := some ⟨⟨false, 1⟩, 99, 64, 0, none, 0⟩, g := [(1, ⟨false, some ⟨99, 103, .value, []⟩⟩)] }).wlit ⟨false, 1⟩ = none ∧
    ((tAt { tCtx with brd := some ⟨⟨false, 1⟩, 99, 64, 0, none, 0⟩, g := [(1, ⟨false, some ⟨99, 103, .value, []⟩⟩)] }).openLit ⟨false, 1⟩).isSome =
      true := by decide +kernel

theorem test_premises_maskTests : ((∃ i < 64, (1 : Vec).getLsbD i = true) ∧ ¬ ∀ i < 64, (1 : Vec).getLsbD i = true) ∧
    ∀ i < 64, (BitVec.ofNat 2048 (2 ^ 64 - 1)).getLsbD i = true :=
  ⟨⟨⟨0, by decide +kernel⟩, fun h => absurd (h 1 (by decide)) (by decide +kernel)⟩, by decide +kernel⟩

theorem test_premises_roundingNearest : (5 : Int) = 3 + (2 : Nat) ∧ (0 : Nat) < 2 ∧ (0x3C00 : Nat) < 2 ^ Fmt.f16.width ∧ Fmt.f16.isNan 0x3C00 = false := by
  decide

/-- A conversion that rounds by the counter: the state after it has advanced, with its mask and source. -/
theorem test_premises_vectorConvert : (7 : Nat) < 8 ∧ (6 : Nat) ≠ 7 ∧ (2 : Nat) < 3 ∧ cvtWidth 7 = 8 ∧
    (tS.modMe fun y => { y with ar := { y.ar with srctr := y.ar.srctr + 1 } }).Plain .always ∧
    (tS.modMe fun y => { y with ar := { y.ar with srctr := y.ar.srctr + 1 } }).Reads .v 127 0 ∧
    (tS.modMe fun y => { y with ar := { y.ar with srctr := y.ar.srctr + 1 } }).Reads .m 0 maskOnes ∧ tS.me.ar.c4 = false ∧
    (tVec 1).Reads .v 3 0 ∧ (tVec 1).Reads .m 0 1 := by unfold State.Plain State.Reads; decide +kernel

theorem test_premises_vectorRandomCompress : tS.Plain .always ∧ tS.Reads .v 127 0 ∧ (3 : Nat) < 4 ∧ (1 : Nat) ≤ 7 ∧ (7 : Nat) < 8 := by
  unfold State.Plain State.Reads; decide +kernel

theorem test_premises_resultQueueForms : (∃ p, (tVec 1).popOq .always 0 = .ok p) ∧ tS.myCore.arr.owner ≠ some tS.iss.ctx ∧
    (tVec 1).myCore.arr.owner = some (tVec 1).iss.ctx ∧ agetD (tVec 1).myCore.arr.oq 7 [] = [] ∧
    (tVec 1).me.lit 100 .always ≠ .const false ∧ agetD (tVec 1).myCore.arr.oq 0 [] = [⟨7, 1⟩] :=
  ⟨okOf _ (by decide +kernel), by decide, by decide, by decide, by decide, rfl⟩

/-! ## Witnesses: control instructions -/

/-- The bundle being issued is a slate bundle of one instruction. -/
def tSl (x : Ctx) : State := let s := tAt x; { s with iss := { s.iss with hdr := ⟨true, true, 0, 0⟩, count := 1 } }

/-- A deferred branch on g1, issued in cycle 99: its guard open, landed true, landed false. -/
def tBrd (taken : Option Bool) : Ctx := { tCtx with
  g := [(1, ⟨taken == some true, match taken with
    | none => some ⟨98, 103, .value, [⟨some true, 0, false⟩]⟩
    | some _ => none⟩)]
  brd := some ⟨⟨false, 1⟩, 99, 64, 0, taken, 100⟩ }

theorem test_premises_branchesComplete_brc : tS.rules (.brc ⟨true, 1⟩ (-1)) = .ok () ∧ tS.me.lit tS.cyc ⟨true, 1⟩ = .const true ∧
    tS.me.fetchPa tS.me.q.sup (tS.rel (-1)) = none := ⟨rfl, by decide, by decide⟩

theorem test_premises_branchesComplete : (0x80000 : Nat) / 2 ^ 18 % 2 ^ 6 = 2 ∧ (0x80000 : Nat) / 2 ^ 13 % 2 ^ 4 = 0 ∧
    tS.rules (.br 65535) = .ok () ∧ (tS.me.fetchPa tS.me.q.sup (tS.rel 65535)).isSome = true ∧
    tS.me.fetchPa tS.me.q.sup (tS.rel (-1)) = none ∧ tS.rules (.brc ⟨true, 1⟩ 1) = .ok () ∧ tOpen.rules (.brc ⟨false, 1⟩ 1) = .ok () ∧
    tS.me.lit tS.cyc ⟨true, 1⟩ = .const true ∧ tS.me.lit tS.cyc ⟨false, 1⟩ = .const false ∧
    tOpen.me.lit tOpen.cyc ⟨false, 1⟩ = .opn (Cube.lit 1 false) :=
  ⟨by decide, by decide, rfl, by decide, by decide, rfl, rfl, by decide, by decide, by decide⟩

theorem test_premises_deferredBranch : tS.rules (.brd ⟨true, 1⟩ 8) = .ok () ∧ tOpen.rules (.brd ⟨true, 1⟩ 8) = .ok () ∧
    tOpen.me.lit tOpen.cyc ⟨true, 1⟩ = .opn (Cube.lit 1 true) ∧ tS.me.lit tS.cyc ⟨true, 1⟩ = .const true :=
  ⟨rfl, rfl, by decide, by decide⟩

theorem test_premises_deferredBranchEffect : ((tAt (tBrd (some true))).ctx 0 0).brd = some ⟨⟨false, 1⟩, 99, 64, 0, some true, 100⟩ ∧
    ((tAt (tBrd (some true))).ctx 0 0).fault = none ∧ (((tAt (tBrd (some true))).ctx 0 0).fetchPa false 64).isSome = true ∧
    ((tAt { tBrd (some true) with q := Seq.reset }).ctx 0 0).fetchPa false 64 = none ∧
    ((tAt (tBrd (some false))).ctx 0 0).heldF = none ∧
    ∃ f, ((tAt { tBrd (some false) with heldF := some ((tAt tCtx).mkTrap 0x0C 0 0 0) }).ctx 0 0).heldF = some f :=
  ⟨rfl, rfl, by decide, by decide, rfl, _, rfl⟩

theorem test_premises_delayedTransfers : tS.noOpen = .ok () ∧ tS.rules (.jt 4 2) = .ok () ∧ tS.rules (.call 40) = .ok () ∧
    tS.rules (.callg 3) = .ok () ∧ tS.rules .ret = .ok () ∧
    translate tS.me tS.iss.core .load (((0x10000 : Word).toNat : Int) + 8 * (5 : Word).toNat) 8 8 false = .ok 0x080000000028 ∧
    (∃ u, tS.claim tS.iss.core tS.iss.slot [offOf 0x080000000028] = .ok u ∧ u.poisonFlt 0x080000000028 8 = none ∧
      (u.me.fetchPa u.me.q.sup (u.load 0x080000000028 8 / 32 * 32)).isSome = true) ∧
    (tS.me.fetchPa tS.me.q.sup (tS.rel 40)).isSome = true ∧
    (tS.me.fetchPa tS.me.q.sup ((64 : Word).toNat / 32 * 32)).isSome = true :=
  ⟨rfl, rfl, rfl, rfl, rfl, rfl, ⟨_, rfl, by decide, by decide⟩, by decide, by decide⟩

theorem test_premises_delayedTransfers_link : tS.Reads .s 55 (ofWord 0) ∧ tS.Reads .s 3 (ofWord 64) ∧ tS.Reads .s 4 (ofWord 5) ∧
    tS.Reads .s 2 (ofWord 0x10000) := by unfold State.Reads; decide +kernel

theorem test_premises_exceptionReturn : tS.rules .eret = .ok () ∧ tS.me.q.sup = false ∧ (tAt tSup).rules .eret = .ok () ∧
    (tAt tSup).me.q.sup = true ∧ (tAt tSup).noOpen = .ok () ∧
    ((tAt tSup).me.fetchPa true ((tAt tSup).me.tr.tpc.toNat / 32 * 32)).isSome = true ∧
    (⟨64, 2, none⟩ : Xfer).left > 1 ∧ (⟨64, 1, some false⟩ : Xfer).left = 1 ∧ (⟨64, 1, none⟩ : Xfer).eret ≠ some false :=
  ⟨rfl, rfl, rfl, rfl, rfl, by decide, by decide, rfl, by decide⟩

/-- The innermost level stands in its iteration `i` of 2. -/
def tLoop (i : Nat) : Ctx := { tCtx with q := { tCtx.q with loops := [⟨0, 2, i, false, []⟩] } }

/-- s4 holds 2^48, a count too large by one. -/
def tLong : State := tAt { tCtx with s := [(4, oneTake 0x1000000000000)] }

theorem test_premises_loops : (∃ a, tS.rules (.loopReg 4) = .ok a) ∧ tS.rules (.loopImm 131071) = .ok () ∧ (5 : Word).toNat < 2 ^ 48 ∧
    2 ^ 48 ≤ (0x1000000000000 : Word).toNat ∧ (tAt (tLoop 0)).rules .lend = .ok () ∧ (tAt (tLoop 1)).rules .lend = .ok () ∧
    (tAt (tLoop 0)).me.q.loops = [⟨0, 2, 0, false, []⟩] ∧ tLong.Reads .s 4 (ofWord 0x1000000000000) ∧
    tLong.rulePlace (.loopReg 4) = .ok () ∧ tLong.ruleSeq (.loopReg 4) = .ok () ∧ tS.me.q.loops.length < 6 :=
  ⟨okOf _ (by decide +kernel), rfl, by decide, by decide, rfl, rfl, rfl, by unfold State.Reads; decide +kernel, rfl, rfl, by decide⟩

theorem test_premises_trapsAndCalls : tS.rules (.trap 255) = .ok () ∧ (tAt (tBrd (some true))).wlit .always = none ∧
    (tAt (tBrd (some true))).rules (.trap 0) = .ok () ∧ (tAt (tBrd none)).rules (.trap 0) = .ok () ∧
    (tAt (tBrd none)).wlit .always = some (Cube.lit 1 true) ∧ (Cube.lit 1 true).isTrue = false ∧
    (∃ x, (tAt (tBrd none)).me.deferAdd (Cube.lit 1 true) 0 (some { (tAt (tBrd none)).mkTrap 0x0E 0 0 0 with defer := true }) = some x) ∧
    (tSl tCtx).rules (.brk 255) = .ok () ∧ (tSl tCtx).rules (.syscall 4095) = .ok () ∧ (tSl tSup).rules (.syscall 0) = .ok () ∧
    (tSl tSup).me.q.sup = true ∧ (tSl tCtx).me.q.sup = false ∧ (tSl tCtx).noOpen = .ok () ∧ tS.wlit .always = some Cube.tt :=
  ⟨rfl, by decide, rfl, rfl, by decide, by decide, ⟨_, rfl⟩, rfl, rfl, rfl, rfl, rfl, rfl, by decide⟩

theorem test_premises_waits : tS.rules (.waitc 4) = .ok () ∧ (101 : Word).toNat ≤ tS.cyc + 1 ∧ (102 : Word).toNat > tS.cyc + 1 ∧
    (102 : Word).toNat ≤ tS.cyc + 2 ^ 24 ∧ (16777317 : Word).toNat = tS.cyc + 2 ^ 24 + 1 ∧ (tSl tCtx).rules (.scene 100) = .ok () ∧
    (tSl tCtx).me.q.lastrel + 100 < (tSl tCtx).cyc + 1 ∧ (tSl tCtx).rules (.scene 102) = .ok () ∧
    (tSl tCtx).cyc + 1 < (tSl tCtx).me.q.lastrel + 102 := ⟨rfl, by decide, by decide, by decide, by decide, rfl, by decide, rfl, by decide⟩

/-- A slate bundle in a handler, and in the user code it returned to elsewhere. -/
def tAway (sup : Bool) : State := let x := if sup then tSup else tCtx; tSl { x with q := { x.q with away := some 64 } }

theorem test_premises_waits_away : (tAway true).rules (.scene 102) = .ok () ∧ (tAway true).cyc + 1 ≤ (tAway true).me.q.lastrel + 102 ∧
    (tAway true).me.q.away ≠ none ∧ (tAway true).me.q.sup = true ∧ (tAway false).rules (.scene 102) = .ok () ∧
    (tAway false).cyc + 1 ≤ (tAway false).me.q.lastrel + 102 ∧ (tAway false).me.q.sup = false := by
  exact ⟨rfl, by decide, by decide, rfl, rfl, by decide, rfl⟩

theorem test_premises_slateReads : tS.wlit .always = some Cube.tt ∧ tS.rules (.slateQ 63) = .ok () ∧ tS.rules (.slateT 63) = .ok () :=
  ⟨by decide, rfl, rfl⟩

/-- Context 1 of the core is Ready. -/
def tTwo : State := (tSl tCtx).setCtx 0 1 { tCtx with q := { tCtx.q with st := .ready } }

theorem test_premises_simpleControl : (tSl tCtx).rules .halt = .ok () ∧ tS.rules .trigger = .ok () ∧ (tSl tCtx).rules .yieldC = .ok () ∧
    (tSl tCtx).myCore.nextReady = none ∧ tTwo.rules .yieldC = .ok () ∧ tTwo.me.q.yielded = false ∧ tTwo.myCore.nextReady.isSome = true :=
  ⟨rfl, rfl, rfl, by decide, rfl, rfl, by decide⟩

/-- Six open levels. -/
def tSix : State := tAt { tCtx with q := { tCtx.q with loops := List.replicate 6 ⟨0, 2, 0, false, []⟩ } }

theorem test_premises_bundleRules : slateOnly .halt = true ∧ tS.iss.hdr.sl = false ∧ aloneOnly (.brk 0) = true ∧
    1 < ({ tS with iss := { tS.iss with count := 2 } } : State).iss.count ∧ tS.iss.hdr.ps = false ∧ tS.rulePlace (.br 1) = .ok () ∧
    Machine.control (.br 1) = true ∧ (tAt { tCtx with q := { tCtx.q with xfer := some ⟨64, 3, none⟩ } }).me.q.xfer.isSome = true ∧
    underBrd (.br 1) = false ∧ (∃ b, (tAt (tBrd none)).me.brd = some b ∧ b.issued < (tAt (tBrd none)).cyc) ∧
    tSix.ruleSeq (.loopImm 1) = .ok () ∧ 6 ≤ tSix.me.q.loops.length ∧ tS.ruleSeq .lend = .ok () ∧ tS.me.q.loops = [] ∧
    noLoop .ret = true ∧ tSix.ruleSeq .ret = .ok () ∧ tSix.me.q.loops ≠ [] ∧ tSix.singleS 4 = .ok 5 ∧
    tLong.singleS 4 = .ok (2 ^ 48) ∧ tLong.ruleSeq (.loopReg 4) = .ok () :=
  ⟨rfl, rfl, rfl, by decide, rfl, rfl, rfl, rfl, rfl, ⟨_, rfl, by decide⟩, rfl, by decide, rfl, rfl, rfl, rfl, by decide,
    okIs _ _ (by decide +kernel), okIs _ _ (by decide +kernel), rfl⟩

/-- A TQSEND in slot 7 of a bundle at instruction address 0 that is no slate, and what the step makes of it up to the rules of its bundle. -/
def tBad : State := { tS with mem := [(0x100001F, 0x0C)] }
def tBad1 : State := (tBad.beginTurn 0).modCtx 0 0 Ctx.atStop
def tBad2 : State := { tBad1 with iss := { Iss.reset with core := 0, ctx := 0, pc := (tBad1.ctx 0 0).q.pc } }
def tBadBundle : Nat := (tBad2.fetch (tBad1.ctx 0 0) (tBad1.ctx 0 0).q.pc).getD 0
def tBadInstrs : List Instr := [.nop, .nop, .nop, .nop, .nop, .nop, .nop, .tqsend 0 0]
def tBad3 : State := { tBad2 with iss := { tBad2.iss with hdr := headerOf (tBadBundle % 2 ^ 32), count := 1 } }

theorem test_premises_bundleRules_step :
    tBad.cal = [] ∧ (tBad.beginTurn 0).brdWaits 0 = none ∧ tBad.nextCore = some 0 ∧ (tBad1.ctx 0 0).pendF = [] ∧
    (tBad1.ctx 0 0).dueTrap = none ∧ tBad2.fetch (tBad1.ctx 0 0) (tBad1.ctx 0 0).q.pc = some tBadBundle ∧
    tBad2.decodeFrom (tBad1.ctx 0 0).q.loops.length 0 (bundleWords tBadBundle) = .ok tBadInstrs ∧
    collide 0 (tBadInstrs.map (tBad1.ctx 0 0).dest) = none ∧ (headerOf (tBadBundle % 2 ^ 32)).sl = false ∧
    (tBad1.ctx 0 0).q.acts (headerOf (tBadBundle % 2 ^ 32)) = true ∧
    ∃ f, tBad3.bundleRules tBadInstrs (tBadBundle % 2 ^ 32) = .error f ∧ (tBad3.bundleFault 0 0 f).oqOver 0 = none := by
  refine ⟨rfl, by decide, by decide, rfl, by decide, by decide, rfl, by decide, by decide, by decide, ?_⟩
  exact ⟨_, rfl, by decide⟩

/-- A bundle with a TQSEND that is no slate; a SLATE among delay bundles; a delay bundle with a BR; a seventh level; a body of 512 bundles; 16384
bundles since a slate. -/
theorem test_premises_bundleRules_bundle :
    ([Instr.nop, .tqsend 0 0] : List Instr)[1]? = some (.tqsend 0 0) ∧
    (∃ e, ({ tS with iss := { tS.iss with slot := 1 } } : State).rulePlace (.tqsend 0 0) = .error e) ∧
    ({ tS with iss := { tS.iss with slot := 0 } } : State).rulePlace .nop = .ok () ∧
    (tSl { tCtx with q := { tCtx.q with xfer := some ⟨64, 3, none⟩ } }).me.q.xfer.isSome = true ∧
    (tSl { tCtx with q := { tCtx.q with xfer := some ⟨64, 3, none⟩ } }).iss.hdr.sl = true ∧
    (∃ e, (tAt { tCtx with q := { tCtx.q with xfer := some ⟨64, 3, none⟩ } }).ruleSeq (.br 1) = .error e) ∧
    (∃ e, tSix.ruleLoop (.loopImm 1) = .error e) ∧ tSix.ruleSeq (.loopImm 1) = .ok () ∧ tSix.rulePlace (.loopImm 1) = .ok () ∧
    ((tAt { tCtx with q := { tCtx.q with loops := [⟨0, 2, 0, false, []⟩], body := List.replicate 512 32, span := 16384 } }).me.q.pc ∉
      List.replicate 512 32) := by
  refine ⟨rfl, ⟨_, rfl⟩, rfl, rfl, rfl, ⟨_, rfl⟩, ⟨_, rfl⟩, rfl, rfl, ?_⟩
  simp only [List.mem_replicate, not_and]; intro _; decide

theorem test_premises_transfersNeedNoOpenGuard : (List.range 16).find? (fun i => tOpen.me.gopen tOpen.cyc i) = some 1 ∧
    tOpen.rules (.jt 4 2) = .ok () ∧ tOpen.rules .ret = .ok () := ⟨by decide, rfl, rfl⟩

/-! ## Witnesses: local accesses and the matrix array -/

theorem test_premises_loadsComplete : tS.wlit .always = some Cube.tt ∧
    tS.reachA .load (((0x10000 : Word).toNat : Int) + 255 * (8 : Nat)) 8 true = .ok 0x0800000007F8 ∧
    (∃ u, tS.claim tS.iss.core tS.iss.slot (if regionOf 0x0800000007F8 = .ctl then [] else [offOf 0x0800000007F8]) = .ok u ∧
      u.poisonFlt 0x0800000007F8 8 = none) ∧
    (∃ e, ({ tS with pois := [granOf 0x080000000000] } : State).poisonFlt 0x080000000000 4 = some e) ∧
    (∃ e, tS.reachA .load (((5 : Word).toNat : Int) + 0 * (2 ^ (0 / 2) : Nat)) (2 ^ (0 / 2)) false = .error e) ∧
    (∃ e, (tS.addReqs 0 5 [(0, 9)]).claim tS.iss.core tS.iss.slot [offOf 0x080000000000] = .error e) ∧
    tS.reachA .load (((0x10000 : Word).toNat : Int) + 127 * 256) 256 false = .ok 0x080000007F00 ∧
    regionOf 0x080000007F00 ≠ .ctl ∧
    ((List.range 64).map fun i => ((0x10000 : Word).toNat : Int) + laneAt 32 (0 : Vec) i).mapM (fun ea => tS.reachA .load ea 4 false) =
      .ok (List.replicate 64 0x080000000000) :=
  ⟨by decide, rfl, ⟨_, rfl, by decide⟩, ⟨_, rfl⟩, ⟨_, rfl⟩, ⟨_, rfl⟩, rfl, by decide, by decide +kernel⟩

/-- A poisoned granule of the window, and lanes that lie outside every window or in two rows of one bank. -/
def tPois : State := { tS with pois := [granOf 0x080000000000] }
def tFar : Vec := BitVec.ofNat 2048 0x40000000
def tClash : Vec := BitVec.ofNat 2048 0x4000

theorem test_premises_loadsComplete_faults :
    (∃ u e, tPois.claim 0 0 [offOf 0x080000000000] = .ok u ∧ u.poisonFlt 0x080000000000 256 = some e) ∧
    (∃ e, tS.reachA .load (((5 : Word).toNat : Int) + 0 * 256) 256 false = .error e) ∧
    (∃ e, (tS.addReqs 0 5 [(0, 9)]).claim 0 0 [offOf 0x080000000000] = .error e) ∧
    (∃ e, ((List.range 64).map fun i => ((0x10000 : Word).toNat : Int) + laneAt 32 tFar i).mapM (fun ea => tS.reachA .load ea 4 false) = .error e) ∧
    (∃ e, (tS.addReqs 0 5 [(0, 9)]).claim 0 0 ((List.replicate 64 0x080000000000).map offOf) = .error e) ∧
    ∃ u e, tPois.claim 0 0 ((List.replicate 64 0x080000000000).map offOf) = .ok u ∧
      (List.replicate 64 0x080000000000).findSome? (fun pa => u.poisonFlt pa 4) = some e := by
  refine ⟨⟨_, _, rfl, rfl⟩, ⟨_, rfl⟩, ⟨_, rfl⟩, errOf _ (by decide +kernel), ⟨_, rfl⟩, ⟨_, _, rfl, rfl⟩⟩

theorem test_premises_storesComplete_faults :
    (∃ e, tS.reachA .store (((5 : Word).toNat : Int) + 0 * 256) 256 false = .error e) ∧
    (∃ e, ((List.range 64).map fun i => ((0x10000 : Word).toNat : Int) + laneAt 32 tFar i).mapM (fun ea => tS.reachA .store ea 4 false) = .error e) ∧
    (∃ pas, ((List.range 64).map fun i => ((0x10000 : Word).toNat : Int) + laneAt 32 tClash i).mapM (fun ea => tS.reachA .store ea 4 false) = .ok pas ∧
      ∃ r, (rowsOf (pas.map offOf)).find? (fun r => (rowsOf (pas.map offOf)).any fun q => decide (q.1 = r.1 ∧ q.2 ≠ r.2)) = some r) := by
  refine ⟨⟨_, rfl⟩, errOf _ (by decide +kernel), 0x080000004000 :: List.replicate 63 0x080000000000, by decide +kernel,
    Option.isSome_iff_exists.mp (by decide +kernel)⟩

/-- The store that an ST of value `v` at slot 3 of the usual state puts on its way. -/
def tIssued (id v : Nat) : Store :=
  { id := id, ctx := 0, slot := 3, fpc := 0, iat := 100, sup := false, ord := 0, due := 104, kind := .plain, ws := [⟨0x080000000000, 4, v⟩], part := 0,
    task := 1, ep := 0, cube := Cube.tt }

theorem test_premises_storesComplete : tS.me.heldCount ≤ 8 ∧ tS.myCore.storeMeets 100 (tIssued 0 5) = none ∧
    (∃ e, (tS.modCore 0 fun c => { c with stores := [tIssued 1 6] }).myCore.storeMeets 100 (tIssued 0 5) = some e) ∧
    ((tS.modCore 0 fun c => { c with stores := [{ tIssued 1 6 with due := 103 }] }).myCore.storeMeets 100 (tIssued 0 5) = none) ∧
    tS.reachA .store (((0x10000 : Word).toNat : Int) + (-0 : Int) * (4 : Nat)) 4 false = .ok 0x080000000000 ∧
    tS.reachA .lazy (((0x10000 : Word).toNat : Int) + 1 * (8 : Nat)) 8 true = .ok 0x080000000008 ∧ regionOf 0x080000000008 ≠ .ctl ∧
    (∃ e, tS.reachA .store (((5 : Word).toNat : Int) + 0 * (1 : Nat)) 1 false = .error e) ∧
    (∃ e, tS.reachA .lazy (((5 : Word).toNat : Int) + 0 * (1 : Nat)) 1 false = .error e) ∧
    tS.reachA .store (((0x10000 : Word).toNat : Int) + 0 * 256) 256 false = .ok 0x080000000000 ∧
    (∀ p ∈ rowsOf (List.replicate 64 (offOf 0x080000000000)), ∀ q ∈ rowsOf (List.replicate 64 (offOf 0x080000000000)), q.1 = p.1 → q.2 = p.2) :=
  ⟨by decide, by decide, ⟨_, rfl⟩, by decide, rfl, rfl, by decide, ⟨_, rfl⟩, ⟨_, rfl⟩, rfl, by decide +kernel⟩

/-- A result with a given second part. -/
theorem okVal {α : Type} (e : Except Flt (α × Nat)) (v : Nat)
    (h : (match e with | .ok p => p.2 == v | .error _ => false) = true) : ∃ a, e = .ok (a, v) := by
  cases e with
  | ok p => exact ⟨p.1, by rw [show p = (p.1, v) from Prod.ext rfl (by simpa using h)]⟩
  | error _ => cases h

/-- Memory of the scratchpad from its start on: the bytes of `v`. -/
def tMem (v n : Nat) (s : State) : State := { s with mem := memStore s.mem 0x080000000000 n v }

theorem test_premises_portsHandlesWindows : tS.noBrd = .ok () ∧ (0x10000 : Word).toNat % 32 = 0 ∧
    (∃ u, tS.readRec (0x10000 : Word).toNat 64 64 10 3 = .ok (u, 0)) ∧ (∃ e, tS.readRec 0x10008 64 64 10 3 = .error e) ∧
    (∃ u, tS.readRec (0x10000 : Word).toNat 64 64 1 7 = .ok (u, 0)) ∧ (∃ e, tS.readRec 5 64 64 1 7 = .error e) ∧ (∃ p, portSet tS.me 0 = some p) ∧ portSet tS.me (2 ^ 22) = none ∧
    sealCheck (BitVec.ofNat 512 0xd868c5cd000000000000000000000000000000000000000000000000000000000000000000000000000000000000000000000001000000000000000100000000) = none ∧ (∃ k, sealCheck 1 = some k) ∧ (∀ b, tS.me.bind = some b → b.due ≤ tS.cyc) ∧
    (∃ b, (tAt (tBrd none)).me.brd = some b ∧ b.issued < (tAt (tBrd none)).cyc) ∧
    translate (tAt (tBrd none)).me 0 .load (0x10000 : Word).toNat 64 1 false = .ok 0x080000000000 ∧
    (∃ u, (tAt (tBrd none)).claim 0 0 [offOf 0x080000000000, offOf (0x080000000000 + 63)] = .ok u) ∧
    (∀ b, (tAt (tBrd none)).me.bind = some b → b.due ≤ 100) := by
  refine ⟨rfl, by decide, ?_, ⟨_, rfl⟩, ⟨_, rfl⟩, ⟨_, rfl⟩, Option.isSome_iff_exists.mp (by decide +kernel), by decide +kernel, by decide +kernel, ⟨2, by decide +kernel⟩, fun b h => (nomatch (show (none : Option BindFl) = some b from h)), ⟨_, rfl, by decide⟩, rfl, ⟨_, rfl⟩, fun b h => (nomatch (show (none : Option BindFl) = some b from h))⟩
  exact ⟨_, rfl⟩

/-- A deferred branch is outstanding in a persist slate of a context that owns the array. -/
def tBrdArr : State :=
  let s := (tAt (tBrd none)).modArr 0 fun a => { a with owner := some 0 }
  { s with iss := { s.iss with hdr := ⟨true, true, 0, 0⟩, count := 1 } }

theorem test_premises_portsHandlesWindows_brd : (∃ b, tBrdArr.me.brd = some b ∧ b.issued < tBrdArr.cyc) ∧ tBrdArr.rulePlace .psave = .ok () ∧
    tBrdArr.rulePlace (.combine false 2) = .ok () ∧ tBrdArr.myCore.arr.owner = some tBrdArr.iss.ctx ∧ tBrdArr.Reads .m 0 maskOnes ∧
    tBrdArr.Reads .s 2 (ofWord 0x10000) := ⟨⟨_, rfl, by decide⟩, rfl, rfl, rfl, by unfold State.Reads; decide +kernel⟩

/-- The context owns the array as `f` makes it; s4 reads 5. -/
def tArr (f : Arr → Arr) : State := tS.modArr 0 fun a => f { a with owner := some 0 }

theorem test_premises_matrixState : tS.noBrd = .ok () ∧ tS.myCore.arr.owner = none ∧ (tArr id).noBrd = .ok () ∧
    (tArr id).myCore.arr.owner = some (tArr id).iss.ctx ∧ (tArr fun a => { a with owner := some 3 }).myCore.arr.owner = some 3 ∧
    (3 : Nat) ≠ (tArr id).iss.ctx ∧ (tArr id).myCore.arr.pendingUntil ≤ 100 ∧
    100 < (tArr fun a => { a with rows := [⟨1, 0, 101, 0, true, 0, 0, 0, Copy.reset, false⟩] }).myCore.arr.pendingUntil ∧
    (∀ f, (tArr id).myCore.arr.fill = some f → (15 : Nat).testBit f.bank = false) ∧ (tArr id).Reads .s 4 (ofWord 5) ∧
    (∀ j < 8, (255 : Nat).testBit j = true → (tArr id).myCore.arr.tileBusy j 100 = false) ∧
    (∃ j < 8, (255 : Nat).testBit j = true ∧
      (tArr fun a => { a with rows := [⟨1, 0, 101, 7, true, 0, 0, 0, Copy.reset, false⟩] }).myCore.arr.tileBusy j 100 = true) ∧
    (∀ d ∈ (tArr id).myCore.arr.drains, d.topk = true → d.n ≤ d.read) :=
  ⟨rfl, rfl, rfl, rfl, rfl, by decide, by decide, by decide, fun f h => (nomatch (show (none : Option Fill) = some f from h)), by unfold State.Reads; decide +kernel, by decide,
    ⟨7, by decide⟩, by decide⟩

/-- Port 0 has a handle of format `fmt`. -/
def tPort (r : Nat) : State := tArr id |>.modMe fun x => { x with
  ports := [(0, { set := some ⟨0, true, 0, some (BitVec.ofNat 512 r), [1, 1, 1, 1], [0, 0, 0, 0]⟩, at_ := 50, pos := 0, check := none, refetch := false })] }

theorem test_premises_matrixStream : (tPort (4 * 2 ^ 96)).noBrd = .ok () ∧ (tPort (4 * 2 ^ 96)).myCore.arr.owner = some (tPort (4 * 2 ^ 96)).iss.ctx ∧
    (tPort (4 * 2 ^ 96)).portFmt 0 = some 4 ∧ ¬ ((tPort (4 * 2 ^ 96)).svcMode = 1 ∧ (4 : Nat) ≠ 4) ∧
    (tPort (4 * 2 ^ 96)).myCore.arr.fill = none ∧ ((tPort (4 * 2 ^ 96)).myCore.arr.bank 3).swapAt = none ∧
    (tPort (4 * 2 ^ 96)).myCore.arr.entryBusy 102 = false ∧ ((tPort (4 * 2 ^ 96)).myCore.arr.tile 7).poison = false ∧
    (tPort (2 ^ 96)).portFmt 0 = some 1 ∧ fmtClass 1 = 1 ∧ (tPort 0).myCore.arr.drainBusy (100 + 4 + 8) (drainEnd 100 true 512) = false ∧
    (512 : Nat) ≤ 512 / (tPort 0).myCore.arr.k ∧ (tPort 0).myCore.arr.treeNew = [] ∧
    translate (tPort 0).me 0 .load (0x10000 : Word).toNat 1024 256 false = .ok 0x080000000000 ∧
    (∃ u, (tPort 0).claim 0 10 [offOf 0x080000000000] = .ok u ∧ u.poisonFlt 0x080000000000 256 = none) ∧
    (∃ u, (tMem (0xFF + 2 ^ 512) 128 (tArr id)).readRec (0x10000 : Word).toNat 128 128 11 0 = .ok (u, 0xFF + 2 ^ 512)) ∧
    (∃ t, treeOf (0xFF + 2 ^ 512) = some t) :=
  ⟨rfl, rfl, by decide +kernel, by decide, rfl, rfl, rfl, rfl, by decide +kernel, rfl, by decide, by decide, rfl, okIs _ _ (by decide +kernel), ⟨_, rfl, rfl⟩,
    okVal _ _ (by decide +kernel), Option.isSome_iff_exists.mp (by decide +kernel)⟩

/-! ## Witnesses: copies, queues and engines at issue -/

/-- The usual context with the scalars of `r` and windows over a second scratchpad range, a queue, a ring store and another package. -/
def tMemCtx (r : Assoc (List Take)) : Ctx := { tCtx with
  s := r
  win := [(0, tWin), (1, { tWin with vbase := 0x40000, size := 0x1000, pbase := 0x080200000000, attr := 1 }),
    (2, { tWin with vbase := 0x50000, size := 0x10000, pbase := 0x200001000000, attr := 1 })] }

theorem test_premises_copyEnters :
    let s := tAt (tMemCtx [(2, oneTake 0x10000), (3, oneTake 0x10040), (4, oneTake 64), (5, oneTake 101)])
    s.noBrd = .ok () ∧ (0x10000 : Word).toNat % 64 = 0 ∧ (0x10040 : Word).toNat % 64 = 0 ∧ (64 : Word).toNat % 64 = 0 ∧
    translate s.me s.iss.core .copySrc (0x10040 : Word).toNat (64 : Word).toNat 1 false = .ok 0x080000000040 ∧
    translate s.me s.iss.core .copyDst (0x10000 : Word).toNat (64 : Word).toNat 1 false = .ok 0x080000000000 ∧
    isTq (regionOf 0x080000000000) = false ∧ isOuter (regionOf 0x080000000040) = false ∧
    s.cyc < s.me.q.base + (101 : Word).toNat % 2 ^ 48 ∧ (101 : Word).toNat < 2 ^ 56 ∧ s.me.q.base + (101 : Word).toNat % 2 ^ 48 ≤ s.cyc + 2 ^ 20 ∧
    s.myCore.copies.length < 1536 ∧ s.myCore.busy (pathClass (regionOf 0x080000000040) (regionOf 0x080000000000)) ≤ 101 ∧
    s.me.q.base + (100 : Word).toNat % 2 ^ 48 ≤ s.cyc ∧ 2 ^ 56 ≤ (0x0100000000000000 : Word).toNat ∧
    101 < (s.modMyCore fun c => { c with busyA := 150, busyH := 150, busyD := 150 }).myCore.busy
      (pathClass (regionOf 0x080000000040) (regionOf 0x080000000000)) ∧
    translate s.me s.iss.core .copyDst (0x40000 : Word).toNat 4096 1 false = .ok 0x080200000000 ∧ isTq (regionOf 0x080200000000) = true := by
  intro s
  exact ⟨rfl, by decide, by decide, by decide, okIs _ _ (by decide +kernel), okIs _ _ (by decide +kernel), by decide, by decide, by decide,
    by decide, by decide, by decide, by decide, by decide, by decide, by decide, okIs _ _ (by decide +kernel), by decide⟩

theorem test_premises_copyEnters_reads :
    let s := tAt (tMemCtx [(2, oneTake 0x10000), (3, oneTake 0x10040), (4, oneTake 64), (5, oneTake 101)])
    s.Reads .s 2 (ofWord 0x10000) ∧ s.Reads .s 3 (ofWord 0x10040) ∧ s.Reads .s 4 (ofWord 64) ∧ s.Reads .s 5 (ofWord 101) := by
  intro s; unfold State.Reads; decide +kernel

theorem test_premises_copyEnters_late : tS.cyc + 2 ^ 20 < tS.me.q.base + (0x200000 : Word).toNat % 2 ^ 48 ∧ (0x200000 : Word).toNat < 2 ^ 56 ∧
    (∃ b, (tAt (tBrd none)).me.brd = some b ∧ b.issued < (tAt (tBrd none)).cyc) ∧ (0x10004 : Word).toNat % 8 ≠ 0 :=
  ⟨by decide, by decide, ⟨_, rfl, by decide⟩, by decide⟩

theorem test_premises_atomicsDepart : tS.noBrd = .ok () ∧ (0x10000 : Word).toNat % 8 = 0 ∧
    translate tS.me tS.iss.core .atom (0x10000 : Word).toNat 8 8 false = .ok 0x080000000000 ∧ isOuter (regionOf 0x080000000000) = false ∧
    translate (tAt (tMemCtx [])).me 0 .atom (0x50000 : Word).toNat 4 4 false = .ok 0x200001000000 ∧
    isOuter (regionOf 0x200001000000) = true ∧ regionOf 0x200001000000 ≠ .host ∧
    (∃ w, (tAt (tMemCtx [])).me.window ((0x50000 : Word).toNat) = some w ∧
      (tAt (tMemCtx [])).holdsTq 0 (dieOf 0 * 64 + w.2.rq) = false ∧
      ({ tAt (tMemCtx []) with ctl := [(offPart 0 + 0xC0, 0xFFFFFFFFFFFFFFFF)] } : State).holdsTq 0 (dieOf 0 * 64 + w.2.rq) = true) :=
  ⟨rfl, by decide, okIs _ _ (by decide +kernel), by decide, okIs _ _ (by decide +kernel), by decide, by decide,
    ⟨_, rfl, by decide +kernel, by decide +kernel⟩⟩

/-- Control registers as given. -/
def tReg (c : Assoc Word) (s : State) : State := { s with ctl := c }

/-- PFENCE.d by core 0 two cycles ago. -/
theorem test_premises_persists_fence : (98, 3) ∈ ((tS.modCore 0 fun c => { c with fenceAt := [(98, 3)] }).core 0).fenceAt ∧ 98 < tS.cyc := by
  decide

theorem test_premises_fences : tS.noBrd = .ok () ∧ (tReg [(offPart 0 + 0x78, 0x8000000000000000)] tS).holdsCore 0 511 = true ∧
    (511 : Word).toNat < 512 ∧ 512 ≤ (512 : Word).toNat ∧ tS.holdsCore tS.me.q.part 5 = false := ⟨rfl, by decide, by decide, by decide, by decide⟩

theorem test_premises_persists : tS.noBrd = .ok () ∧ (tReg [(offSvc, 2)] tS).negReady = false ∧ (tReg [(offSvc, 0x402)] tS).negReady = true ∧
    (0x10000 : Word).toNat % 64 = 0 ∧ translate tS.me tS.iss.core .flush (0x10000 : Word).toNat 64 1 false = .ok 0x080000000000 ∧
    tS.me.window (0x10000 : Word).toNat = some (0, tWin) ∧ tWin.attr = 2 ∧ (tSl tCtx).rulePlace .psave = .ok () :=
  ⟨rfl, by decide, by decide, by decide, okIs _ _ (by decide +kernel), by decide, rfl, rfl⟩

/-- A flit of this core's partition on lane 3 of the reel that meets stop 0 in cycle `c`. -/
def tFlit (enter : Nat) : State := tS.modDie 0 fun d => { d with flits := [⟨9, 3, 0, enter, 0, 0, 7⟩] }

theorem test_premises_reel : tS.noBrd = .ok () ∧ tS.Reads .v 127 0 ∧ (∀ f ∈ (tS.die (dieOf tS.iss.core)).flits, f.meets 3 (stopOf tS.iss.core) 102 = false) ∧
    ((tFlit 100).die 0).flits.find? (fun f => f.meets 3 (stopOf 0) 100) = some ⟨9, 3, 0, 100, 0, 0, 7⟩ ∧
    tS.reachA .store (0x10000 : Word).toNat 256 false = .ok 0x080000000000 :=
  ⟨rfl, by unfold State.Reads; decide +kernel, by decide, by decide +kernel, okIs _ _ (by decide +kernel)⟩

theorem test_premises_reel_tap : ((tFlit 98).die 0).flits.find? (fun f => f.availableTo 3 (stopOf 0) (tFlit 98).cyc && f.part = 0) =
      some ⟨9, 3, 0, 98, 0, 0, 7⟩ ∧
    (tS.die 0).flits.find? (fun f => f.availableTo 3 (stopOf 0) tS.cyc && f.part = 0) = none := by decide +kernel

/-- A slate bundle in a partition that holds core 0 and queue 5, with the queue as given. -/
def tQueue (r : Tq) : State :=
  ((tReg [(offPart 0, 0x1005000001), (offPart 0 + 0x40, 0xF), (offPart 0 + 0xC0, 0x20)] (tSl tCtx)).modDie 0 fun d => { d with tqs := [(5, r)] })

theorem test_premises_tokenQueues : (tQueue Tq.reset).noBrd = .ok () ∧ (tQueue Tq.reset).holdsTq 0 ((tQueue Tq.reset).myTq 5) = true ∧
    (tQueue Tq.reset).rulePlace (.tqsend 5 1) = .ok () ∧ (tQueue Tq.reset).Reads .v 1 0 ∧
    ((tQueue { Tq.reset with busy := 63 }).tq 5).taken < 64 ∧ (tQueue Tq.reset).released (.send 5) = none ∧
    64 ≤ ((tQueue { Tq.reset with busy := 64 }).tq 5).taken ∧ (tQueue Tq.reset).rulePlace (.tqrecv 1 5) = .ok () ∧
    ((tQueue { Tq.reset with ents := [⟨3, 8, false, none⟩] }).tq 5).ents.find? (fun e => e.resv.isNone) = some ⟨3, 8, false, none⟩ ∧
    (tQueue Tq.reset).holdsTq 0 ((tQueue Tq.reset).myTq 6) = false :=
  ⟨rfl, by decide, rfl, by unfold State.Reads; decide +kernel, by decide, rfl, by decide, rfl, by decide +kernel, by decide⟩

theorem test_premises_tokenQueues_poison : (tQueue { Tq.reset with ents := [⟨3, 8, true, none⟩] }).rulePlace (.tqrecv 1 5) = .ok () ∧
    ((tQueue { Tq.reset with ents := [⟨3, 8, true, none⟩] }).tq 5).ents.find? (fun e => e.resv.isNone) = some ⟨3, 8, true, none⟩ :=
  ⟨rfl, by decide +kernel⟩

theorem test_premises_barriersInterrupts : (tQueue Tq.reset).noBrd = .ok () ∧ (tQueue Tq.reset).rulePlace (.bar 2 15 0) = .ok () ∧
    (tQueue Tq.reset).Reads .s 0 (ofWord 0) ∧ (tQueue Tq.reset).released (.bar (barKey 0 2 0 15)) = none ∧
    (tQueue Tq.reset).scopeSize 0 2 0 = 4 ∧
    ((tQueue Tq.reset).modMe fun x => { x with q := { x.q with block := some ⟨.bar (barKey 0 2 0 15), 90, true, some 99, false⟩ } }).released
      (.bar (barKey 0 2 0 15)) = some ⟨.bar (barKey 0 2 0 15), 90, true, some 99, false⟩ ∧
    (tQueue Tq.reset).vbase 0 = 5 ∧ (tQueue Tq.reset).vcnt 0 = 2 ∧
    (tAt (tBrd none)).vbase 0 ≤ 0 ∧ 0 < (tReg [(offPart 0, 0x1000000001)] (tAt (tBrd none))).vcnt 0 ∧ ∃ d, (tAt (tBrd none)).me.brd = some d ∧ d.issued < (tAt (tBrd none)).cyc :=
  ⟨rfl, rfl, by unfold State.Reads; decide +kernel, rfl, by decide, rfl, by decide, by decide, by decide, by decide, _, rfl, by decide⟩

theorem test_premises_engineRequests : tS.noBrd = .ok () ∧ tS.Reads .s 2 (ofWord 0x10000) ∧ tS.ownRw (0x10000 : Word).toNat 1280 256 = .ok 0x080000000000 ∧
    (∃ u, tS.claim 0 11 [offOf 0x080000000000] = .ok u ∧ u.poisonFlt 0x080000000000 256 = none) ∧ treeBad 0 = true ∧
    treeBad (BitVec.ofNat 2048 (0xFF + 2 ^ 512)) = false ∧ (BitVec.ofNat 2048 (0xFF + 2 ^ 512)).toNat < 2 ^ 1056 ∧
    tS.ownRw (0x10000 : Word).toNat 32 16 = .ok 0x080000000000 ∧ tS.ownRw (0x10000 : Word).toNat 64 64 = .ok 0x080000000000 ∧
    translate tS.me tS.iss.core .load (0x10000 : Word).toNat 32 32 false = .ok 0x080000000000 ∧
    (∃ u, tS.claim 0 tS.iss.slot [offOf 0x080000000000] = .ok u ∧ u.poisonFlt 0x080000000000 32 = none) ∧
    (∃ u, tS.claim 0 tS.iss.slot [offOf 0x080000000000, offOf 0x080000000000] = .ok u ∧ u.poisonFlt 0x080000000000 16 = none ∧
      u.poisonFlt 0x080000000000 64 = none) :=
  ⟨rfl, by unfold State.Reads; decide +kernel, okIs _ _ (by decide +kernel), ⟨_, rfl, rfl⟩, by decide +kernel, by decide +kernel,
    by decide +kernel, okIs _ _ (by decide +kernel), okIs _ _ (by decide +kernel), okIs _ _ (by decide +kernel), ⟨_, rfl, by decide⟩, ⟨_, rfl, by decide, by decide⟩⟩

/-- The host ring of partition 0 as given, and HRING's record with sequence 0 at position `p`. -/
def tRing (r : HRing) (p : Nat) : State := { tMem (p * 2 ^ 64) 32 (tSl tCtx) with rings := [(0, r)] }

theorem test_premises_hostRing : (tRing HRing.reset 0).noBrd = .ok () ∧ (tRing HRing.reset 0).rulePlace (.hring 2) = .ok () ∧
    (tRing HRing.reset 0).ownRw (0x10000 : Word).toNat 32 32 = .ok 0x080000000000 ∧
    (∃ u, (tRing HRing.reset 0).claim 0 0 [offOf 0x080000000000] = .ok u ∧ u.poisonFlt 0x080000000000 32 = none) ∧ (tRing HRing.reset 1).load 0x080000000000 32 / 2 ^ 64 % 2 ^ 32 = 1 ∧
    (tRing HRing.reset 0).load 0x080000000000 32 / 2 ^ 32 % 2 ^ 8 = 0 ∧ agetD ((tRing HRing.reset 0).hring 0).pos 0 0 = 0 ∧
    agetD ((tRing { HRing.reset with pos := [(0, 2)] } 1).hring 0).pos 0 0 = 2 ∧ ((tRing HRing.reset 0).hring 0).en = false ∧
    ((tRing { HRing.reset with en := true, size := 1, tail := 2 } 0).hring 0).tail = 2 ^ 1 ∧
    ((tRing { HRing.reset with en := true, size := 1, tail := 1 } 0).hring 0).en = true :=
  ⟨rfl, rfl, okIs _ _ (by decide +kernel), ⟨_, rfl, by decide⟩, by decide +kernel, by decide +kernel, by decide, by decide, by decide, by decide, by decide⟩

theorem test_premises_combines : (tSl tCtx).noBrd = .ok () ∧ (tSl tCtx).rulePlace (.combine true 2) = .ok () ∧ (tSl tCtx).me.q.block = none ∧
    (tSl tCtx).ownRw (0x10000 : Word).toNat 1280 256 = .ok 0x080000000000 ∧
    (∃ u, (tSl tCtx).claim 0 11 [offOf 0x080000000000] = .ok u ∧ u.poisonFlt 0x080000000000 768 = none) ∧
    (tSl tCtx).load 0x080000000000 256 = 0 ∧ aget (tSl tCtx).combs (combKey 0 (hdrGroup 0) (hdrPhase 0)) = none ∧ hdrIndex 0 < hdrN 0 ∧
    hdrN 0x100 ≤ hdrIndex 0x100 ∧ (⟨0, 2, 1, false, 90, none, 0, false, []⟩ : Combine).clash 0 = true ∧
    ((tSl tCtx).modMe fun x => { x with q := { x.q with block := some ⟨.combine 0 0, 90, true, some 3, false⟩ } }).me.q.block =
      some ⟨.combine 0 0, 90, true, some 3, false⟩ :=
  ⟨rfl, rfl, rfl, okIs _ _ (by decide +kernel), ⟨_, rfl, rfl⟩, by decide +kernel, by decide, by decide, by decide, by decide, rfl⟩

theorem test_premises_combines_reserved : aget (tSl tCtx).combs (combKey 0 (hdrGroup (2 ^ 18)) (hdrPhase (2 ^ 18))) = none ∧
    hdrIndex (2 ^ 18) < hdrN (2 ^ 18) ∧ bits (2 ^ 18) 31 18 ≠ 0 ∧ hdrIndex (2 ^ 96) < hdrN (2 ^ 96) ∧ bits (2 ^ 96) 1535 96 ≠ 0 := by decide +kernel

theorem test_premises_issueFrame : ((Instr.add .always false 1 2 3).cls.isSome = true ∨ Instr.add .always false 1 2 3 = .nop) ∧
    ∃ t, exec (.add .always false 1 2 3) tS = .next t := ⟨Or.inl rfl, _, rfl⟩

/-! ## Witnesses: events of the calendar -/

/-- A result in flight to a register, due now. -/
def tFl (c : RCls) (r ev : Nat) (dead : Bool) : Flight :=
  { id := 7, due := 100, cls := c, reg := r, pairs := [⟨Cube.tt, 9, ev, none⟩], w := Cube.tt, dead := dead, slot := 1, fpc := 0, iat := 98, sup := false }

/-- The usual context with results in flight. -/
def tFlight (f : Flight) (en : BitVec 6) : State := tAt { tCtx with fl := [f], ar := { tCtx.ar with en := en } }

theorem test_premises_resultsLand : ((tFlight (tFl .s 1 0 true) 0).ctx 0 0).fl.find? (·.id = 7) = some (tFl .s 1 0 true) ∧
    (tFl .s 1 0 true).dead = true ∧ ((tFlight (tFl .s 1 0 true) 0).ctx 0 0).behind 100 (tFl .s 1 0 true) = false ∧
    ((tAt { tCtx with fl := [{ tFl .s 1 0 false with id := 6 }, tFl .s 1 0 true] }).ctx 0 0).behind 100 (tFl .s 1 0 true) = true ∧
    ((tFlight (tFl .v 127 evDZ false) 0).ctx 0 0).behind 100 (tFl .v 127 evDZ false) = false ∧ (tFl .v 127 evDZ false).dead = false ∧ (tFl .v 127 evDZ false).w = Cube.tt ∧
    (tFl .v 127 evDZ false).pairs = [⟨Cube.tt, 9, evDZ, none⟩] ∧ (tFl .v 127 evDZ false).cls ∈ [RCls.s, .v, .m] ∧
    firstEv (evDZ &&& ((tFlight (tFl .v 127 evDZ false) 0).ctx 0 0).ar.en.toNat) = none ∧
    (∃ e, firstEv (evDZ &&& ((tFlight (tFl .v 127 evDZ false) 0x3F).ctx 0 0).ar.en.toNat) = some e) ∧
    ((tFlight (tFl .v 127 evDZ false) 0x3F).ctx 0 0).q.st = .holder ∧ ((tFlight (tFl .v 127 evDZ false) 0x3F).ctx 0 0).q.block = none ∧
    ((tFlight (tFl .v 127 evDZ false) 0x3F).ctx 0 0).fault = none ∧ ((tFlight (tFl .v 127 evDZ false) 0x3F).ctx 0 0).q.sup = false ∧
    (tFl .csr 0x10 0 false).cls = .csr ∧ (tFl .hnd 15 0 false).cls = .hnd :=
  ⟨rfl, rfl, by decide, by decide, by decide, rfl, rfl, rfl, by decide, by decide, ⟨_, rfl⟩, rfl, rfl, rfl, rfl, rfl, rfl⟩

theorem test_premises_resultsLand_astat : ((tFlight (tFl .csr 0x12 0 false) 0).ctx 0 0).behind 100 (tFl .csr 0x12 0 false) = false ∧
    (tFl .csr 0x12 0 false).cls = .csr ∧ (tFl .csr 0x12 0 false).reg = 0x012 ∧ (tFl .csr 0x12 0 false).dead = false ∧
    (tFl .csr 0x12 0 false).pairs = [⟨Cube.tt, 9, 0, none⟩] := ⟨by decide, rfl, rfl, rfl, rfl⟩

theorem test_premises_guardsLand : ∃ o, ((tLand.ctx 0 0).guard 1).opn = some o ∧ o.due = tLand.cyc := ⟨_, rfl, rfl⟩

/-- A store of kind `k` with the writes `w`, due now. -/
def tStore (k : SKind) (w : List Wr) (ep : Nat) : Store :=
  { id := 7, ctx := 0, slot := 6, fpc := 0, iat := 96, sup := false, ord := 0, due := 100, kind := k, ws := w, part := 0, task := 1, ep := ep, cube := Cube.tt }

/-- The core with that store on its way. -/
def tStores (t : Store) : State := tS.modCore 0 fun c => { c with stores := [t] }

theorem test_premises_storesPerform : (tStores (tStore .plain [⟨0x080000000000, 8, 5⟩] 0)).Inv ∧
    ((tStores (tStore .plain [⟨0x080000000000, 8, 5⟩] 0)).core 0).stores.find? (fun t => t.id = 7 && t.due = 100) =
      some (tStore .plain [⟨0x080000000000, 8, 5⟩] 0) ∧ (tStore .row [⟨0x080000000000, 256, 5⟩] 0).kind = .row ∧
    (tStore .tap [⟨0x080000000000, 256, 5⟩] 255).ep < 256 ∧ 256 = 64 * 4 ∧ 0x080000000000 % 64 = 0 ∧
    (∀ i < 4, isSpad (0x080000000000 + 64 * i) = true) ∧ (0 < 8 ∧ 0x080000000038 % 64 + 8 ≤ 64) ∧
    ((tStores (tStore .lazy [⟨0x080000000038, 8, 5⟩] 0)).core 0).lazy.length < 64 ∧
    ((tStores (tStore .control [⟨ctlBase + 0x400, 8, 64⟩] 0)).modCore 0 (fun c => c.pruneStores 100)).ctlRight 0
      (ctlBase + 0x400 - ctlBase) true = true ∧
    ((tStores (tStore .control [⟨ctlBase + offPart 1, 8, 0⟩] 0)).modCore 0 (fun c => c.pruneStores 100)).ctlRight 0
      (ctlBase + offPart 1 - ctlBase) true = false ∧
    (tStore .plain [⟨0x080000000000, 4, 5⟩, ⟨0x080000000000, 4, 6⟩, ⟨0x080000000100, 4, 7⟩] 0).ws =
      [⟨0x080000000000, 4, 5⟩] ++ ⟨0x080000000000, 4, 6⟩ :: [⟨0x080000000100, 4, 7⟩] ∧
    (∀ y ∈ [(⟨0x080000000100, 4, 7⟩ : Wr)], 0x080000000000 + 3 < y.addr ∨ y.addr + y.len ≤ 0x080000000000 + 3) := by
  unfold State.Inv; decide +kernel

/-- A released held store, due now. -/
def tHeld : Store := { tStore .plain [⟨0x080000000000, 8, 5⟩] 0 with cube := ⟨1, 1⟩ }

theorem test_premises_lateStoresPerform : tS.Inv ∧ ((tAt { tCtx with relq := [tStore .plain [⟨0x080000000000, 8, 5⟩] 0] }).ctx 0 0).relq =
      tStore .plain [⟨0x080000000000, 8, 5⟩] 0 :: [] ∧
    ((tStores tHeld).core 0).stores.find? (fun t => t.id = 7 && t.due = 100) = some tHeld ∧ tHeld.ws = [⟨0x080000000000, 8, 5⟩] ∧
    tHeld.kind = .plain ∧ ((tStores tHeld).core 0).meetsStore 100 tHeld = false ∧
    ((tS.modCore 0 fun c => { c with stores := [tHeld, { tStore .plain [⟨0x080000000100, 8, 5⟩] 0 with id := 8 }] }).core 0).meetsStore 100 tHeld = true ∧
    ((tS.modCore 0 fun c => { c with lazy := [⟨7, 0x080000000000 / 64, 1, 5, 0, 96, 96, 100⟩] }).core 0).lazy.find?
      (fun e => e.id = 7 && e.due = 100) = some ⟨7, 0x080000000000 / 64, 1, 5, 0, 96, 96, 100⟩ ∧
    ((tS.modCore 0 fun c => { c with lazy := [⟨7, 0x080000000000 / 64, 1, 5, 0, 96, 96, 100⟩] }).core 0).lazyBehind 100 0 = false := by
  unfold State.Inv; decide +kernel

/-- The released store, and an ordinary one of the context `k` in its bank and cycle. -/
def tHeldMeets (k : Nat) : State :=
  tS.modCore 0 fun c => { c with stores := [tHeld, { tStore .plain [⟨0x080000000100, 8, 5⟩] 0 with id := 8, ctx := k }] }

theorem test_premises_lateStoresPerform_conflicts :
    (((tHeldMeets 0).core 0).stores.filter fun w => w.ctx = 0 && !w.cube.isTrue && 100 ≤ w.due).head? = some tHeld ∧
    ((tHeldMeets 0).core 0).meetsStore 100 tHeld = true ∧ (∀ w ∈ ((tHeldMeets 0).core 0).stores, w.id = 7 → w = tHeld) ∧
    (tStores tHeld).heldMeets 0 tHeld = none ∧ ((tHeldMeets 1).core 0).meetsStore 100 tHeld = false ∧
    (∃ w, ((tHeldMeets 1).core 0).stores.find? (fun w =>
      w.ctx ≠ tHeld.ctx && w.due = 100 && w.meets tHeld && (w.cube.isTrue || decide (w.id < tHeld.id))) = some w) ∧
    ((tHeldMeets 1).ctx 0 0).q.st = .holder ∧ ((tHeldMeets 1).ctx 0 0).q.block = none ∧ ((tHeldMeets 1).ctx 0 0).fault = none ∧
    ((tHeldMeets 1).ctx 0 0).q.sup = false :=
  ⟨by decide +kernel, by decide +kernel, by decide +kernel, by decide +kernel, by decide +kernel, Option.isSome_iff_exists.mp (by decide +kernel),
    rfl, rfl, rfl, rfl⟩

/-- The fault of a bundle that is waiting for its quiet point. -/
def tFault (sup : Bool) : Ctx := let x := if sup then tSup else tCtx; { x with fault := some ((tAt x).mkTrap 0x0C 0 0 0) }

theorem test_premises_faultsTaken : ((tAt (tFault false)).ctx 0 0).fault = some ((tAt tCtx).mkTrap 0x0C 0 0 0) ∧
    ((tAt (tFault false)).ctx 0 0).quietAt 100 = 100 ∧
    (tAt (tFault false)).stopsAt ((tAt (tFault false)).ctx 0 0) ((tAt tCtx).mkTrap 0x0C 0 0 0) = false ∧
    ((tAt (tFault true)).ctx 0 0).quietAt 100 = 100 ∧
    (tAt (tFault true)).stopsAt ((tAt (tFault true)).ctx 0 0) ((tAt tSup).mkTrap 0x0C 0 0 0) = true := by decide +kernel

theorem test_premises_switchesAndWaits : ((tTwo.modCore 0 fun c => { c with switchTo := some 1 }).core 0).switchTo = some 1 ∧ (tTwo.ctx 0 1).q.st = .ready ∧ (tTwo.ctx 0 1).pendF = [] ∧
    ((tAt { tCtx with q := { tCtx.q with st := .waiting, wait := some ⟨100, false⟩ } }).ctx 0 0).q.wait = some ⟨100, false⟩ :=
  ⟨rfl, rfl, rfl, rfl⟩

theorem test_premises_blockReleased : (∃ b, ((tAt { tCtx with q := { tCtx.q with st := .blocked, block := some ⟨.hring 3, 90, false, none, false⟩ } }).ctx 0 0).q.block = some b ∧
    b.kind = .hring 3) ∧ (tAt { tCtx with q := { tCtx.q with st := .blocked, block := some ⟨.hring 3, 90, false, none, false⟩ } }).holds 0 0 = true :=
  ⟨⟨_, rfl, rfl⟩, by decide⟩

/-- The usual state with every queue of die 0 held by partition 0. -/
def tHolds : State := { tS with ctl := [(offPart 0 + 0xC0, 0xFFFFFFFFFFFFFFFF)] }

/-- A copy of 64 bytes. -/
def tCopy (src dst start : Nat) : CopyEnt :=
  { id := 7, seq := 3, ctx := 0, slot := 6, fpc := 0, iat := 90, sup := false, part := 0, task := 1, start := start, arrive := 200,
    src := src, dst := dst, len := 64, tag := 5, data := 9, poison := [0], left := 1, back := 0, logged := false }

/-- The core with that copy in its buffer. -/
def tCopies (e : CopyEnt) : State := tS.modCore 0 fun c => { c with copies := [e] }

/-- Partition 1 has come to hold cores 0 and 1. -/
def tTaken : State := { tS with ctl := [(offPart 1 + 0x40, 3)] }

theorem test_premises_copiesPerform : (tCopies (tCopy 0x080000000000 0x080000400000 100)).Inv ∧
    ((tCopies (tCopy 0x080000000000 0x080000400000 100)).core 0).copy? 7 = some (tCopy 0x080000000000 0x080000400000 100) ∧
    isOuter (regionOf 0x080000000000) = false ∧ isTq (regionOf 0x080000400000) = false ∧ isOuter (regionOf 0x200001000000) = true ∧
    64 = 64 * 1 ∧ 0x080000400000 % 64 = 0 ∧ regionOf 0x080200005000 = .tq 5 ∧ tHolds.zeroing 2 5 = false ∧ tHolds.holdsTq 0 5 = true ∧ (tHolds.tq 5).taken < 64 ∧
    (tHolds.tq 5).recvs = [] ∧ tS.holdsTq 0 5 = false ∧ (tCopy 0x200001000000 0x080200005000 99).start < 100 ∧ 0 + (tCopy 0x200001000000 0x080200005000 99).left = 64 / 64 ∧
    0 = (tCopy 0x200001000000 0x080200005000 99).back ∧ (tCopies (tCopy 0x200001000000 0x080200005000 99)).wait = [] ∧
    (tCopies (tCopy 0x080000000000 0x200001000000 99)).mustWait (outTarget 0x200001000000) [99, 0, 0, 0] = false ∧
    ({ tCopies (tCopy 0x080000000000 0x200001000000 99) with
      wait := [⟨100, [99, 0, 0, 0], outTarget 0x200001000000, none, .msix 0⟩] } : State).mustWait (outTarget 0x200001000000) [99, 0, 1, 0] = true ∧
    podQueue 0x080000000000 = none ∧ (podQueue 0x200200005000).isSome = true ∧ tS.foreign 0 0x080000000000 64 = false ∧
    tTaken.foreign 0 0x080000000000 64 = true ∧ tTaken.foreign 0 0x080000400000 64 = true ∧
    regionOf (0x080100200000 + 64 - 1) = .ring 1 ∧ regionOf 0x080000000000 = .spad 0 := by
  unfold State.Inv; decide +kernel

/-- Another context becomes Ready beside a holder that issues, and beside one that waits. -/
theorem test_premises_holderKeepsCore : (tS.ctx 0 (tS.core 0).holder).q.st = .holder ∧ 1 ≠ (tS.core 0).holder ∧
    ((tAt { tCtx with q := { tCtx.q with st := .waiting } }).ctx 0 0).q.st = .waiting := by decide

theorem test_premises_copiesPerform_crosses : isOuter (regionOf 0x200000FFFFC0) = true ∧ 0x200000FFFFC0 % 64 = 0 ∧
    (if regionOf 0x200000FFFFC0 = .host then 128 else min 128 (2 ^ 24 - 0x200000FFFFC0 % 2 ^ 24)) = 64 ∧
    (if regionOf 0x200001000000 = .host then 64 else min 64 (2 ^ 24 - 0x200001000000 % 2 ^ 24)) = 64 := by decide

/-- An atomic on its way. -/
def tAtom (a : Nat) : AtomFl :=
  { id := 7, seq := 3, ctx := 0, slot := 6, fpc := 0, iat := 96, sup := false, part := 0, task := 1, op := 0, wide := true, sd := 1, addr := a, b := 5,
    cmp := 0, rq := 5, due := 100, host := isOuter (regionOf a) }

/-- The core with that atomic. -/
def tAtoms (f : AtomFl) : State := tS.modCore 0 fun c => { c with atoms := [f] }

theorem test_premises_atomicsPerform : (tAtoms (tAtom 0x080000000000)).Inv ∧
    ((tAtoms (tAtom 0x080000000000)).core 0).atoms.find? (·.id = 7) = some (tAtom 0x080000000000) ∧
    (tAtoms (tAtom 0x080000000000)).poisoned 0x080000000000 8 = false ∧
    ({ tAtoms (tAtom 0x080000000000) with pois := [granOf 0x080000000000] } : State).poisoned 0x080000000000 8 = true ∧
    ((tAtoms (tAtom 0x200001000000)).core 0).atoms.find? (fun f => f.id = 7 && isOuter (regionOf f.addr)) = some (tAtom 0x200001000000) ∧
    tHolds.zeroing 2 5 = false ∧ tHolds.holdsTq 0 5 = true ∧ (tHolds.tq 5).taken < 64 ∧ (tHolds.tq 5).recvs = [] ∧
    tS.holdsTq 0 5 = false ∧
    (∃ o ∈ ({ tS with wait := [⟨100, [(tAtom 0).iat + 4, 0, 1, 0], 0, none, .msix 0⟩] } : State).wait, o.key = [(tAtom 0).iat + 4, 0, 1, 0]) ∧
    tS.wait = [] ∧ (0xFFFFFFFF : Nat) < 2 ^ 32 ∧ (0xFFFFFFFFFFFFFFFF : Nat) < 2 ^ 64 := by unfold State.Inv; decide +kernel

theorem test_premises_bindsComplete : ((tAt { tCtx with bind := some ⟨15, 100, some tWin, none⟩ }).ctx 0 0).bind = some ⟨15, 100, some tWin, none⟩ ∧
    ((tAt { tCtx with bind := some ⟨15, 100, none, some ((tAt tCtx).mkTrap 0x0A 2 15 0)⟩ }).ctx 0 0).bind =
      some ⟨15, 100, none, some ((tAt tCtx).mkTrap 0x0A 2 15 0)⟩ ∧ tCtx.q.st = .holder ∧ tCtx.fault = none ∧ tCtx.q.block = none ∧ tCtx.q.sup = false :=
  ⟨rfl, rfl, rfl, rfl, rfl, rfl⟩

/-- A save of context 0 whose payload begins in cycle `start` and whose header is due at `header`. -/
def tSave (start header : Nat) (slot : Option (Nat × Nat)) : Save :=
  { id := 7, ctx := 0, kind := 1, iat := 90, from_ := 91, start := start, header := header, slot := slot, pay := ⟨tCtx, 32, 1⟩, mat := none,
    mlen := 0 }

/-- Queue 5 with a change made at `at_` and its state slots. -/
def tChanged (at_ : Nat) (recs : Assoc QRec) : State :=
  ((tS.modDie 0 fun d => { d with tqs := [(5, { Tq.reset with chg := [⟨7, at_, [⟨3, 8, false, none⟩], [], 2, 0, [3], true⟩] })] }).modCore 5
    fun c => { c with neg := { c.neg with qrecs := recs } })

theorem test_premises_persistsComplete :
    ((tS.modCore 0 fun c => { c with flushes := [⟨7, 80, 100, [(0, 1, 2, false), (1, 1, 2, false)]⟩] }).core 0).flushes.find? (·.id = 7) =
      some ⟨7, 80, 100, [(0, 1, 2, false), (1, 1, 2, false)]⟩ ∧
    ((tS.modCore 0 fun c => { c with saves := [tSave 100 140 none] }).core 0).saves.find? (·.id = 7) = some (tSave 100 140 none) ∧
    ((tS.modCore 0 fun c => { c with saves := [tSave 100 140 none] }).core 0).recSlot 0 = (0, 1) ∧ (tSave 100 140 none).start ≠ 91 ∧
    ((tS.modCore 0 fun c => { c with saves := [tSave 54 100 (some (0, 1))] }).core 0).saves.find? (·.id = 7) = some (tSave 54 100 (some (0, 1))) ∧
    (∀ n ∈ [99, 69, 68], ((tChanged n []).tq 5).chg.find? (·.id = 7) = some ⟨7, n, [⟨3, 8, false, none⟩], [], 2, 0, [3], true⟩) ∧
    tS.cyc = 99 + 1 ∧ tS.cyc = 69 + 31 ∧ tS.cyc ≠ 68 + 1 ∧ tS.cyc ≠ 68 + 31 ∧
    aget ((tChanged 69 [(0, ⟨1, 0, 0, 0, 0, 0, 0, 0, true⟩), (1, ⟨1, 0, 0, 0, 0, 0, 0, 0, false⟩)]).core 5).neg.qrecs
      ((tChanged 69 [(0, ⟨1, 0, 0, 0, 0, 0, 0, 0, true⟩), (1, ⟨1, 0, 0, 0, 0, 0, 0, 0, false⟩)]).core 5).neg.qSlot.1 =
      some ⟨1, 0, 0, 0, 0, 0, 0, 0, true⟩ ∧
    ((tChanged 99 [(0, ⟨1, 0, 3, 64, 0, 64, 0, 0, false⟩)]).core 5).neg.qNewest = some ⟨1, 0, 3, 64, 0, 64, 0, 0, false⟩ ∧
    ((tChanged 99 [(0, ⟨1, 0, 3, 63, 0, 0, 0, 0, false⟩)]).core 5).neg.qNewest = some ⟨1, 0, 3, 63, 0, 0, 0, 0, false⟩ ∧
    (∀ j < 63, (3 + j) % 64 ≠ (2 + 0) % 64) ∧ (tReg [(offSvc, 0x402)] tS).negReady = true ∧ (tReg [(offSvc, 2)] tS).negReady = false := by decide +kernel

/-! ## Witnesses: loaded values, held stores, pops, translation, landings under takes -/

theorem test_premises_loadedValues : tS.Inv ∧ regionOf 0x080000000000 ≠ .ctl ∧ regionOf (ctlBase + 0x180) = .ctl ∧
    tS.ctlRead tS.me.q.part (ctlBase + 0x180 - ctlBase) = some 0 ∧ tS.ctlRead tS.me.q.part (ctlBase + 0x100 - ctlBase) = none ∧
    regionOf (ctlBase + 0x100) = .ctl := by unfold State.Inv; decide +kernel

/-- A store that waits, and sixteen deferred entries. -/
def tWaits : Store := { tStore .plain [⟨0x080000000000, 8, 5⟩] 0 with cube := ⟨1, 1⟩ }
def tOpenCtx (held : List Store) (d : List Deferred) : State :=
  tAt { tCtx with g := [(1, ⟨false, some ⟨99, 103, .value, [⟨some true, 0, false⟩]⟩⟩)], held := held, defer := d }

theorem test_premises_storesHeld : (tOpenCtx [] []).wlit ⟨false, 1⟩ = some (Cube.lit 1 false) ∧ (Cube.lit 1 false).isTrue = false ∧
    (tOpenCtx [] []).me.heldCount < 8 ∧ (tOpenCtx (List.replicate 8 tWaits) []).me.heldCount = 8 ∧
    (tOpenCtx [] []).reachA .store (((0x10000 : Word).toNat : Int) + 1 * (8 : Nat)) 8 true = .ok 0x080000000008 ∧
    (∃ e, (tOpenCtx [] []).reachA .store (((5 : Word).toNat : Int) + 0 * (1 : Nat)) 1 false = .error e) ∧
    ((tOpenCtx [] []).me.deferAdd (Cube.lit 1 false) 0 (some (tS.mkTrap 0x0A 0 16 5))).isSome = true ∧
    (tOpenCtx [] (List.replicate 16 ⟨⟨1, 1⟩, 0, some (tS.mkTrap 0x0A 0 16 5), false, false⟩)).me.deferAdd (Cube.lit 1 false) 0
      (some (tS.mkTrap 0x0A 0 16 5)) = none :=
  ⟨by decide, by decide, by decide, by decide, rfl, ⟨_, rfl⟩, by decide, by decide⟩

/-- Port 3 of the usual context with a parameter set. -/
def tPops (ps : PortSet) (at_ pos : Nat) (check : Option Nat) : State :=
  tAt { tCtx with ports := [(3, { set := some ps, at_ := at_, pos := pos, check := check, refetch := false })] }
def tSet (base : Nat) (hv : Bool) (r : Option (BitVec 512)) : PortSet := ⟨base, hv, 0, r, [2, 1, 1, 1], [256, 0, 0, 0]⟩
/-- Two rows of 512 elements from offset 0 on, block scales in rows from 0x100000 on. -/
def tHrec : BitVec 512 := BitVec.ofNat 512 (2 * 2 ^ 32 + 256 * 2 ^ 64 + 2 ^ 100 + 0x100000 * 2 ^ 128 + 64 * 2 ^ 160)

theorem test_premises_portsPop : agetD (tS.ctx 0 0).ports 3 Port.reset = ⟨none, 0, 0, none, false⟩ ∧
    (tPops (tSet 0x3FFE00 false none) 93 1 none).cyc < 93 + 8 ∧ (tSet 0x3FFE00 false none).total ≤ 2 ∧ 92 + 8 ≤ 100 ∧
    1 < (tSet 0x3FFE00 false none).total ∧ walkOf [2, 1, 1, 1] [256, 0, 0, 0] 1 = 256 ∧
    (0x3FFE00 : Int) + 256 ≤ 0x400000 - 256 ∧ 0x400000 - 256 < (0x3FFF00 : Int) + 256 ∧
    (∃ u, (tPops (tSet 0x3FFE00 false none) 92 1 none).claimPop 0 0 (some 0x3FFF00) none = .ok u ∧ u.poisonFlt (spad 0 + 0x3FFF00) 256 = none) ∧
    (∃ u, (tPops (tSet 0 true (some tHrec)) 92 1 (some 0)).claimPop 0 5 (some 256) (some (0x100000 + 64)) = .ok u ∧
      u.poisonFlt (spad 0 + 256) 256 = none ∧ u.poisonFlt (spad 0 + (0x100000 + 64)) (fmtBlocks 0) = none ∧ u.tag (granOf (spad 0 + 256)) = 0) ∧
    (recRows tHrec = 2 ∧ recEStride tHrec = 256 ∧ recSMode tHrec = 1 ∧ recSBase tHrec = 0x100000 ∧ recSStride tHrec = 64 ∧ recFmt tHrec = 0) ∧
    (tPops (tSet 0 false none) 92 1 (some 5)).tag 0 ≠ 5 ∧
    (∃ e, (tS.addReqs 0 5 [(0, 9)]).claimPop 0 0 (some 0) none = .error e) ∧ ((2 : Nat) : Int) ≤ 2 ∧ portSet tS.me 0 ≠ none := by
  refine ⟨rfl, by decide, by decide, by decide, by decide, by decide, by decide, by decide, ⟨_, rfl, by decide +kernel⟩,
    ⟨_, rfl, by decide +kernel, by decide +kernel, by decide +kernel⟩, by decide +kernel, by decide +kernel, ⟨_, rfl⟩, by decide, by decide +kernel⟩

theorem test_premises_windowsTranslate : tCtx.win.Pairwise (fun p q => p.1 < q.1) ∧ (0, tWin) ∈ tCtx.win ∧
    (tWin.vbase : Int) ≤ 0x1FFFF ∧ (0x1FFFF : Int) < tWin.vbase + tWin.size ∧ (∀ p ∈ tCtx.win, ¬ p.1 < 0) ∧
    (∀ p ∈ tCtx.win, ¬ ((p.2.vbase : Int) ≤ 0x20000 ∧ (0x20000 : Int) < p.2.vbase + p.2.size)) := by decide

/-- A page table of partition 0 that maps the addresses from 0x10000 on to scratchpad 0, which the partition holds, and a descriptor there. -/
def tWalk : State := { tS with
  ctl := [(offPart 0 + 0x40, 1), (offPart 0 + 0x140, 0x100400000), (0x400000, 0x10000), (0x400008, 0x7080000000000)]
  mem := [(0x080000000002, 0x01), (0x080000000009, 0x01), (0x08000000000D, 0x01)] }

theorem test_premises_bindsWalk : tWalk.walk 0 0x10000 32 0 false = some 0x080000000000 ∧ ptesOk 0 (tWalk.ptes 0) = true ∧
    tWalk.ptes 0 = [0x7080000000000 * 2 ^ 64 + 0x10000] ∧ pteGrants 0 false (0x7080000000000 * 2 ^ 64 + 0x10000) = true ∧
    tWalk.holdsRange 0 0x080000000000 32 false = true ∧ tWalk.walk 0 0x20000 32 0 false = none ∧
    tWalk.withMirror.walk 0 0x10000 32 0 false = some 0x080000000000 ∧
    tWalk.withMirror.load 0x080000000000 32 = 0x10000 + 0x100 * 2 ^ 64 + 2 ^ 104 ∧
    tWalk.withMirror.walk 0 0x10000 0x100 1 false = some 0x080000000000 ∧ tWalk.withMirror.walk 0 0x20000 0x40 0 false = none := by
  decide +kernel

/-- A result of two takes under an open guard, one with a trap. -/
def tPairs (w : Cube) (ps : List Pair) : Flight := { tFl .s 1 0 false with pairs := ps, w := w }

theorem test_premises_resultsLandTakes : ((tFlight (tPairs (Cube.lit 1 false) [⟨Cube.tt, 9, 0, none⟩]) 0).ctx 0 0).fl.find? (·.id = 7) =
      some (tPairs (Cube.lit 1 false) [⟨Cube.tt, 9, 0, none⟩]) ∧ (tPairs Cube.tt []).cls ∈ [RCls.s, .v, .m] ∧
    ((tFlight (tPairs Cube.tt []) 0).ctx 0 0).behind 100 (tPairs Cube.tt []) = false ∧
    (landWrite (oneTake 0) [(Cube.lit 1 false, 9)] (Cube.lit 1 false)).length = 2 ∧
    4 < (landWrite (oneTake 0) [(⟨31, 31⟩, 9)] ⟨31, 31⟩).length ∧
    (tPairs Cube.tt [⟨Cube.tt, 9, evDZ, some (tS.mkTrap 0x0D 1 1 0)⟩]).pairs = [⟨Cube.tt, 9, evDZ, some (tS.mkTrap 0x0D 1 1 0)⟩] ∧
    (tS.ctx 0 0).q.st = .holder ∧ (tS.ctx 0 0).q.block = none ∧ (tS.ctx 0 0).fault = none ∧ (tS.ctx 0 0).q.sup = false ∧
    ((tS.ctx 0 0).deferAll [(Cube.lit 1 false, 0, some (tS.mkTrap 0x0C 0 0 0))]).isSome = true ∧
    (tOpenCtx [] (List.replicate 16 ⟨⟨1, 1⟩, 0, some (tS.mkTrap 0x0A 0 16 5), false, false⟩)).me.deferAll
      [(Cube.lit 1 false, 0, some (tS.mkTrap 0x0C 0 0 0))] = none ∧
    (∀ p ∈ [(⟨.s, 1, Cube.tt⟩ : RegPoison)], p.cube.val &&& ~~~ p.cube.care = 0) ∧
    ((Cube.lit 1 false).val &&& ~~~ (Cube.lit 1 false).care = 0) ∧ ((Cube.lit 15 true).val &&& ~~~ (Cube.lit 15 true).care = 0) ∧ ((0 : BitVec 15) &&& (Cube.lit 15 true).care = (Cube.lit 15 true).val) := by
  decide +kernel

/-- Guard 1 lands true in this cycle, with a store held under it, or a deferred trap. -/
def tSettles (held : List Store) (d : List Deferred) : Ctx :=
  { tCtx with g := [(1, ⟨false, some ⟨99, 100, .value, [⟨some true, 0, false⟩]⟩⟩)], held := held, defer := d }
def tLate (k : Cube) (t : Option Trap) : Deferred := ⟨k, evDZ, t, false, false⟩

theorem test_premises_landingsResolve : ((tSettles [] []).guard 1).opn = some ⟨99, 100, .value, [⟨some true, 0, false⟩]⟩ ∧
    (((tSettles [] []).landGuard 100 1).g.all fun p => p.2.opn.all fun q => q.due != 100) = true ∧ (tSettles [] []).fl = [] ∧
    (⟨99, 100, .value, [⟨some true, 0, false⟩]⟩ : GOpen).value = true ∧ (tWaits.cube.land 1 true = some Cube.tt) ∧
    (({ tWaits with cube := Cube.lit 1 true } : Store).cube.land 1 true = none) ∧
    (({ tWaits with cube := ⟨3, 3⟩ } : Store).cube.land 1 true = some ⟨2, 2⟩) ∧ (⟨2, 2⟩ : Cube).isTrue = false ∧
    (tLate (Cube.lit 1 false) none).cube.isTrue = false ∧ (tLate (Cube.lit 1 false) none).cube.land 1 true = some Cube.tt ∧
    (tLate (Cube.lit 1 true) none).cube.land 1 true = none ∧ (tSettles [] []).q.st = .holder ∧ (tSettles [] []).fault = none ∧
    (tSettles [] []).relq = [] := by
  decide

/-! ## Witnesses: the work of the matrix array -/

/-- A pass of four rows from port 0. -/
def tPass (g : Bool) : Pass :=
  { id := 7, grad := g, ctx := 0, slot := 2, fpc := 0, iat := 90, sup := false, c4 := false, port := 0, tile := 7, init := true, n := 4, live := 4,
    bank := 0, tags := 0, x0 := 100, r0 := 0, pops := [] }

/-- A row of it that lands now. -/
def tRowFl : RowFl := ⟨7, 3, 100, 7, true, 4, 0, 0, Copy.reset, false⟩

/-- The array streams: its pass, its landing row, its fill, its drain and its new tree; port 0 has four rows of format 4 and bank 0 expert 0. -/
def tStream (g : Bool) : State :=
  ((tPort (4 * 2 ^ 96 + 4 * 2 ^ 32)).modDie 0 fun d => { d with slots := [(0, ⟨0, 1, true, 0⟩)] }).modArr 0 fun a => { a with
    banks := [(0, { Bank.reset with act := { Copy.reset with fmt := some 4, valid := true } })], passes := [tPass g], rows := [tRowFl],
    fill := some ⟨8, 3, 0, 2, 0, 90, false, 0, 4, [], []⟩, treeNew := [(9, Tree.reset)],
    drains := [⟨10, 0, 2, 0, 90, false, false, 3, 7, false, false, false, 0x080000000000, 256, 0, [], [(1023, ⟨5, 1⟩)], 1122⟩] }

theorem test_premises_rowsEnterAndLand : (tStream false).cyc = 100 ∧ ((tStream false).core 0).arr.passes.find? (·.id = 7) = some (tPass false) ∧
    (tPass false).grad = false ∧ (∃ p, (tStream false).enterRow 0 (tPass false) 0 = .ok p) ∧ (0 : Nat) + 1 < (tPass false).live ∧
    (∃ e, tS.enterRow 0 (tPass false) 3 = .error e) ∧ ((tStream true).core 0).arr.passes.find? (·.id = 7) = some (tPass true) ∧
    (tPass true).grad = true ∧ (∃ p, (tStream true).pop 0 0 0 8 true = .ok p) ∧ 2 * (tPass true).n ≤ 7 + 1 ∧
    ((tStream false).core 0).arr.rows.find? (fun r => r.id = 7 && r.row = 3) = some tRowFl ∧ (tPass true).gradPairs = [] ∧
    ({ tPass true with pops := [(0, 0), (0, 0)] } : Pass).gradPairs ≠ [] := by
  refine ⟨rfl, rfl, rfl, okOf _ (by decide +kernel), by decide, ⟨_, rfl⟩, rfl, rfl, okOf _ (by decide +kernel), by decide, by decide +kernel,
    by decide +kernel, by decide +kernel⟩

theorem test_premises_fillsAndTreesApply :
    ((tStream false).core 0).arr.fill.filter (·.id = 8) = some ⟨8, 3, 0, 2, 0, 90, false, 0, 4, [], []⟩ ∧
    (∃ p, (tStream false).pop 0 0 0 9 true = .ok p) ∧ (∃ e, tS.pop 0 0 0 9 true = .error e) ∧
    ((tStream false).core 0).arr.treeNew.find? (·.1 = 9) = some (9, Tree.reset) ∧ (255 : Nat) = 255 :=
  ⟨by decide +kernel, okOf _ (by decide +kernel), ⟨_, rfl⟩, by decide +kernel, rfl⟩

theorem test_premises_drainsEmit : (∃ d, ((tStream false).core 0).arr.drains.find? (·.id = 10) = some d ∧ aget d.segs 1023 = some ⟨5, 1⟩ ∧
      (d.topk = false ∧ d.scale = false ∧ d.tree = false) ∧ 254 + 1 < d.n ∧
      (agetD ((tStream false).core 0).arr.oq d.oq []).length < 256 ∧
      (∃ u, (tStream false).claimArr 0 10 (offOf (d.sbase + 256 * 3)) = .ok u) ∧ (tStream false).poisonFlt (d.sbase + 256 * 3) 256 = none) ∧
    (∃ e, (tS.addReqs 0 5 [(0, 9)]).claimArr 0 10 (offOf (0x080000000000 + 256 * 0)) = .error e) ∧
    (∃ u, (tS.addReqs 0 13 [(0, 9)]).claimArr 0 10 (offOf (0x080000000000 + 256 * 0)) = .ok u) ∧
    (∃ e, ({ tStream false with pois := [granOf (0x080000000000 + 256 * 3 + 192)] } : State).poisonFlt (0x080000000000 + 256 * 3) 256 =
      some e) ∧ ((tStream false).ctx 0 0).q.st = .holder ∧ ((tStream false).ctx 0 0).fault = none :=
  ⟨⟨_, rfl, by decide +kernel, ⟨rfl, rfl, rfl⟩, by decide, by decide, ⟨_, rfl⟩, by decide⟩, ⟨_, rfl⟩, ⟨_, rfl⟩,
    Option.isSome_iff_exists.mp (by decide +kernel), by decide, by decide⟩

/-! ## Witnesses: queues, barriers, engines -/

/-- Queue 5 of die 0 as given. -/
def tTq (r : Tq) : State := tS.modDie 0 fun d => { d with tqs := [(5, r)] }

theorem test_premises_queuesServe :
    ((tTq { Tq.reset with sent := [⟨7, 5, false, 90, 0, 0, none⟩] }).tq 5).sent.find? (·.id = 7) = some ⟨7, 5, false, 90, 0, 0, none⟩ ∧
    ((tTq { Tq.reset with sent := [⟨7, 5, false, 90, 0, 0, none⟩] }).tq 5).recvs = [] ∧
    ((tTq { Tq.reset with recvs := [(2047, 90)], ents := [⟨3, 8, false, some 4⟩] }).tq 5).recvs = (2047, 90) :: [] ∧
    (∀ x ∈ ((tTq { Tq.reset with recvs := [(2047, 90)], ents := [⟨3, 8, false, some 4⟩] }).tq 5).ents, x.id ≠ 7 ∧ x.resv ≠ none) ∧
    ((tTq Tq.reset).tq 5).sends = [] ∧ ((tTq Tq.reset).tq 5).hold = [] ∧ ((tTq { Tq.reset with sends := [(0, 90)] }).tq 5).sends = (0, 90) :: [] ∧ ({ tTq Tq.reset with zero := [⟨2, 5, 99, 135⟩] } : State).zeroing 2 5 = true ∧
    (tTq Tq.reset).zeroing 2 5 = false ∧
    ((tTq { Tq.reset with hold := [⟨7, 5, false, 90, 0, 0, none⟩] }).tq 5).hold = ⟨7, 5, false, 90, 0, 0, none⟩ :: [] := by decide +kernel

/-- Barrier 15 of quad 0 in partition 0, held by it, as given, and a POISONARR write that names it. -/
def tBar (b : Barrier) : State :=
  { tReg [(offPart 0, 0x1005000001), (offPart 0 + 0x40, 0xF)] tS with
    bars := [(barKey 0 2 0 15, b)], cw := ⟨0, 0, 0xB080, 2 + 15 * 2 ^ 13, true, 8⟩ }

theorem test_premises_barriersRelease :
    (agetD (tBar { Barrier.reset with rel := [(100, [0, 5], true)] }).bars (barKey 0 2 0 15) Barrier.reset).rel.filter (fun r => r.1 = 100) =
      [(100, [0, 5], true)] ∧
    (tBar Barrier.reset).holdsScope 0 2 0 = true ∧ (tBar Barrier.reset).cw.off = 0xB080 + 8 * 0 ∧
    (tBar Barrier.reset).cw.val = 2 + 0 * 2 ^ 4 + 15 * 2 ^ 13 ∧
    (⟨3, [0], 0, []⟩ : Barrier).isOpen = true ∧ (⟨3, [0], 0, []⟩ : Barrier).arr.length + 0 + 1 < 3 ∧
    (⟨2, [0], 0, []⟩ : Barrier).n = (⟨2, [0], 0, []⟩ : Barrier).arr.length + 0 + 1 ∧ Barrier.reset.isOpen = false ∧
    tS.holdsScope 0 2 0 = false := by decide +kernel

/-- A request of an engine on its way. -/
def tJob (rows : List Vec) (poison : Bool) : Job :=
  { id := 7, ctx := 0, slot := 4, fpc := 0, iat := 90, sup := false, part := 0, reg := 1, rel := true, a := 0x080000000000, b := 5, rows := rows,
    poison := poison, sub := 0 }
def tJobs (rows : List Vec) (poison : Bool) : State := tS.modCore 0 fun c => { c with jobs := [tJob rows poison] }

theorem test_premises_barriersRelease_pod : phOut ≤ ({ tS with ph := phOut } : State).ph ∧ tS.ph < phOut := by decide

theorem test_premises_enginesComplete : (tJobs [0, 0, 0] false).Inv ∧ ((tJobs [0, 0, 0] false).core 0).job? 7 = some (tJob [0, 0, 0] false) ∧
    (∃ u, (tJobs [0, 0] false).claimArr 0 11 (offOf (0x080000000000 + 256 * 2)) = .ok u) ∧ (tJob [0, 0, 0] false).poison = false ∧
    (tJob [0, 0, 0] false).a % 64 = 0 ∧ ((tJobs [] true).core 0).job? 7 = some (tJob [] true) ∧ (tJob [] true).poison = true :=
  ⟨by unfold State.Inv; decide +kernel, by decide +kernel, ⟨_, rfl⟩, rfl, by decide, by decide +kernel, rfl⟩

/-- A post of partition 0's ring on its way. -/
def tPost (exit : Bool) : Post := ⟨7, 0, 5, 100, exit⟩

theorem test_premises_ringSlotsDepart :
    (({ tS with rings := [(0, { HRing.reset with posts := [tPost false], unsig := 0 })] } : State).hring 0).posts.find? (·.id = 7) = some (tPost false) ∧
    (({ tS with rings := [(0, { HRing.reset with posts := [tPost true], unsig := 31, now := true })] } : State).hring 0).posts.find? (·.id = 7) =
      some (tPost true) ∧ 0 < ({ HRing.reset with unsig := 31, now := true } : HRing).unsig ∧
    ({ HRing.reset with unsig := 31, now := true } : HRing).now = true ∧ HRing.reset.unsig = 0 ∧
    ({ tS with cyc := 52600 } : State).cyc = 100 + 52500 ∧ HRing.reset.now = false ∧ tS.cyc ≠ 101 + 52500 := by decide

/-- An arrival of context 0 of core 0 with index 3, and its phase. -/
def tArrival (rows : List Vec) : CArr := ⟨0, 3, rows, 0, false, false, 0, false, false, false⟩
def tPhase (closed : Option Nat) (rows : List Vec) : Combine := ⟨0, 4, 1, false, 100, closed, 100, false, [tArrival rows]⟩

/-- Partition 0 with that phase open in group 15, and a POISONARR write for index 0 of it, at the cycle given. -/
def tComb (cyc : Nat) (closed : Option Nat) (rows : List Vec) (v : Nat) : State :=
  { tAt { tCtx with q := { tCtx.q with st := .blocked, block := some ⟨.combine (combKey 0 15 0) 0, 90, false, none, false⟩ } } with
    cyc := cyc, combs := [(combKey 0 15 0, tPhase closed rows)], cw := ⟨0, 0, 0xB080, v, true, 8⟩ }

theorem test_premises_combinesRelease : aget (tComb 100 none [] 0).combs (combKey 0 15 0) = some (tPhase none []) ∧
    ((tComb 100 none [] 0).core 0).jobs.find? (fun j => j.ctx = 0 && j.reg = 64) = none ∧ (tComb 100 none [] 0).combOf 0 0 = some (combKey 0 15 0, tPhase none [], tArrival []) ∧
    (∃ u, (tComb 100 none [] 0).claimArr 0 11 (offOf (spad 0 + 0 + 256 * 2)) = .ok u) ∧
    (tPhase none []).closed = none ∧ (tComb 16852 none [] 0).cyc = (tPhase none []).a0 + 16752 ∧ (tPhase (some 52) []).closed.isSome = true ∧
    (tPhase (some 52) [0, 0]).rel = (tComb 100 (some 52) [0, 0] 0).cyc ∧ (((tPhase (some 52) [0, 0]).arrs.filter fun a => decide (a.who < 2048)).map (·.who)).Nodup ∧
    (∃ x ∈ (tPhase (some 52) [0, 0]).arrs, x.who < 2048) ∧ (tArrival []).late = false ∧ (tArrival []).index = 3 ∧
    (tComb 100 none [] (8 + 15 * 2 ^ 13 + 2 * 2 ^ 17)).cw.val = 8 + 15 * 2 ^ 13 + 2 * 2 ^ 17 + 0 * 2 ^ 32 ∧ (tPhase none []).phase = 0 ∧ (2 : Nat) < 8 ∧
    (∀ a ∈ (tPhase none []).arrs, a.late = false → a.index ≠ 2) :=
  ⟨by decide +kernel, by decide +kernel, by decide +kernel, ⟨_, rfl⟩, rfl, by decide, rfl, by decide, by decide, ⟨_, List.Mem.head _, by decide⟩, rfl, rfl, by decide, rfl, by decide, by decide⟩

/-! ## Witnesses: the scheduler -/

/-- Control registers with which partition 0 is enabled on cores 0 to 3, die 0 in service, one user instruction page. -/
def tCtl : Assoc Word :=
  [(offPart 0, 0x1005000001), (offPart 0 + 0x40, 0xF), (offPart 0 + 0x148, 0x100400000), (0xA060, 0x06E0), (offSvc, 0x404),
  (0x400000, 0x1000000000000)]

/-- Queue 255 of partition 0, its head rung 641 cycles ago, for core 0 alone, with the descriptor at 0x1000 and the kernel at 0x2000. -/
def tHead (back : List Nat) : State :=
  { State.reset with
    cyc := 741, ctl := tCtl, mem := memStore (memStore [] 0x1000 64 0x2000) 0x2000 64 (2 ^ 64)
    sq := [(255, { SQ.reset with en := true, size := 1, base := 0x1000, tail := 1, mask := 1, bells := [(1, 100)], back := back })] }

theorem test_premises_gangsLaunch : (tHead []).head ((tHead []).queue 255) = .ready true ∧ ((tHead []).queue 255).back = [] ∧
    (tHead []).load (((tHead []).queue 255).place ((tHead []).queue 255).head) 64 = 0x2000 ∧
    (tHead []).kernel ((tHead []).queue 255).part (descKdesc 0x2000) = some (2 ^ 64, [⟨0, 0, false⟩]) ∧ (0 : Nat) ∈ maskCores 1 ∧
    ((tHead []).core 0).freeCtx = some 0 ∧ ((tHead []).core 0).arrFree = true ∧
    (((tHead []).modArr 0 fun a => { a with owner := some 3 }).core 0).arrFree = false ∧
    (((tHead []).modCore 0 fun c => { c with ctxs := [(3, { Ctx.reset with q := { Seq.reset with owns := true } })] }).core 0).arrFree = false := by
  decide +kernel

/-- A task of partition 0 on context 0 of core 0. -/
def tTask (st : TState) (halted : List Nat) (pre : Option (Nat × Nat)) : Task :=
  { id := 1, q := 255, part := 0, taskid := 9, desc := 0x2000, kdesc := BitVec.ofNat 512 (2 ^ 64), place := [(0, 0)], trig := halted, halted := halted,
    last := 99, open_ := 0, st := st, trigDone := false, pre := pre, parked := [], key := none, dark := [], wins := [] }
def tTasks (t : Task) (c : CompSt) (s : State) : State := { s with tasks := [t], comp := [(compKey 0 9, (9, c))] }

theorem test_premises_tasksComplete : (tTasks (tTask .running [0] none) .launched tS).task? 1 = some (tTask .running [0] none) ∧
    (tTask .running [0] none).allHalted = true ∧ (tTask .running [0] none).open_ = 0 ∧ (tTask .running [0] none).last < 100 ∧
    (∀ p ∈ (tTask .running [0] none).place, ∀ h ∈ ((tTasks (tTask .running [0] none) .launched tS).ctx p.1 p.2).relq, h.task = 1 → h.kind = .lazy) ∧
    (tTask .killed [] none).st = .killed ∧ (tTask .running [] none).st ≠ .killed ∧ (tTask .running [] none).allHalted = false ∧
    aget (tTasks (tTask .running [0] none) .launched tS).comp (compKey 0 9) = some (9, .launched) ∧
    aget (tTasks (tTask .running [0] none) .complete tS).comp (compKey 0 9) = some (9, .complete) := by decide +kernel

/-- A PREEMPT write of `who` for task 9 of partition 0, and a bound of cycle 300. -/
def tPre (who : Nat) : State := { tReg [(0x180, 300), (offSvc, 0x404)] (tTasks (tTask .running [] none) .launched tS) with cw := ⟨who, 0, 0x100, 9, true, 8⟩ }

/-- The context Ready at its stop point, or being saved as record 7. -/
def tPreS (st : CState) (sv : Option Nat) : State :=
  tTasks (tTask .saving [] (some (100, 64))) .launched (tAt { tCtx with q := { tCtx.q with st := st, saving := sv } })

theorem test_premises_tasksPreempt : (tPre 0).cw.val = 9 + 0 * 2 ^ 24 ∧ (tPre 0).negReady = true ∧
    (tPre 0).tasks.find? (fun t => t.part = 0 && t.taskid = 9 && (t.st = .running || t.st = .saving)) = some (tTask .running [] none) ∧
    max ((tPre 0).reg (0x180 + 8 * 0)) ((tPre 0).cyc + 64) = 300 ∧ ((tPre 1).cw.who < 16 ∧ (0 : Nat) ≠ (tPre 1).cw.who) ∧
    (tPreS .ready none).tasks.find? (fun t => t.part = 0 && t.taskid = 9 && (t.st = .running || t.st = .saving)) =
      some (tTask .saving [] (some (100, 64))) ∧ (100 : Nat) ≤ max 0 (100 + 64) ∧ (164 : Nat) < 300 ∧
    (tPreS .ready none).tasks.find? (fun t => t.place.contains (0, 0) && (t.st = .saving || t.st = .recovering)) =
      some (tTask .saving [] (some (100, 64))) ∧ (100 : Nat) ≤ (tPreS .ready none).cyc ∧ ((tPreS .ready none).core 0).gated = false ∧
    ((tPreS .ready none).ctx 0 0).q.task = 1 ∧ ((tPreS .ready none).ctx 0 0).q.st = .ready ∧ ((tPreS .ready none).ctx 0 0).q.block = none ∧
    ((tPreS .ready none).core 0).arr.owner ≠ some 0 ∧ ((tPreS .stopped (some 7)).ctx 0 0).q.saving = some 7 ∧
    (tPreS .stopped (some 7)).task? 1 = some (tTask .saving [] (some (100, 64))) := by decide +kernel

/-- The record of the saved task. -/
def tRec : Rec := ⟨true, 2, 0, 5, 40960, 0, 1, 3, 9, 0, 0, false, some ⟨tCtx, 96, 9⟩⟩
def tBack (st : TState) : State :=
  (tTasks (tTask st [] none) .launched (tHead [1])).modCore 0 fun c => { c with neg := { c.neg with recs := [(1, tRec)] } }

theorem test_premises_tasksResume : (tBack .saved).head ((tBack .saved).queue 255) = .ready true ∧ ((tBack .saved).queue 255).back.head? = some 1 ∧
    (tBack .saved).task? 1 = some (tTask .saved [] none) ∧ (tTask .saved [] none).live = [(0, 0)] ∧ (tTask .saved [] none).live.Nodup ∧
    ((tTask .saved [] none).live.filterMap fun p => ((tBack .saved).resumeRec (tTask .saved [] none) p).map fun r => (p, r)).length = 1 ∧
    (tBack .saved).resumeRec (tTask .saved [] none) (0, 0) = some tRec ∧ tRec.pay = some ⟨tCtx, 96, 9⟩ ∧
    (tBack .saved).itb 0 (kdIpva (2 ^ 64)) (kdNipg (2 ^ 64) + 1) = some [⟨0, 0, false⟩] ∧
    (tBack .lost).head ((tBack .lost).queue 255) = .ready true ∧ (tTask .lost [] none).st = .lost := by decide +kernel

/-- A saved task whose queue names a core that its partition does not hold any more. -/
theorem test_premises_tasksResume_mask : let s := { tBack .saved with ctl := [] }
    (s.queue 255).en = true ∧ (s.queue 255).back.head? = some 1 ∧ s.task? 1 = some (tTask .saved [] none) ∧
    (s.queue 255).mask.getLsbD 0 = true ∧ s.holdsCore (s.queue 255).part 0 = false := by decide +kernel

/-- The graph of partition 0, in scratchpad 0, whose node 4094 executes now as `v` says, with `w` at offset 0x1000; queue 255 is the partition's. -/
def tGraph (v w : Nat) (last taken : Assoc Nat) : State :=
  { State.reset with
    cyc := 741, ctl := tCtl, mem := memStore (memStore [] 0x08000003FF80 64 v) 0x080000001000 64 w
    comp := [(compKey 0 9, (9, .complete))], sq := [(255, { SQ.reset with en := true, size := 1, base := 0x1000 })]
    graphs := [(0, { Graph.reset with base := 0x080000000000, gtid := 10, st := 1, next := 4094, due := 741, last := last, ended := [9], taken := taken })] }

def tNodeL : Nat := 1 + 0x080000001000 * 2 ^ 64 + 255 * 2 ^ 128
def tNodeC : Nat := 3 + 0x080000001000 * 2 ^ 64 + 0xFF * 2 ^ 192 + 5 * 2 ^ 256 + 7 * 2 ^ 324 + 2 * 2 ^ 336

theorem test_premises_graphsRun :
    ({ tS with cw := ⟨0, 0, 0x2F0, 0x080000000000, true, 8⟩ } : State).cw.off = 0x200 + 16 * 15 ∧ (tS.graph 15).st ≠ 1 ∧ ((tGraph 0 0 [] []).graph 0).st = 1 ∧
    (tGraph tNodeL 0x2000 [] []).nodeDue 0 = some tNodeL ∧ nodeKind tNodeL = 1 ∧ nodeBad tNodeL = false ∧
    (tGraph tNodeL 0x2000 [] []).graphReach 0 (((tGraph tNodeL 0 [] []).graph 0).base + 64 * ((tGraph tNodeL 0 [] []).graph 0).next) 64 = true ∧
    ((tGraph tNodeL 0x2000 [] []).graph 0).next < 4095 ∧ (tGraph tNodeL 0x2000 [] []).Inv ∧
    (tGraph tNodeL 0x2000 [] []).graphReach 0 (nodeAddr tNodeL) 64 = true ∧ bits tNodeL 135 128 = 255 ∧
    ((tGraph tNodeL 0x2000 [] []).queue 255).part = 0 ∧
    regionOf (((tGraph tNodeL 0 [] []).queue 255).place ((tGraph tNodeL 0 [] []).queue 255).tail) ≠ .unmapped ∧
    ((tGraph tNodeL 0 [] []).queue 255).ahead ((tGraph tNodeL 0 [] []).queue 255).tail < 2 ^ ((tGraph tNodeL 0 [] []).queue 255).size ∧
    0 < ((tGraph tNodeL 0 [] []).queue 255).ahead ((((tGraph tNodeL 0 [] []).queue 255).tail + 1) % 2 ^ 32) := by
  unfold State.Inv; decide +kernel

theorem test_premises_graphsRun_more :
    (tGraph (2 + 3 * 2 ^ 64) 0 [(3, 9)] []).nodeDue 0 = some (2 + 3 * 2 ^ 64) ∧ nodeKind (2 + 3 * 2 ^ 64) = 2 ∧ nodeBad (2 + 3 * 2 ^ 64) = false ∧
    aget ((tGraph (2 + 3 * 2 ^ 64) 0 [(3, 9)] []).graph 0).last (bits (2 + 3 * 2 ^ 64) 75 64) = some 9 ∧
    9 ∈ ((tGraph (2 + 3 * 2 ^ 64) 0 [(3, 9)] []).graph 0).ended ∧ 10 ∉ ((tGraph (2 + 3 * 2 ^ 64) 0 [(3, 10)] []).graph 0).ended ∧
    aget ((tGraph (2 + 3 * 2 ^ 64) 0 [(3, 9)] []).graph 0).last (bits (2 + 4 * 2 ^ 64) 75 64) = none ∧
    (tGraph tNodeC 0x105 [] []).nodeDue 0 = some tNodeC ∧ nodeKind tNodeC = 3 ∧ nodeBad tNodeC = false ∧
    (tGraph tNodeC 0x105 [] []).graphReach 0 (nodeAddr tNodeC) 8 = true ∧ bits tNodeC 323 320 = 0 ∧
    (tGraph tNodeC 0x105 [] []).load (nodeAddr tNodeC) 8 &&& bits tNodeC 255 192 = bits tNodeC 319 256 ∧
    (tGraph tNodeC 0x106 [] []).load (nodeAddr tNodeC) 8 &&& bits tNodeC 255 192 ≠ bits tNodeC 319 256 ∧
    agetD ((tGraph tNodeC 0x105 [] [(4094, 1)]).graph 0).taken 4094 0 < bits tNodeC 351 336 ∧ bits tNodeC 351 336 ≠ 0 ∧
    bits tNodeC 351 336 ≤ agetD ((tGraph tNodeC 0x105 [] [(4094, 2)]).graph 0).taken 4094 0 ∧
    (tGraph (2047 * 2 ^ 64) 0 [] []).nodeDue 0 = some (2047 * 2 ^ 64) ∧ nodeKind (2047 * 2 ^ 64) = 0 ∧ nodeBad (2047 * 2 ^ 64) = false ∧
    (tReg [] (tGraph tNodeL 0 [] [])).nodeDue 0 = some tNodeL ∧
    (tReg [] (tGraph tNodeL 0 [] [])).graphReach 0 (((tGraph tNodeL 0 [] []).graph 0).base + 64 * ((tGraph tNodeL 0 [] []).graph 0).next) 64 = false := by
  decide +kernel

/-! ## Witnesses: registers of queues, rings and partitions -/

/-- A write of `who` to control offset `off` of the value `v`. -/
def tW (who off v : Nat) : State := { tS with cw := ⟨who, 0, off, v, true, 8⟩ }

theorem test_premises_ringRegisters : (tW 16 0x7C8 (15 + 1 * 16 + 2047 * 32)).cw.off = 0x408 + 64 * 15 ∧
    (tW 16 0x7C8 (15 + 1 * 16 + 2047 * 32)).cw.val = 15 + true.toNat * 16 + 2047 * 32 ∧ (15 : Nat) ≠ 0 ∧ (HRing.reset).en = false ∧
    (tW 16 0x7D8 5).cw.off = 0x418 + 64 * 15 := by decide

theorem test_premises_queueRegisters : (tW 16 0x1FF18 1).cw.off = 0x10018 + 256 * 255 ∧ (1 : Nat) < 2 ^ 32 ∧ SQ.reset.ahead 1 ≤ 2 ^ SQ.reset.size ∧
    0 < SQ.reset.ahead 1 ∧ 2 ^ SQ.reset.size < SQ.reset.ahead 2 ∧ (tW 16 0x1FF00 0xFFF).cw.off = 0x10000 + 256 * 255 ∧
    (tW 16 0x1FF00 0xFFF).cw.who = 16 ∧ SQ.reset.en = false ∧ (0xFFF : Nat).testBit 3 = true ∧ bits 0xFFF 11 8 ≠ 0 ∧
    (tW 0 0x10018 1).ctlRight 0 0x10018 true = true ∧ (tW 0 0x10000 1).ctlRight 0 0x10000 true = true ∧
    ({ SQ.reset with en := true } : SQ).en = true ∧ (8 % 8 = SQ.reset.prio ∧ bits 8 7 4 = SQ.reset.part ∧ bits 8 11 8 = SQ.reset.size) ∧
    0xFFF % 8 ≠ SQ.reset.prio := by decide

theorem test_premises_controlRegisters : (0xFFFFFFFFFFFFFFFF : Nat) < 2 ^ 64 ∧ (tW 15 (0x180 + 8 * 15) 0).cw.who = 15 ∧ (tW 14 (0x180 + 8 * 15) 0).cw.who ≠ 15 ∧
    (tW 16 (offPart 15 + 0x150) 0).cw.off = offPart 15 + 0x150 ∧ (tW 16 (offPart 0 + 0x140) 0).cw.off = offPart 0 + 0x140 ∧
    (tW 16 (offPart 0 + 0x148) 0).cw.off = offPart 0 + 0x148 ∧ (tW 16 (offPart 0 + 0x1F8) 0).cw.off = offPart 0 + 0x1F8 ∧
    (tW 16 (offMgmt + 0x10) 0).cw.off = offMgmt + 0x10 ∧ (tW 17 (offMgmt + 8) 0).cw.off = offMgmt + 8 ∧ (tW 17 (offMgmt + 8) 0).cw.who = 17 ∧
    (tW 16 (0x10008 + 256 * 255) 0).cw.off = 0x10008 + 256 * 255 ∧ ((tW 16 (0x10008 + 256 * 255) 0).queue 255).en = false ∧
    (tW 16 (0x400 + 64 * 15) 0).cw.off = 0x400 + 64 * 15 ∧ (tW 16 (0x208 + 16 * 15) 0).cw.off = 0x208 + 16 * 15 ∧
    ((tW 16 (0x208 + 16 * 15) 0).graph 15).st ≠ 1 ∧ (tW 16 (0x208 + 16 * 15) 0).cw.who = 16 ∧
    (tW 15 (0x208 + 16 * 15) 0).ctlRight 15 (0x208 + 16 * 15) true = true ∧ (tW 15 (0x400 + 64 * 15) 0).ctlRight 15 (0x400 + 64 * 15) true = true ∧
    (tW 0 0x10008 0).ctlRight 0 0x10008 true = true ∧ (tW 16 0 0).cw.wr = true ∧
    ({ tS with cw := ⟨16, 0, offPart 0 + 0x150, 0, false, 8⟩ } : State).cw.wr = false ∧
    ({ tS with cw := ⟨16, 0, offPart 0 + 0x150, 0, false, 8⟩ } : State).ctlRead 16 (offPart 0 + 0x150) = some 0 := by decide

/-! ## Witnesses: partitions -/

/-- A zeroing of token queue 511, that ends now. -/
def tZero : State := { tS with zero := [⟨2, 511, 36, 100⟩] }

theorem test_premises_unitsAreGranted_queue : (tW 16 (offPart 0 + 0xC0) 32).holding = some ⟨0, 2, [5], []⟩ ∧
    (tW 16 (offPart 0 + 0xC0) 32).holdingErr ⟨0, 2, [5], []⟩ = none := by decide +kernel

theorem test_premises_unitsAreGranted : (tW 16 (offPart 0 + 0x78) (2 ^ 63)).holding = some ⟨0, 0, [511], []⟩ ∧
    (tW 16 (offPart 0 + 0x78) (2 ^ 63)).holdingErr ⟨0, 0, [511], []⟩ = none ∧ (tW 16 (offPart 0 + 0x78) (2 ^ 63)).holders 0 511 = [] ∧
    (tReg [(offPart 1 + 0x78, 0x8000000000000000)] (tW 16 (offPart 0 + 0x78) (2 ^ 63))).holdingErr ⟨0, 0, [511], []⟩ = some 4 ∧
    (tReg [(offPart 0 + 0x40, 1)] (tW 16 (offPart 0 + 0x40) 0)).holding = some ⟨0, 0, [], [0]⟩ ∧
    (tReg [(offPart 0 + 0x40, 1)] (tW 16 (offPart 0 + 0x40) 0)).holdingErr ⟨0, 0, [], [0]⟩ = some 1 ∧
    (tW 16 (offPart 15) 0x101).cw.off = offPart 15 ∧ bits (tW 16 (offPart 15) 0x101).cw.val 23 8 ≠ bits ((tW 16 (offPart 15) 0x101).reg (offPart 15)) 23 8 ∧
    bits (tW 16 (offPart 15) 1).cw.val 23 8 = bits ((tW 16 (offPart 15) 1).reg (offPart 15)) 23 8 ∧ (tW 16 (offPart 15) 1).cw.wr = true ∧ (∃ t ∈ (tTasks (tTask .running [] none) .launched tS).tasks, t.part = 0) ∧
    (∀ t ∈ tS.tasks, t.part ≠ 15) ∧ (tReg [(offPart 15 + 0x78, 0x8000000000000000)] tS).holdsCore 15 511 = true ∧ tZero.Inv ∧
    (0x0802001FF000, 0x1000) = unitRange 2 511 ∧ (⟨2, 511, 36, 100⟩ : Zeroing) ∈ tZero.zero ∧ (⟨2, 511, 36, 100⟩ : Zeroing).till = tZero.cyc := by
  unfold State.Inv; decide +kernel

/-- A grant of core 511 to partition 15 whose zeroing is still to come. -/
theorem test_premises_unitsAreGranted_pending :
    let s : State := { tReg [(offPart 15 + 0x78, 0x8000000000000000)] tS with zero := [⟨0, 511, 4000, 70000⟩] }
    s.Inv ∧ s.holdsUnit 15 0 511 = true ∧ s.zeroing 0 511 = true ∧ ∀ z ∈ s.zero, s.cyc < z.from_ ∧ s.cyc < z.till := by
  intro s; unfold State.Inv; decide +kernel

/-- A page table of partition 0 with one entry, which maps the window's page. -/
def tPte (v : Nat) : State := tReg [(offPart 0 + 0x140, 0x100400000), (0x400000, 0x10000), (0x400008, 0x1000000000000)] (tW 16 (offMirror + 0) v)

theorem test_premises_tablesAreWritten : (tW 16 (offMirror + 0xFFFF8) 5).cw.off = offMirror + 0xFFFF8 ∧ (tW 16 (offMirror + 0xFFFF8) 5).pinned (offMirror + 0xFFFF8) 5 = none ∧
    (tPte 0x500000000).pinned (offMirror + 0) 0x500000000 = some 0 ∧ (tW 15 (offSlot + 0x800 * 7 + 8 * 255) 0).cw.off = offSlot + 0x800 * 7 + 8 * 255 ∧
    ((agetD ((tW 15 0 0).die 7).slots 255 Slot.reset).expert = 0xFFFFFFFF ∧ (agetD ((tW 15 0 0).die 7).slots 255 Slot.reset).refs = 0) ∧
    (tW 15 0 0).cw.who < 16 ∧ (⟨5, 0, false, 14⟩ : Slot).part ≠ (tW 15 0 0).cw.who ∧ (⟨5, 0, false, 14⟩ : Slot).expert ≠ 0xFFFFFFFF := by decide +kernel

/-- A data entry and an instruction entry with a word at the offsets 0x400008 and 0x500000, and an offset that no table reaches. -/
theorem test_premises_tablesAreWritten_bits :
    let s : State := tReg [(offPart 0 + 0x140, 0x100400000), (offPart 15 + 0x148, 0x1004FFFF8)] (tW 16 0 0)
    inRange 0x400008 (s.reg (offPart 0 + 0x140) % 2 ^ 24) (16 * bits (s.reg (offPart 0 + 0x140)) 41 32) = true ∧
    (∀ q < 16, inRange 0x400008 (s.reg (offPart q + 0x148) % 2 ^ 24) (8 * bits (s.reg (offPart q + 0x148)) 40 32) = false) ∧
    inRange 0x4FFFF8 (s.reg (offPart 15 + 0x148) % 2 ^ 24) (8 * bits (s.reg (offPart 15 + 0x148)) 40 32) = true ∧
    (∀ q < 16, inRange 0x4FFFF8 (s.reg (offPart q + 0x140) % 2 ^ 24) (16 * bits (s.reg (offPart q + 0x140)) 41 32) = false) ∧
    ∀ q < 16, inRange 0x400010 (s.reg (offPart q + 0x140) % 2 ^ 24) (16 * bits (s.reg (offPart q + 0x140)) 41 32) = false ∧
      inRange 0x400010 (s.reg (offPart q + 0x148) % 2 ^ 24) (8 * bits (s.reg (offPart q + 0x148)) 40 32) = false := by
  decide +kernel

theorem test_premises_measurementsAndQuotes : (tW 15 (offAtt + 0x500 + 64 * 15 + 8 * 6) 0).cw.off = offAtt + 0x500 + 64 * 15 + 8 * 6 ∧
    (tW 15 (offAtt + 0x500 + 64 * 15 + 56) 0).cw.off = offAtt + 0x500 + 64 * 15 + 56 ∧ (tW 16 (offAtt + 0x60) 15).cw.off = offAtt + 0x60 ∧
    (tW 16 (offAtt + 0x60) 15).cw.val = 15 ∧ (tW 16 (offAtt + 0x60) 15).cw.who = 16 ∧ (tW 15 0 0).cw.who = 15 ∧ (tW 16 (offAtt + 0x60) 15).quote = none ∧ ({ tS with quote := some 5 } : State).quote.isSome = true := by
  decide

theorem test_premises_managementRegisters : (tW 16 offMgmt 5).cw.who = 16 ∧ (tW 16 offMgmt 5).cw.off = offMgmt ∧ (∀ p < 16, ((tW 16 offMgmt 5).pcfg p).testBit 0 = false) ∧
    ((tReg [(offPart 15, 1)] tS).pcfg 15).testBit 0 = true ∧ (tW 16 (offMgmt + 0x80 + 8 * 7) 5).cw.off = offMgmt + 0x80 + 8 * 7 := by decide

/-! ## Witnesses: the debugger, TKILL -/

/-- Partition 0 attached, context 0 of core 0 in state `st` and asked to stop; a write of the host. -/
def tDbg (st : CState) (off v : Nat) (wr : Bool) : State :=
  { tReg [(offPart 0 + 0x40, 1), (0xB000, 1)] (tAt { tCtx with q := { tCtx.q with st := st, dbg := true } }) with cw := ⟨16, 0, off, v, wr, 8⟩ }

theorem test_premises_debuggerActs : (tDbg .stopped 0xB000 3 true).Inv ∧ (tDbg .stopped 0xB078 3 true).cw.off = 0xB000 + 8 * 15 ∧
    (tDbg .stopped 0xB000 3 true).cw.val = 3 + 0 * 2 ^ 8 + 0 * 2 ^ 18 ∧ (tDbg .stopped 0xB000 3 true).attached 0 = true ∧
    ((tDbg .stopped 0xB000 3 true).ctx 0 0).q.st = .stopped ∧ ((tDbg .stopped 0xB000 3 true).ctx 0 0).q.part = 0 ∧
    ((tDbg .stopped 0xB000 3 true).ctx 0 0).q.saving = none ∧ (tDbg .stopped (offDbg + 0x10) 1 true).cw.off = offDbg + 0x10 ∧
    (tDbg .stopped (offDbg + 0x10) 1 true).cw.val.testBit 0 = true ∧ (tDbg .stopped (offDbg + 0x10) 1 true).dbgX.q.st ≠ .free ∧
    (tDbg .stopped (offDbg + 0x10) 1 true).attached (tDbg .stopped (offDbg + 0x10) 1 true).dbgX.q.part = true ∧
    ((tDbg .holder 0 0 true).ctx 0 0).q.st = .holder ∧ ((tDbg .holder 0 0 true).ctx 0 0).q.dbg = true ∧ phIssue ≤ (tDbg .holder 0 0 true).ph ∧
    (tDbg .stopped (offDbg + 0x2000 + 0x9FF8) 5 true).cw.off = offDbg + 0x2000 + 0x9FF8 ∧ (tDbg .stopped (offDbg + 0x2000 + 0x1F8) 5 true).imageOk = true ∧
    (tDbg .holder 0 0 true).imageOk = false ∧ (0x800 ≤ 0x17F8 ∧ 0x17F8 < 0x1800) ∧ (tDbg .stopped (offDbg + 0x10000 + 0xFFF8) 5 true).cw.off = offDbg + 0x10000 + 0xFFF8 ∧
    (tDbg .stopped 0 5 true).apertureOk = true ∧ tS.apertureOk = false ∧ (tDbg .stopped 0 5 false).cw.wr = false ∧
    (tDbg .stopped 0 5 false).cw.len = 8 ∧ (tDbg .holder 0 0 true).ctx 0 0 = { tCtx with q := { tCtx.q with dbg := true } } ∧
    tCtx.q.block = none ∧ tCtx.brd = none ∧ ({ tS with cw := ⟨16, 0, offDbg + 0x2004, 0, false, 4⟩ } : State).cw.len ≠ 8 := by
  unfold State.Inv; decide +kernel

/-- A TKILL write for task `v` of partition 0. -/
def tKill (v : Nat) : State := { tTasks (tTask .running [] none) .launched tS with cw := ⟨0, 0, 0xB100, v, true, 8⟩ }

theorem test_premises_tasksAreKilled : (tKill 9).cw.off = 0xB100 + 8 * 0 ∧
    (tKill 9).tasks.find? (fun t => t.part = 0 && t.taskid = 9 && t.st ≠ .killed) = some (tTask .running [] none) ∧
    ((tKill 9).ctx 0 0).q.task = (tTask .running [] none).id ∧ (tTask .running [] none).place = [(0, 0)] ∧
    (tTask .running [] none).q = 255 ∧ (tKill 8).tasks.find? (fun t => t.part = 0 && t.taskid = 8 && t.st ≠ .killed) = none := by decide +kernel

/-! ## Witnesses: power -/

/-- The trip temperature 100. -/
def tTrip : State := tReg [(offMgmt + 0x60, 100)] tS

theorem test_premises_railsFail : tTrip.Inv ∧ sint 16 99 < sint 16 (tTrip.reg (offMgmt + 0x60)) ∧ sint 16 (tTrip.reg (offMgmt + 0x60)) ≤ sint 16 100 ∧
    (∀ d, d < 8 → d ≠ 7 → sint 16 (tTrip.reg (offMgmt + 0x20 + 8 * d)) < sint 16 (tTrip.reg (offMgmt + 0x60))) ∧ tTrip.cal = [] ∧ tS.ph ≠ 0 ∧ ({ tS with ph := 0 } : State).ph = 0 ∧ ({ tS with ph := 0 } : State).Inv ∧
    tTask .running [] none ∈ (tTasks (tTask .running [] none) .launched tS).tasks ∧ (tTask .running [] none).st = .running ∧
    (tTask .lost [] none).st = .lost ∧ (((tTasks (tTask .lost [] none) .launched tS).tasks).map (·.id)).Nodup ∧
    (∃ p ∈ (tTask .running [] none).live, onRail false 0 p.1 = true) ∧ (∃ p ∈ (tTask .running [] none).live, onRail true 0 p.1 = true) := by
  unfold State.Inv; decide +kernel

/-- A SUPTEST write of `v`, the register holding `r`. -/
def tSup' (r : Word) (v : Nat) : State :=
  { tReg [(offPart 15 + 0x78, 0x8000000000000000), (offMgmt + 0x18, 0xFF), (offMgmt + 0x70, r), (0xB078, 1)] tS with cw := ⟨16, 0, offMgmt + 0x70, v, true, 8⟩ }

/-- Core 0 about to be gated, and gated, with its record; die 0 may be gated and the negative is ready. -/
def tGate (gated : Bool) : State :=
  (tTasks (tTask .running [] none) .launched (tReg [(offMgmt + 0x18, 0xFF), (offSvc, 0x404)]
    (tAt tCtx))).modCore 0 fun c =>
      { c with gateReq := true, gated := gated, gateCtx := if gated then [0] else [], neg := { c.neg with recs := [(1, { tRec with kind := 3 })] } }

theorem test_premises_railsReturn : (tSup' 0 (100 + 2 ^ 48 + 511 * 2 ^ 51)).cyc ≤ 100 ∧ (tSup' 0 (100 + 2 ^ 48 + 511 * 2 ^ 51)).cw.off = offMgmt + 0x70 ∧
    (tSup' 0 (100 + 2 ^ 48 + 511 * 2 ^ 51)).partOf 511 = some 15 ∧ (tSup' 0 0).attached 15 = true ∧ (tSup' 0 (2 ^ 50)).cw.val.testBit 50 = true ∧
    511 = bits (tSup' 0 (2 ^ 50 + 511 * 2 ^ 51)).cw.val 60 51 ∧ (tSup' 0 (2 ^ 50 + 511 * 2 ^ 51)).cw.val.testBit 49 = false ∧
    (tSup' 0 (2 ^ 49 + 2 ^ 50 + 511 * 2 ^ 51)).cw.val.testBit 49 = true ∧
    ((tReg [(offMgmt + 0x18, 0xFF), (offSvc, 0x404)] tS).modCore 0 fun c => { c with ctxs := [], gateReq := true }).canGate 0 = true ∧
    (∃ k < 4, ((tGate false).ctx 0 k).q.st ≠ .free) ∧
    ((tSup' 0 0).reg (offMgmt + 0x18)).testBit (dieOf 511) = true ∧ ((tSup' 0 0).core 511).up = true ∧ ((tSup' 0 0).core 511).gated = false ∧
    (tGate false).canGate 0 = true ∧ tS.canGate 0 = false ∧ ((tGate true).core 0).gated = true ∧
    (∀ y ∈ ((tGate true).core 0).saves, y.kind ≠ 3) ∧ ((tGate true).core 0).gateCtx = [((tGate true).core 0).holder] ∧
    (tGate true).tasks.find? (fun t => t.live.contains (0, 0)) = some (tTask .running [] none) ∧
    ((tGate true).core 0).newest 0 9 (fun r => r.kind = 3) = some { tRec with kind := 3 } ∧ tRec.pay = some ⟨tCtx, 96, 9⟩ := by decide +kernel

theorem test_premises_resetAndService : ({ tS with ctl := [(offSvc, 1)] } : State).svcMode = 1 ∧ State.reset.svcMode ≠ 1 ∧
    (∃ c ∈ tS.cores, ∃ x ∈ c.2.ctxs, x.2.q.st ≠ .free) ∧ (∀ c ∈ State.reset.cores, ∀ x ∈ c.2.ctxs, x.2.q.st = .free) := by decide

theorem test_premises_errorsStrike : (199 : Nat) < 200 ∧ (200 ≤ 207 ∧ (207 : Nat) < 208) ∧
    ((tCopies (tCopy 0x080000000000 0x080000400000 100)).core 0).copies.find? (fun e => e.seq = (3 * 65536 + 65535) / 65536) =
      some (tCopy 0x080000000000 0x080000400000 100) ∧ (tCopy 0 0 0).logged = false ∧ ({ tCopy 0 0 0 with logged := true } : CopyEnt).logged = true ∧
    aget (tChanged 69 [(0, ⟨1, 0, 0, 0, 0, 0, 0, 0, false⟩)] |>.core 5).neg.qrecs 0 = some ⟨1, 0, 0, 0, 0, 0, 0, 0, false⟩ ∧ aget ((tGate true).core 0).neg.recs 1 = some { tRec with kind := 3 } := by decide +kernel

/-! ## Witnesses: the outside -/

theorem test_premises_hostAccesses : tS.Inv ∧ 0x04FFFFFFFFF8 + 8 ≤ 0x050000000000 ∧ (0x1FFFC0 : Nat) < 0x200000 ∧ 0x1FFFC0 % 64 = 0 ∧
    (tReg [(offPart 0 + 0xF8, 0x8000000000000000)] tS).tqServed (0x1FFFC0 / 0x1000) = true ∧ (tS.tq 511).early = [] ∧
    bits 5 511 480 = agetD (tS.tq 511).next 0 0 ∧ (tS.tq 511).taken < 64 ∧ (tS.tq 511).recvs = [] ∧
    bits (2 ^ 480) 511 480 ≠ agetD (tS.tq 511).next 0 0 ∧ 63 ≠ 64 ∧ tS.tqServed 5 = false ∧
    tS.tqServed (0x5000 / 0x1000) = false := by unfold State.Inv; decide +kernel

/-- Partition 0 exports the first 4 KiB of scratchpad 0. -/
def tExp : State := tReg [(offPart 0 + 0x160, 0x080000000000), (offPart 0 + 0x168, 0x080000001000)] tS

theorem test_premises_podRequests : tExp.Inv ∧ 0x200000 ≤ 0x800FF8 % 2 ^ 24 ∧ tExp.exported (0x800FF8 % 2 ^ 24) 8 = some 0x080000000FF8 ∧
    tExp.exported (0x800FFC % 2 ^ 24) 8 = none ∧ tExp.exported (0x200000 % 2 ^ 24) 8 = none ∧
    11 ∈ (tReg [(offMgmt + 0xC8 + 8 * 11, 3)] tS).linksUp ∧ 11 ∉ tS.linksUp ∧ tExp.remapping = false ∧
    ({ tAtoms (tAtom 0x200001000000) with remap := true, out := [⟨90, [90, 0, 1, 0], 2, some 3, .atomic 0x200001000000 0 true 5 0 3⟩] } :
      State).remapping = true := by unfold State.Inv; decide +kernel

set_option Elab.async true
end

section
/-! Proofs about scope (00_scope.md): lanes of a register value and bytes of memory are little-endian (R5). -/

namespace Sys2Proof.Machine

/-! ### Lanes of a register value -/

theorem packNat_cons (w d : Nat) (l : List Nat) : packNat w (d :: l) = d % 2 ^ w + 2 ^ w * packNat w l := rfl

/-- Packed lanes fill no more than their own bits. -/
theorem packNat_lt (w : Nat) (l : List Nat) : packNat w l < 2 ^ (w * l.length) := by
  induction l with
  | nil => simp [packNat]
  | cons d l ih =>
    have hd : d % 2 ^ w < 2 ^ w := Nat.mod_lt _ (Nat.two_pow_pos w)
    calc packNat w (d :: l)
      _ < 2 ^ w * (packNat w l + 1) := by rw [packNat_cons, Nat.mul_succ]; omega
      _ ≤ 2 ^ w * 2 ^ (w * l.length) := Nat.mul_le_mul_left _ ih
      _ = 2 ^ (w * (d :: l).length) := by rw [← Nat.pow_add, List.length_cons, Nat.mul_succ, Nat.add_comm]

/-- A register at least as long as the lanes together holds what they pack to. -/
theorem toNat_ofNat_packNat {w n : Nat} {l : List Nat} (h : w * l.length ≤ n) :
    (BitVec.ofNat n (packNat w l)).toNat = packNat w l := by
  rw [BitVec.toNat_ofNat, Nat.mod_eq_of_lt ((packNat_lt w l).trans_le (Nat.pow_le_pow_right Nat.two_pos h))]

/-- The digit at place `i` of packed lanes is entry `i` of the list: lane 0 is the least significant. -/
theorem packNat_digit (w : Nat) (l : List Nat) (i : Nat) : packNat w l / 2 ^ (w * i) % 2 ^ w = l.getD i 0 % 2 ^ w := by
  induction l generalizing i with
  | nil => simp [packNat]
  | cons d l ih =>
    rw [packNat_cons]
    cases i with
    | zero => simp
    | succ i =>
      have hd : d % 2 ^ w / 2 ^ w = 0 := Nat.div_eq_of_lt (Nat.mod_lt _ (Nat.two_pow_pos w))
      rw [Nat.mul_succ, Nat.add_comm (w * i), Nat.pow_add, ← Nat.div_div_eq_div_mul,
        Nat.add_mul_div_left _ _ (Nat.two_pow_pos w), hd, Nat.zero_add, ih, List.getD_cons_succ]

/-- The lanes of a register are together no longer than it, so packing them loses nothing. -/
theorem ofLanes_toNat (w : Nat) (f : Nat → Nat) : (ofLanes w f).toNat = packNat w ((List.range (2048 / w)).map f) := by
  exact toNat_ofNat_packNat (by simpa using Nat.mul_div_le 2048 w)

theorem laneAt_ofLanes {w i : Nat} (f : Nat → Nat) (hi : i < 2048 / w) : laneAt w (ofLanes w f) i = f i % 2 ^ w := by
  rw [laneAt, ofLanes_toNat, packNat_digit, List.getD_eq_getElem _ _ (by simpa using hi)]
  simp

theorem laneAt_lt (w : Nat) (x : Vec) (i : Nat) : laneAt w x i < 2 ^ w := Nat.mod_lt _ (Nat.two_pow_pos w)

theorem laneAt_testBit {w j : Nat} (x : Vec) (i : Nat) (hj : j < w) : (laneAt w x i).testBit j = x.getLsbD (w * i + j) := by
  simp [laneAt, Nat.testBit_mod_two_pow, Nat.testBit_div_two_pow, hj, BitVec.getLsbD, Nat.add_comm]

/-! ### Bytes of memory -/

theorem memLoad_zero (m : List Host.Cell) (a : Nat) : memLoad m a 0 = 0 := by
  have : (m.filter fun c => a ≤ c.1 && c.1 < a + 0) = [] :=
    List.filter_eq_nil_iff.2 fun c _ => by simp
  rw [memLoad, this, List.foldl_nil]

/-- What a load takes from one cell: its byte at its place in the value, or nothing where the load does not reach it. -/
def loadTerm (a n : Nat) (c : Host.Cell) : Nat :=
  if a ≤ c.1 ∧ c.1 < a + n then c.2.toNat * 2 ^ (8 * (c.1 - a)) else 0

/-- A load adds up what it takes from each cell. -/
theorem memLoad_eq_sum (m : List Host.Cell) (a n : Nat) : memLoad m a n = (m.map (loadTerm a n)).sum := by
  have fold : ∀ z, (m.filter fun c => a ≤ c.1 && c.1 < a + n).foldl (fun acc c => acc + c.2.toNat * 2 ^ (8 * (c.1 - a))) z =
      z + (m.map (loadTerm a n)).sum := by
    induction m with
    | nil => simp
    | cons c m ih =>
      intro z
      by_cases hc : a ≤ c.1 ∧ c.1 < a + n
      · simp [hc, ih, loadTerm, Nat.add_assoc]
      · simp [hc, ih, loadTerm]
  rw [memLoad, fold, Nat.zero_add]

/-- A load that is one byte longer takes from each cell what it took before, and the byte of the cell at its new last address. -/
theorem loadTerm_succ (a n : Nat) (c : Host.Cell) :
    loadTerm a (n + 1) c = loadTerm a n c + (if c.1 = a + n then c.2.toNat else 0) * 2 ^ (8 * n) := by
  unfold loadTerm
  by_cases he : c.1 = a + n
  · simp [he]
  · have : (a ≤ c.1 ∧ c.1 < a + (n + 1)) ↔ (a ≤ c.1 ∧ c.1 < a + n) := by omega
    simp [he, this]

/-- In canonical memory no later cell has the address of the first one, or a lower one. -/
theorem memByte_tail_of_le {c : Host.Cell} {m : List Host.Cell} (h : Memory.wf (c :: m)) {b : Nat} (hb : b ≤ c.1) :
    memByte m b = 0 :=
  memByte_of_not_mem fun d hd => by
    have := (List.pairwise_cons.1 h.1).1 d hd
    omega

theorem memByte_cons_of_ne {c : Host.Cell} {m : List Host.Cell} (h : Memory.wf (c :: m)) {b : Nat} (hb : c.1 ≠ b) :
    memByte (c :: m) b = memByte m b := by
  by_cases hlt : b < c.1
  · simp [memByte, hlt, hb.symm, memByte_tail_of_le h hlt.le]
  · simp [memByte, hlt, hb.symm]

/-- In canonical memory at most one cell has address `b`, and its byte is the one that is read there. -/
theorem sum_cells_at {m : List Host.Cell} (h : Memory.wf m) (b : Nat) :
    (m.map fun c => if c.1 = b then c.2.toNat else 0).sum = (memByte m b).toNat := by
  induction m with
  | nil => rfl
  | cons c m ih =>
    have hwf : Memory.wf m := ⟨h.1.of_cons, fun d hd => h.2 d (List.mem_cons_of_mem _ hd)⟩
    rw [List.map_cons, List.sum_cons, ih hwf]
    by_cases hb : c.1 = b
    · subst hb
      simp [memByte_tail_of_le h le_rfl, memByte_of_mem h (List.mem_cons_self ..)]
    · simp [hb, memByte_cons_of_ne h hb]

/-- A load that is one byte longer has the byte at its last address as its most significant. -/
theorem memLoad_succ {m : List Host.Cell} (h : Memory.wf m) (a n : Nat) :
    memLoad m a (n + 1) = memLoad m a n + (memByte m (a + n)).toNat * 2 ^ (8 * n) := by
  simp only [memLoad_eq_sum, funext (loadTerm_succ a n), List.sum_map_add, List.sum_map_mul_right, sum_cells_at h]

/-- A load of bytes that are those of `v`, least significant first, reads `v`. -/
theorem memLoad_of_bytes {m : List Host.Cell} (h : Memory.wf m) {a n v : Nat}
    (hb : ∀ i < n, memByte m (a + i) = BitVec.ofNat 8 (v / 2 ^ (8 * i))) : memLoad m a n = v % 2 ^ (8 * n) := by
  induction n with
  | zero => rw [memLoad_zero, Nat.mul_zero, Nat.pow_zero, Nat.mod_one]
  | succ n ih =>
    rw [memLoad_succ h, ih fun i hi => hb i (Nat.lt_succ_of_lt hi), hb n (Nat.lt_succ_self n), BitVec.toNat_ofNat,
      Nat.mul_succ, Nat.pow_add, Nat.mod_mul, Nat.mul_comm (_ % _)]

/-- A value reads back where it was stored, cut to the bytes stored. -/
theorem memLoad_memStore {m : List Host.Cell} (h : Memory.wf m) (a n v : Nat) :
    memLoad (memStore m a n v) a n = v % 2 ^ (8 * n) := by
  refine memLoad_of_bytes (memStore_wf h a n v) fun i hi => ?_
  rw [memByte_memStore h, if_pos (by omega), Nat.add_sub_cancel_left]

/-! ### The obligation -/

/-- Settles O7: lanes by packing and unpacking digits of base `2 ^ w`; memory by the byte-wise law of a store, from which a load
of the stored bytes adds the value up again; the canonical form is kept by every store. -/
theorem memoryReadAfterWrite : Obligations.MemoryReadAfterWrite := by
  unfold Obligations.MemoryReadAfterWrite
  refine ⟨fun x f w i _ hi => ⟨fun j hj => laneAt_testBit x i hj, laneAt_lt w x i, laneAt_ofLanes f hi⟩, fun s a n v b h => ?_⟩
  exact ⟨memByte_memStore h a n v b, memLoad_memStore h a n v, store_wf h a n v⟩

end Sys2Proof.Machine
end

section
/-! Proofs about the scalar instructions (06_scalar_vector.md): the immediate forms, LIH, bit counts, SEL and TKCNT. -/

namespace Sys2Proof.Machine

/-! ### Integers and words -/

/-- A wrapped integer is the bit vector of the integer. -/
theorem wrapInt_eq_toNat (n : Nat) (x : Int) : wrapInt n x = (BitVec.ofInt n x).toNat := by
  simp [wrapInt, unsigned]

/-- A field read as a signed integer is the bit vector of the field read so. -/
theorem signed_toNat {n : Nat} (a : BitVec n) : signed n a.toNat = a.toInt := by
  have ha := a.isLt
  cases n with
  | zero => simp [signed, BitVec.of_length_zero]
  | succ n =>
    rw [signed, BitVec.toInt_eq_toNat_cond, Nat.add_sub_cancel]
    have h : a.toNat < 2 ^ n ↔ 2 * a.toNat < 2 ^ (n + 1) := by rw [Nat.pow_succ]; omega
    simp [h]

theorem sint_eq_toInt (n x : Nat) : sint n x = (BitVec.ofNat n x).toInt := by
  rw [← signed_toNat, BitVec.toNat_ofNat]
  rfl

theorem ofNat_wrapInt (n : Nat) (x : Int) : BitVec.ofNat n (wrapInt n x) = BitVec.ofInt n x := by
  rw [wrapInt_eq_toNat, BitVec.ofNat_toNat, BitVec.setWidth_eq]

theorem s64_toNat (a : Word) : s64 a.toNat = a.toInt := by
  rw [s64, sint_eq_toInt, BitVec.ofNat_toNat, BitVec.setWidth_eq]

theorem ofNat_w64 (x : Int) : BitVec.ofNat 64 (w64 x) = BitVec.ofInt 64 x := ofNat_wrapInt 64 x

/-! ### What the scalar operations compute, as words (Table 06-2) -/

theorem ofNat_w64_add (a : Word) (x : Int) : BitVec.ofNat 64 (w64 (a.toNat + x)) = a + BitVec.ofInt 64 x := by
  rw [ofNat_w64, BitVec.ofInt_add]
  simp

theorem ofNat_shl64 (a : Word) (n : Nat) : BitVec.ofNat 64 (shl64 a.toNat n) = a <<< (n % 64) := by
  apply BitVec.eq_of_toNat_eq
  simp [shl64, Nat.shiftLeft_eq]

theorem ofNat_shr64 (a : Word) (n : Nat) : BitVec.ofNat 64 (shr64 a.toNat n) = a >>> (n % 64) := by
  apply BitVec.eq_of_toNat_eq
  rw [shr64, ← Nat.shiftRight_eq_div_pow, ← BitVec.toNat_ushiftRight, BitVec.ofNat_toNat, BitVec.setWidth_eq]

theorem ofNat_sar64 (a : Word) (n : Nat) : BitVec.ofNat 64 (sar64 a.toNat n) = a.sshiftRight (n % 64) := by
  rw [sar64, s64_toNat, ofNat_w64, BitVec.sshiftRight, Int.shiftRight_eq_div_pow]
  simp

theorem rol64_toNat (a : Word) (n : Nat) : rol64 a.toNat n = (a.rotateLeft (n % 64)).toNat := by
  have hn : n % 64 ≤ 64 := (Nat.mod_lt n (by decide)).le
  have hlow : a.toNat / 2 ^ (64 - n % 64) < 2 ^ (n % 64) := by
    rw [Nat.div_lt_iff_lt_mul (Nat.two_pow_pos _), ← Nat.pow_add, Nat.add_sub_cancel' hn]
    exact a.isLt
  have hhigh : a.toNat * 2 ^ (n % 64) % 2 ^ 64 = 2 ^ (n % 64) * (a.toNat % 2 ^ (64 - n % 64)) := by
    rw [Nat.mul_comm, ← Nat.mul_mod_mul_left, ← Nat.pow_add, Nat.add_sub_cancel' hn]
  rw [rol64, BitVec.toNat_rotateLeft, Nat.mod_mod, Nat.shiftLeft_eq, Nat.shiftRight_eq_div_pow, hhigh,
    Nat.two_pow_add_eq_or_of_lt hlow]

theorem ofNat_rol64 (a : Word) (n : Nat) : BitVec.ofNat 64 (rol64 a.toNat n) = a.rotateLeft (n % 64) := by
  rw [rol64_toNat, BitVec.ofNat_toNat, BitVec.setWidth_eq]

theorem clz64_eq {a : Word} {n : Nat} (h : a = 0 ∧ n = 64 ∨ n < 64 ∧ 2 ^ (63 - n) ≤ a.toNat ∧ a.toNat < 2 ^ (64 - n)) :
    clz64 a.toNat = n := by
  obtain ⟨rfl, rfl⟩ | ⟨hn, hlow, hhigh⟩ := h
  · rfl
  · have ha : a.toNat ≠ 0 := ((Nat.two_pow_pos _).trans_le hlow).ne'
    have hlog : Nat.log2 a.toNat = 63 - n := by
      rw [Nat.log2_eq_iff ha, show 63 - n + 1 = 64 - n by omega]
      exact ⟨hlow, hhigh⟩
    rw [clz64, if_neg ha, hlog]
    omega

theorem div_two_pow_mod_two (a i : Nat) : a / 2 ^ i % 2 = 1 ↔ a.testBit i = true := by
  rw [Nat.testBit_eq_decide_div_mod_eq]; simp

theorem ctz64_eq {a : Word} {n : Nat}
    (h : a = 0 ∧ n = 64 ∨ n < 64 ∧ a.getLsbD n = true ∧ ∀ j < n, a.getLsbD j = false) : ctz64 a.toNat = n := by
  obtain ⟨rfl, rfl⟩ | ⟨hn, hset, hclear⟩ := h
  · rfl
  · have hfind : ((List.range 64).find? fun i => a.toNat / 2 ^ i % 2 = 1) = some n := by
      simp only [List.find?_range_eq_some, div_two_pow_mod_two, decide_eq_true_eq]
      exact ⟨hset, List.mem_range.2 hn, fun j hj => by simpa [BitVec.getLsbD] using hclear j hj⟩
    rw [ctz64, hfind, Option.getD_some]

theorem popc64_eq (a : Word) : popc64 a.toNat = ((List.range 64).filter fun i => a.getLsbD i).length := by
  simp [popc64, div_two_pow_mod_two, BitVec.getLsbD]

/-! ### The scalar forms on single-valued operands -/

/-- A form on sa alone: its result is in flight to sd, as the word `r` it is. -/
theorem finish_rr {s : State} {g : Lit} {sa : Nat} {a r : Word} (hg : s.Plain g) (ha : s.Reads .s sa (ofWord a)) (h : Bool)
    (sd : Nat) {f : Nat → Nat} (hf : BitVec.ofNat 64 (f a.toNat) = r) :
    s.finish (s.rr g h sd sa f) = .next (s.landsS 1 sd r) := by
  rw [rr_one hg ha, finish_ok, hf]

/-- A form without sources gives one result, under whatever the write literal is. -/
theorem opS_nil {s : State} {g : Lit} {w : Cube} (hw : s.wlit g = some w) (h : Bool) (lat sd : Nat) (f : List Nat → Nat) :
    s.opS g h lat sd [] f = s.writeBack w h true lat .s sd [⟨Cube.tt, ofWord (BitVec.ofNat 64 (f [])), 0, none⟩] := by
  simp only [State.opS, hw]
  rfl

/-- The results of SEL on the operands `x` and `y`, by what its literal `l` is: the one it selects, or under an open guard both,
each under its condition (R145). -/
def selPairs (l : Lit) (x y : Vec) : LitVal → List Pair
  | .const b => [⟨Cube.tt, if b then x else y, 0, none⟩]
  | .opn k => [⟨k, x, 0, none⟩, ⟨Cube.lit l.idx !l.neg, y, 0, none⟩]

/-- SEL on single values: its own literal selects, and does not guard the write (R145). -/
theorem execSel_eq {s : State} {sa sb : Nat} {a b : Word} (hg : s.Plain .always) (ha : s.Reads .s sa (ofWord a))
    (hb : s.Reads .s sb (ofWord b)) (l : Lit) (h : Bool) (sd : Nat) :
    execSel l h sd sa sb s =
      s.finish (s.writeBack Cube.tt h true 1 .s sd (selPairs l (ofWord a) (ofWord b) (s.me.lit s.cyc l))) := by
  simp only [State.Plain] at hg
  simp only [execSel, hg, src_of_reads ha, src_of_reads hb, checkPoison, List.map, product_two, bind, Except.bind,
    Bool.false_eq_true, ↓reduceIte, List.flatMap_cons, List.flatMap_nil, List.append_nil, List.getD_cons_zero,
    List.getD_cons_succ, Cube.tt_conj, Option.map_some, Option.toList_some, List.cons_append, List.nil_append]
  cases s.me.lit s.cyc l <;> rfl

/-- SEL under a literal that is constant: the operand it selects. -/
theorem execSel_const {s : State} {sa sb : Nat} {a b : Word} (hg : s.Plain .always) (ha : s.Reads .s sa (ofWord a))
    (hb : s.Reads .s sb (ofWord b)) {l : Lit} {c : Bool} (hl : s.me.lit s.cyc l = .const c) (h : Bool) (sd : Nat) :
    execSel l h sd sa sb s = .next (s.landsS 1 sd (if c then a else b)) := by
  rw [execSel_eq hg ha hb, hl, selPairs, writeBack_one, finish_ok]
  cases c <;> rfl

/-- TKCNT on a register that is not poisoned, whatever takes it holds (R183). -/
theorem execTkcnt_eq {s : State} {g : Lit} (hg : s.Plain g) {sa : Nat} (hp : s.poisonReg .s (s.me.phys .s sa) = false)
    (sd : Nat) : execTkcnt g sd sa s = .next (s.landsS 1 sd (BitVec.ofNat 64 (s.me.rd .s sa).length)) := by
  simp only [State.Plain] at hg
  simp only [execTkcnt, hg, State.src, hp, checkPoison, bind, Except.bind, Bool.false_eq_true, ↓reduceIte, writeBack_one,
    finish_ok]

/-- The value that LIH writes: bits 31 to 12 from the immediate, its sign above them (R140). -/
theorem lih_value (m : Nat) : BitVec.ofNat 64 (w64 (signed 32 (m * 2 ^ 12 % 2 ^ 32))) =
    (BitVec.ofNat 32 (m * 2 ^ 12)).signExtend 64 := by
  rw [ofNat_w64, ← BitVec.toNat_ofNat, signed_toNat, BitVec.signExtend]

/-- LIH gives one result, under the literal of an outstanding deferred branch. -/
theorem execLih_some {s : State} {w : Cube} (hw : s.wlit .always = some w) (sd m : Nat) :
    execLih sd m s = s.finish (s.writeBack w false true 1 .s sd
      [⟨Cube.tt, ofWord ((BitVec.ofNat 32 (m * 2 ^ 12)).signExtend 64), 0, none⟩]) := by
  rw [execLih, opS_nil hw, lih_value]

/-! ### The obligation -/

/-- Settles O10: each form on sa is the shape `State.rr` with the word of its result; LIH has no source; SEL and TKCNT are taken
through their own lemmas. -/
theorem scalarImmediates : Obligations.ScalarImmediates := by
  unfold Obligations.ScalarImmediates
  refine ⟨⟨fun s sd m _ => ⟨fun hw => congrArg s.finish (opS_none hw ..), fun w hw => execLih_some hw sd m⟩,
      fun s g sd sa n imm a hg ha hn => ?immediates⟩,
    fun s g h sd sa n a hg ha => ⟨fun hz => ?clz, fun hz => ?ctz, fun hz => ?popc⟩,
    fun s g l h sd sa sb a b => ⟨fun hg ha hb => ⟨fun hl => execSel_const hg ha hb hl h sd,
      fun hl => execSel_const hg ha hb hl h sd, fun k hl => (execSel_eq hg ha hb l h sd).trans (by rw [hl, selPairs])⟩,
      fun hg hp => execTkcnt_eq hg hp sd⟩⟩
  case immediates =>
    have hmod := Nat.mod_eq_of_lt hn
    refine ⟨?addi, ?shli, ?shri, ?sari, ?roli, ?andi, ?ori, ?xori, fun m _ hw => ?lih⟩
    case addi => exact finish_rr hg ha false sd (ofNat_w64_add a imm)
    case shli => exact finish_rr hg ha false sd (by rw [ofNat_shl64, hmod])
    case shri => exact finish_rr hg ha false sd (by rw [ofNat_shr64, hmod])
    case sari => exact finish_rr hg ha false sd (by rw [ofNat_sar64, hmod])
    case roli => exact finish_rr hg ha false sd (by rw [ofNat_rol64, hmod])
    case andi => exact finish_rr hg ha false sd (by simp [BitVec.ofNat_and, ofNat_w64])
    case ori => exact finish_rr hg ha false sd (by simp [BitVec.ofNat_or, ofNat_w64])
    case xori => exact finish_rr hg ha false sd (by simp [BitVec.ofNat_xor, ofNat_w64])
    case lih => exact (execLih_some hw sd m).trans (by rw [writeBack_one, finish_ok])
  case clz => exact finish_rr hg ha h sd (by rw [clz64_eq hz])
  case ctz => exact finish_rr hg ha h sd (by rw [ctz64_eq hz])
  case popc => exact finish_rr hg ha h sd (by rw [popc64_eq, hz])

end Sys2Proof.Machine
end

section
/-! Proofs about the masked vector forms (06_scalar_vector.md R147, R153, R154, R156): VAND to VANDN, VMOV, VSAT and VDOT4, over
the facts about lanes, clamping and cold sources that every vector form shares. -/

namespace Sys2Proof.Machine

/-! ### Lanes -/

/-- A lane is the number of its bit vector. -/
theorem laneAt_eq_toNat (w : Nat) (x : Vec) (i : Nat) : laneAt w x i = (lane w x i).toNat := by
  rw [lane, BitVec.toNat_ofNat, Nat.mod_eq_of_lt (laneAt_lt w x i)]

theorem sint_laneAt (w : Nat) (x : Vec) (i : Nat) : sint w (laneAt w x i) = (lane w x i).toInt := sint_eq_toInt w _

theorem lanesOf_getD {w n j : Nat} (x : Vec) (hj : j < n) : (lanesOf w n x).getD j 0 = laneAt w x j := by
  simp [lanesOf, laneAt, hj, List.getD_eq_getElem?_getD]

/-- Lanes that a list of the right length gives, one by one. -/
theorem pack_map_range {w n : Nat} {f g : Nat → Nat} (hn : n = 2048 / w) (h : ∀ i < n, f i = g i) :
    pack w ((List.range n).map f) = ofLanes w g := by
  subst hn
  rw [ofLanes, List.map_congr_left fun i hi => h i (List.mem_range.1 hi)]

/-- A segment of the lanes of a register. -/
theorem lanesOf_drop_take {w m k n : Nat} (x : Vec) (h : k + n ≤ m) :
    ((lanesOf w m x).drop k).take n = (List.range n).map fun i => laneAt w x (i + k) := by
  refine List.ext_getElem (by simp [lanesOf]; omega) fun i _ _ => ?_
  simp [lanesOf, laneAt, Nat.add_comm]

/-- The lanes of one register, then those of another. -/
theorem lanesOf_append (w n : Nat) (x y : Vec) :
    lanesOf w n x ++ lanesOf w n y = (List.range (2 * n)).map fun i => if i < n then laneAt w x i else laneAt w y (i - n) := by
  have hx : ∀ i ∈ List.range n, laneAt w x i = if i < n then laneAt w x i else laneAt w y (i - n) := fun i hi =>
    (if_pos (List.mem_range.1 hi)).symm
  rw [Nat.two_mul, List.range_add, List.map_append, ← List.map_congr_left hx, List.map_map]
  simp [lanesOf, laneAt, Function.comp_def]

theorem intWidth_cases {ty : Nat} (h : ty < 4) : intWidth ty = 32 ∨ intWidth ty = 16 ∨ intWidth ty = 8 ∨ intWidth ty = 4 := by
  interval_cases ty <;> decide

/-! ### Clamping -/

/-- Clamping an integer to a range and wrapping it into a lane is `clampLane`, event and all. -/
theorem wrapInt_clampInt (w : Nat) (lo hi x : Int) :
    (wrapInt w (clampInt lo hi x).1, (clampInt lo hi x).2) = ((clampLane w lo hi x).1.toNat, (clampLane w lo hi x).2) := by
  simp only [clampInt, clampLane, wrapInt_eq_toNat]
  split
  · rfl
  · split <;> rfl

/-- Clamping raises SA exactly outside the range. -/
theorem clampLane_event (w : Nat) (lo hi x : Int) : (clampLane w lo hi x).2 = if x < lo ∨ hi < x then evSA else 0 := by
  unfold clampLane
  by_cases h1 : x < lo
  · simp [h1]
  · by_cases h2 : hi < x <;> simp [h1, h2]

/-- The events of several elements, each SA or none, come to SA where one of them has it. -/
theorem foldl_evOr_evSA {α : Type} (f : α → Nat) (P : α → Prop) [DecidablePred P] (hf : ∀ x, f x = if P x then evSA else 0)
    (l : List α) : l.foldl (fun e x => evOr e (f x)) 0 = if ∃ x ∈ l, P x then evSA else 0 := by
  have hsat : ∀ l : List α, l.foldl (fun e x => evOr e (f x)) evSA = evSA := fun l => by
    induction l with
    | nil => rfl
    | cons x l ih =>
      have hx : evOr evSA (f x) = evSA := by rw [hf]; split <;> rfl
      rw [List.foldl_cons, hx, ih]
  induction l with
  | nil => simp
  | cons x l ih =>
    by_cases hx : P x
    · rw [if_pos ⟨x, List.mem_cons_self .., hx⟩, List.foldl_cons, hf, if_pos hx]
      exact hsat l
    · rw [List.foldl_cons, hf, if_neg hx]
      exact ih.trans (if_congr (by simp [hx]) rfl rfl)

/-! ### Cycles of cold sources -/

/-- The cycles that vector registers `rs` add as sources, beside sources that are not cold. -/
theorem coldAdd_eq_cold {s : State} {l : List Src} {rs : List Nat}
    (h : l.any (·.cold) = rs.any fun r => decide (32 ≤ s.me.phys .v r)) : coldAdd l = s.cold rs := by
  rw [coldAdd, State.cold, h]

@[simp] theorem src_v_cold (s : State) (r : Nat) : (s.src .v r).cold = decide (32 ≤ s.me.phys .v r) := by simp [State.src]

@[simp] theorem src_m_cold (s : State) (r : Nat) : (s.src .m r).cold = false := by simp [State.src]

theorem src_ts {s : State} {c : RCls} {r : Nat} {x : Vec} (h : s.Reads c r x) : (s.src c r).ts = oneTake x := by
  rw [src_of_reads h]

theorem src_poison {s : State} {c : RCls} {r : Nat} {x : Vec} (h : s.Reads c r x) : (s.src c r).poison = false := by
  rw [src_of_reads h]

/-! ### Masked operations -/

/-- A masked operation on va and further sources, each of one value and none cold. -/
theorem opLanes_ready {s : State} {g : Lit} {lat w vd va ev : Nat} {x d q : Vec} (hr : s.LaneReady g w vd va x d q)
    {bs : List Src} {ys : List Vec} (hts : bs.map (·.ts) = ys.map oneTake)
    (hbs : ∀ b ∈ bs, b.poison = false ∧ b.cold = false) {op : List Nat → Nat × Nat} {f : Nat → Nat × Nat}
    (hf : ∀ i o, op (laneAt w x i :: (ys.map fun y => laneAt w y i) ++ [o]) = f i) :
    s.opLanes g lat w vd (s.src .v va :: bs) false ev op = .ok (s.landsLanes lat w vd [va] d q ev f) := by
  obtain ⟨hg, hx, hq, hd⟩ := hr
  have hcold : bs.any (·.cold) = false := by simpa using fun b hb => (hbs b hb).2
  rw [opLanes_one (xs := x :: ys) hg (by simp [src_ts hx, hts]) ?_ hq _ rfl (fun h => hd (by simpa using h)) f
    fun i o _ _ => hf i o]
  · rw [State.landsLanes, coldAdd_eq_cold]
    by_cases hp : q.toNat % 2 ^ (2048 / w) = 2 ^ (2048 / w) - 1 <;> simp [hp, hcold]
  · simpa [src_poison hx] using fun b hb => (hbs b hb).1

/-! ### The masked forms -/

/-- A bitwise form on va and source b. -/
theorem vlogic_ready {s t : State} {g : Lit} {vd va vb : Nat} {x y d q : Vec} (hb : s.ReadsB g vb (immInt 32) t y)
    (hr : t.LaneReady g 32 vd va x d q) {f : Nat → Nat → Nat} {op : BitVec 32 → BitVec 32 → BitVec 32}
    (hf : ∀ a b : BitVec 32, f a.toNat b.toNat = (op a b).toNat) :
    s.finish (s.vlogic g vd va vb f) =
      .next (t.landsLanes 2 32 vd [va] d q 0 fun i => ((op (lane 32 x i) (lane 32 y i)).toNat, 0)) := by
  obtain ⟨b, hsrc, hts, hpoi, hcold⟩ := hb
  simp only [State.vlogic, hsrc, bind, Except.bind]
  rw [opLanes_ready hr (ys := [y]) (by simp [hts]) (by simp [hpoi, hcold]), finish_ok]
  intro i o
  simp only [lane2, ← hf, ← laneAt_eq_toNat, List.map_cons, List.map_nil, List.cons_append]

/-- The bitwise forms run the shape `State.vlogic` with the operation of their lanes. -/
theorem logicForms_exec : ∀ o ∈ logicForms, ∃ f : Nat → Nat → Nat,
    (∀ g vd va vb s, exec (o.1 g vd va vb) s = s.finish (s.vlogic g vd va vb f)) ∧
      ∀ a b : BitVec 32, f a.toNat b.toNat = (o.2 a b).toNat := by
  simp only [logicForms, List.forall_mem_cons]
  refine ⟨⟨_, fun _ _ _ _ _ => rfl, fun a b => ?vand⟩, ⟨_, fun _ _ _ _ _ => rfl, fun a b => ?vor⟩,
    ⟨_, fun _ _ _ _ _ => rfl, fun a b => ?vxor⟩, ⟨_, fun _ _ _ _ _ => rfl, fun a b => ?vandn⟩, by simp⟩
  case vand => exact (BitVec.toNat_and a b).symm
  case vor => exact (BitVec.toNat_or a b).symm
  case vxor => exact (BitVec.toNat_xor a b).symm
  case vandn => rw [BitVec.toNat_and, BitVec.toNat_not]

/-- An operation on va alone, masked. -/
theorem lane1_ready {s : State} {g : Lit} {w vd va : Nat} {x d q : Vec} (hr : s.LaneReady g w vd va x d q)
    {op f : Nat → Nat × Nat} (hf : ∀ i, op (laneAt w x i) = f i) :
    s.finish (s.opLanes g 2 w vd [s.src .v va] false 0 (lane1 op)) = .next (s.landsLanes 2 w vd [va] d q 0 f) := by
  rw [opLanes_ready hr (ys := []) rfl (by simp) fun i o => hf i, finish_ok]

/-- A lane below a bound, or the greatest number below it with the event SA: the lane clamped to that range (VSAT.nN, R154). -/
theorem satBelow_eq_clampLane {w a m : Nat} (ha : a < 2 ^ w) (hm : 0 < m) :
    (if m ≤ a then (m - 1, evSA) else (a, 0)) =
      ((clampLane w 0 ((m : Int) - 1) a).1.toNat, (clampLane w 0 ((m : Int) - 1) a).2) := by
  unfold clampLane
  rw [if_neg (Int.natCast_nonneg a).not_gt]
  by_cases h : m ≤ a
  · rw [if_pos h, if_pos (by omega), ← Int.natCast_pred_of_pos hm, BitVec.ofInt_natCast, BitVec.toNat_ofNat,
      Nat.mod_eq_of_lt (by omega)]
  · rw [if_neg h, if_neg (by omega), BitVec.ofInt_natCast, BitVec.toNat_ofNat, Nat.mod_eq_of_lt ha]

/-- The bytes of a 32-bit lane are the 8-bit lanes of the register. -/
theorem laneAt_byte (x : Vec) (i : Nat) {k : Nat} (hk : k < 4) : laneAt 32 x i / 2 ^ (8 * k) % 2 ^ 8 = laneAt 8 x (4 * i + k) := by
  refine Nat.eq_of_testBit_eq fun j => ?_
  rw [Nat.testBit_mod_two_pow, Nat.testBit_div_two_pow]
  by_cases hj : j < 8
  · rw [laneAt_testBit x i (by omega), laneAt_testBit x _ hj, decide_eq_true hj, Bool.true_and]
    congr 1
    omega
  · rw [decide_eq_false hj, Bool.false_and, laneAt, Nat.testBit_mod_two_pow, decide_eq_false hj, Bool.false_and]

/-- An operation without events records none. -/
theorem maskedEvents_none (w : Nat) (q : Vec) (f : Nat → Nat) : maskedEvents w q (fun i => (f i, 0)) = 0 := by
  simp [maskedEvents, evOr]

/-- Byte `i` of a register as an operand of VDOT4: unsigned in the .u form, signed otherwise (R153). -/
def dotByte (uns : Bool) (v : Vec) (i : Nat) : Int := if uns then ((lane 8 v i).toNat : Int) else (lane 8 v i).toInt

/-- A byte cut from a 32-bit lane, read as VDOT4 reads it. -/
theorem dotByte_eq (uns : Bool) (v : Vec) (i : Nat) {k : Nat} (hk : k < 4) :
    (if uns then ((laneAt 32 v i / 2 ^ (8 * k) % 256 : Nat) : Int) else sint 8 (laneAt 32 v i / 2 ^ (8 * k))) =
      dotByte uns v (4 * i + k) := by
  rw [sint, show (256 : Nat) = 2 ^ 8 from rfl, laneAt_byte v i hk, laneAt_eq_toNat, signed_toNat, dotByte]

/-- The lane that VDOT4 gives: the four byte products added to the lane of vd, wrapping (R153). -/
def dotLane (uns : Bool) (x y d : Vec) (i : Nat) : BitVec 32 :=
  lane 32 d i + BitVec.ofInt 32 (dotByte uns x (4 * i + 0) * dotByte uns y (4 * i + 0) +
    dotByte uns x (4 * i + 1) * dotByte uns y (4 * i + 1) + dotByte uns x (4 * i + 2) * dotByte uns y (4 * i + 2) +
    dotByte uns x (4 * i + 3) * dotByte uns y (4 * i + 3))

/-- VDOT4 on single values: vd is a source whatever the mask holds (R153). -/
theorem execVdot4_ready {s t : State} {g : Lit} {vd va vb : Nat} {x y d q : Vec} (uns : Bool) (hb : s.ReadsB g vb (immInt 8) t y)
    (hr : t.LaneReady g 32 vd va x d q) (hd : t.Reads .v vd d) :
    execVdot4 g uns vd va vb s = .next (t.lands (2 + t.cold [va, vd]) .v vd
      (maskedValue 32 q d fun i => ((dotLane uns x y d i).toNat, 0)) 0) := by
  obtain ⟨b, hsrc, hts, hpoi, hcold⟩ := hb
  simp only [execVdot4, hsrc, bind, Except.bind]
  rw [opLanes_one (xs := [x, y]) hr.plain (by simp [src_ts hr.src, hts]) (by simp [src_poison hr.src, hpoi]) hr.mask true rfl
    (fun _ => hd) (fun i => ((dotLane uns x y d i).toNat, 0)), finish_ok]
  · rw [maskedEvents_none, coldAdd_eq_cold (s := t) (rs := [va, vd]) (by simp [hcold])]
    rfl
  · intro i o _ ho
    rw [ho rfl]
    simp only [List.map_cons, List.map_nil, List.cons_append, List.nil_append, lane3]
    simp only [dotByte_eq uns _ i, Nat.reduceLT]
    rw [laneAt_eq_toNat 32 d, wrapInt_eq_toNat]
    simp only [Int.add_assoc]
    rw [BitVec.ofInt_add, BitVec.ofInt_natCast, BitVec.ofNat_toNat, BitVec.setWidth_eq, dotLane]
    simp only [Int.add_assoc]

/-! ### The obligation -/

/-- Settles O16: each masked form is the shape `State.opLanes` on operands that are ready, and what it gives a lane is the bit
vector operation that the statement names. -/
theorem vectorLogicMoveSaturateDot : Obligations.VectorLogicMoveSaturateDot := by
  unfold Obligations.VectorLogicMoveSaturateDot
  refine ⟨⟨?logic, fun s g vd va x d q hr => lane1_ready hr fun i => rfl, fun s g ty vd va w x d q _ hw hr => ?saturate⟩,
    fun s t g uns vd va vb x y d q hb hr hd => execVdot4_ready uns hb hr hd⟩
  case logic =>
    intro o ho s t g vd va vb x y d q hb hr
    obtain ⟨f, hexec, hf⟩ := logicForms_exec o ho
    rw [hexec, vlogic_ready hb hr hf]
  case saturate =>
    subst hw
    refine ⟨lane1_ready hr fun i => ?signed, lane1_ready hr fun i => ?unsigned⟩
    case signed => rw [sint_laneAt, wrapInt_clampInt]
    case unsigned =>
      rw [← laneAt_eq_toNat, satBelow_eq_clampLane (laneAt_lt _ x i) (Nat.two_pow_pos _)]
      push_cast
      rfl

end Sys2Proof.Machine
end

section
/-! Proofs about the unmasked vector forms (06_scalar_vector.md R150, R152, R154): VSEL, VPERMB, VSHUF, VBCAST, VPACK and VUNPK. -/

namespace Sys2Proof.Machine

/-! ### Operations on whole registers -/

/-- An unmasked operation on va alone. -/
theorem opWhole_va {s : State} {g : Lit} {va : Nat} {x : Vec} (hg : s.Plain g) (hx : s.Reads .v va x) (vd : Nat)
    (f : List Vec → Vec × Nat) :
    s.opWhole g 2 .v vd [s.src .v va] f = .ok (s.lands (2 + s.cold [va]) .v vd (f [x]).1 (f [x]).2) := by
  rw [opWhole_one hg 2 .v vd (src_ts hx) (src_poison hx), coldAdd_eq_cold (s := s) (rs := [va]) (by simp)]

/-- An unmasked operation on va and source b. -/
theorem opWhole_va_b {s t : State} {g : Lit} {va vb : Nat} {imm : Int → Vec} {x y : Vec} (hb : s.ReadsB g vb imm t y)
    (hg : t.Plain g) (hx : t.Reads .v va x) (vd : Nat) (f : List Vec → Vec × Nat) :
    (s.srcB g vb imm >>= fun p => p.1.opWhole g 2 .v vd [p.1.src .v va, p.2] f) =
      .ok (t.lands (2 + t.cold [va]) .v vd (f [x, y]).1 (f [x, y]).2) := by
  obtain ⟨b, hsrc, hts, hpoi, hcold⟩ := hb
  simp only [hsrc, bind, Except.bind]
  rw [opWhole_two hg 2 .v vd (src_ts hx) hts (src_poison hx) hpoi,
    coldAdd_eq_cold (s := t) (rs := [va]) (by simp [hcold])]

/-- An unmasked operation on va, the old vd and a mask register. -/
theorem opWhole_va_vd_m {s : State} {g : Lit} {va vd m : Nat} {x d q : Vec} (hg : s.Plain g) (hx : s.Reads .v va x)
    (hd : s.Reads .v vd d) (hq : s.Reads .m m q) (f : List Vec → Vec × Nat) :
    s.opWhole g 2 .v vd [s.src .v va, s.src .v vd, s.src .m m] f =
      .ok (s.lands (2 + s.cold [va, vd]) .v vd (f [x, d, q]).1 (f [x, d, q]).2) := by
  have hcold : coldAdd [s.src .v va, s.src .v vd, s.src .m m] = s.cold [va, vd] :=
    coldAdd_eq_cold (by simp)
  simp only [State.Plain] at hg
  simp only [State.opWhole, hg, checkPoison, src_poison hx, src_poison hd, src_poison hq, List.map, src_ts hx, src_ts hd, src_ts hq,
    product_three, Bool.false_eq_true, ↓reduceIte, bind, Except.bind, hcold]
  exact writeBack_one ..

/-! ### Values from the lanes of a register -/

theorem getLsbD_iff_div (q : Vec) (i : Nat) : q.toNat / 2 ^ i % 2 = 1 ↔ q.getLsbD i = true := div_two_pow_mod_two q.toNat i

theorem mapIdx_zipLanes {β : Type} (w n : Nat) (xs : List Vec) (f : Nat → List Nat → β) :
    (zipLanes w n xs).mapIdx f = (List.range n).map fun i => f i (xs.map fun x => laneAt w x i) := by
  refine List.ext_getElem (by simp [zipLanes]) fun i _ _ => ?_
  simp [zipLanes_eq]

theorem pack_replicate (w a : Nat) : pack w (List.replicate (2048 / w) a) = ofLanes w fun _ => a := by
  rw [ofLanes, List.map_const', List.length_range]

/-- Lane `i` of the result is the lane of `x` that index `j i` names. -/
theorem pack_permuted {w : Nat} (x : Vec) {j k : Nat → Nat} (hk : ∀ i < 2048 / w, j i = k i ∧ k i < 2048 / w) :
    pack w ((List.range (2048 / w)).map fun i => (lanesOf w (2048 / w) x).getD (j i) 0) = ofLanes w fun i => laneAt w x (k i) :=
  pack_map_range rfl fun i hi => by rw [(hk i hi).1, lanesOf_getD x (hk i hi).2]

/-! ### VSEL -/

/-- VSEL on single values (R150). -/
theorem execVsel_eq {s : State} {g : Lit} {va vd m : Nat} {x d q : Vec} (ty : Nat) (hg : s.Plain g) (hx : s.Reads .v va x)
    (hd : s.Reads .v vd d) (hq : s.Reads .m m q) :
    execVsel g ty vd va m s = .next (s.lands (2 + s.cold [va, vd]) .v vd
      (ofLanes (intWidth ty) fun i => if q.getLsbD i then laneAt (intWidth ty) x i else laneAt (intWidth ty) d i) 0) := by
  rw [execVsel, opWhole_va_vd_m hg hx hd hq, finish_ok]
  simp only [mapIdx_zipLanes, List.getD_cons_zero, List.getD_cons_succ, List.take_succ_cons, List.take_zero, List.map_cons,
    List.map_nil, getLsbD_iff_div]
  rfl

/-! ### Permutations -/

/-- A permutation by the lanes of source b (R152). -/
theorem vperm_reg {s t : State} {g : Lit} {w va vb : Nat} {x y : Vec} (hvb : vb < 40) (hb : s.ReadsB g vb (immInt w) t y)
    (hg : t.Plain g) (hx : t.Reads .v va x) (vd : Nat) :
    s.finish (s.vperm g w vd va vb) = .next (t.lands (2 + t.cold [va]) .v vd
      (ofLanes w fun i => laneAt w x (laneAt w y i % (2048 / w))) 0) := by
  rw [State.vperm, if_neg (by omega), opWhole_va_b hb hg hx, finish_ok]
  simp only [List.getD_cons_zero, List.getD_cons_succ]
  rw [← pack_permuted x fun i hi => ⟨rfl, Nat.mod_lt _ (by omega)⟩]
  simp [lanesOf, laneAt, Function.comp_def]

/-- A permutation by an immediate (R152). -/
theorem vperm_imm {s : State} {g : Lit} {w va vb : Nat} {x : Vec} (hvb : 40 ≤ vb) (hg : s.Plain g) (hx : s.Reads .v va x)
    (vd : Nat) {k : Nat → Nat} (hk : ∀ i : Nat, (((i : Int) + vb - 48) % (2048 / w : Nat)).toNat = k i ∧ k i < 2048 / w) :
    s.finish (s.vperm g w vd va vb) = .next (s.lands (2 + s.cold [va]) .v vd (ofLanes w fun i => laneAt w x (k i)) 0) := by
  rw [State.vperm, if_pos hvb, opWhole_va hg hx, finish_ok]
  simp only [List.getD_cons_zero]
  rw [pack_permuted x fun i _ => hk i]

/-- VBCAST by source b (R152). -/
theorem execVbcast_reg {s t : State} {g : Lit} {ty va vb : Nat} {x y : Vec} (hty : ty < 4) (hvb : vb < 40)
    (hb : s.ReadsB g vb (immInt (intWidth ty)) t y) (hg : t.Plain g) (hx : t.Reads .v va x) (vd : Nat) :
    execVbcast g ty vd va vb s = .next (t.lands (2 + t.cold [va]) .v vd
      (ofLanes (intWidth ty) fun _ => laneAt (intWidth ty) x (laneAt 32 y 0 % (2048 / intWidth ty))) 0) := by
  have hn : 0 < 2048 / intWidth ty := by
    obtain h | h | h | h := intWidth_cases hty <;> simp [h]
  rw [execVbcast]
  dsimp only
  rw [if_neg (by omega), opWhole_va_b hb hg hx, finish_ok]
  simp only [List.getD_cons_zero, List.getD_cons_succ]
  rw [pack_replicate, lanesOf_getD x (Nat.mod_lt _ hn)]
  simp [laneAt]

/-- VBCAST by an immediate (R152). -/
theorem execVbcast_imm {s : State} {g : Lit} {ty va vb : Nat} {x : Vec} (hty : ty < 4) (hvb : 40 ≤ vb)
    (hg : s.Plain g) (hx : s.Reads .v va x) (vd : Nat) :
    execVbcast g ty vd va vb s = .next (s.lands (2 + s.cold [va]) .v vd
      (ofLanes (intWidth ty) fun _ => laneAt (intWidth ty) x ((vb + 2048 / intWidth ty - 48) % (2048 / intWidth ty))) 0) := by
  have hj : (((vb : Int) - 48) % (2048 / intWidth ty : Nat)).toNat = (vb + 2048 / intWidth ty - 48) % (2048 / intWidth ty) ∧
      0 < 2048 / intWidth ty := by
    obtain h | h | h | h := intWidth_cases hty <;> rw [h] <;> omega
  rw [execVbcast]
  dsimp only
  rw [if_pos hvb, opWhole_va hg hx, finish_ok]
  simp only [List.getD_cons_zero]
  rw [pack_replicate, hj.1, lanesOf_getD x (Nat.mod_lt _ hj.2)]

/-! ### Packing and unpacking -/

/-- Lane `i` of va, and behind its `n` lanes those of source b, as signed integers. -/
def packedLane (w n : Nat) (x y : Vec) (i : Nat) : Int := (if i < n then lane w x i else lane w y (i - n)).toInt

theorem sint_packed (w n : Nat) (x y : Vec) (i : Nat) :
    sint w (if i < n then laneAt w x i else laneAt w y (i - n)) = packedLane w n x y i := by
  unfold packedLane
  split <;> exact sint_laneAt ..

/-- An integer clamped to the signed range of half a lane's width (R154). -/
abbrev clampHalf (w : Nat) (v : Int) : BitVec (w / 2) × Nat := clampLane (w / 2) (-(2 ^ (w / 2 - 1))) (2 ^ (w / 2 - 1) - 1) v

theorem halfWidth_lanes {ty : Nat} (h : ty < 3) : 2 * (2048 / intWidth ty) = 2048 / (intWidth ty / 2) := by
  interval_cases ty <;> rfl

theorem doubleWidth_lanes {ty : Nat} (h : ty < 3) : 1024 / intWidth (ty + 1) = 2048 / (2 * intWidth (ty + 1)) := by
  interval_cases ty <;> rfl

/-- VPACK on single values, its events those of all the lanes it gives (R154). -/
theorem execVpack_eq {s t : State} {g : Lit} {ty va vb w n : Nat} {x y : Vec} (hty : ty < 3) (hw : w = intWidth ty)
    (hn : n = 2048 / w) (hb : s.ReadsB g vb (immInt w) t y) (hg : t.Plain g) (hx : t.Reads .v va x) (vd : Nat) :
    execVpack g ty vd va vb s = .next (t.lands (2 + t.cold [va]) .v vd
      (ofLanes (w / 2) fun i => (clampHalf w (packedLane w n x y i)).1.toNat)
      ((List.range (2 * n)).foldl (fun e i => evOr e (clampHalf w (packedLane w n x y i)).2) 0)) := by
  subst hw hn
  rw [execVpack]
  dsimp only
  rw [opWhole_va_b hb hg hx, finish_ok]
  simp only [List.getD_cons_zero, List.getD_cons_succ, lanesOf_append, List.map_map, List.foldl_map, Function.comp_def, satI,
    sint_packed, wrapInt_clampInt]
  rw [pack_map_range (halfWidth_lanes hty) fun i _ => rfl]

/-- A lane at twice its width, extended by zeros or by its sign. -/
theorem extended_lane (w : Nat) (x : Vec) (i : Nat) (zx : Bool) :
    (if zx then laneAt w x i else wrapInt (2 * w) (sint w (laneAt w x i))) =
      (if zx then (lane w x i).zeroExtend (2 * w) else (lane w x i).signExtend (2 * w)).toNat := by
  cases zx with
  | false => rw [if_neg (by decide), if_neg (by decide), sint_laneAt, wrapInt_eq_toNat, BitVec.signExtend]
  | true => rw [if_pos rfl, if_pos rfl, BitVec.toNat_setWidth_of_le (by omega), laneAt_eq_toNat]

/-- VUNPK on a single value (R154). -/
theorem execVunpk_eq {s : State} {g : Lit} {ty va w n : Nat} {x : Vec} (hi zx : Bool) (hty : ty < 3) (hw : w = intWidth (ty + 1))
    (hn : n = 1024 / w) (hg : s.Plain g) (hx : s.Reads .v va x) (vd : Nat) :
    execVunpk g ty vd va hi zx s = .next (s.lands (2 + s.cold [va]) .v vd
      (ofLanes (2 * w) fun i => let a := lane w x (if hi then i + n else i)
        (if zx then a.zeroExtend (2 * w) else a.signExtend (2 * w)).toNat) 0) := by
  subst hw hn
  have hle : (if hi = true then 1024 / intWidth (ty + 1) else 0) + 1024 / intWidth (ty + 1) ≤ 2 * (1024 / intWidth (ty + 1)) := by
    split <;> omega
  have hplace : ∀ i k : Nat, i + (if hi = true then k else 0) = if hi = true then i + k else i := fun i k => by split <;> rfl
  rw [execVunpk, opWhole_va hg hx, finish_ok]
  simp only [List.getD_cons_zero]
  rw [lanesOf_drop_take x hle, List.map_map, pack_map_range (doubleWidth_lanes hty)]
  intro i _
  rw [Function.comp_apply, extended_lane, hplace]

/-! ### The obligation -/

/-- Settles O18: each form is the shape `State.opWhole` on single values; what remains is which lane each lane of the result
takes, and for VPACK that its events come to SA. -/
theorem vectorRearrange : Obligations.VectorRearrange := by
  unfold Obligations.VectorRearrange
  refine ⟨fun s t g ty vd va vb m w n x y d q hty hw hn => ?moves, fun s t g ty vd va vb w n x y hty hw hn hb hg hx => ?packs,
    fun s g ty vd va w n hi zx x hty hw hn hg hx => execVunpk_eq hi zx hty hw hn hg hx vd⟩
  case moves =>
    subst hw hn
    refine ⟨execVsel_eq ty, fun hvb hb hg hx => ?vpermb, fun hvb hb hg hx => vperm_reg hvb hb hg hx vd,
      fun hvb hb hg hx => execVbcast_reg hty hvb hb hg hx vd,
      fun hvb _ hg hx => ⟨vperm_imm hvb hg hx vd fun i => ?bytes, vperm_imm hvb hg hx vd fun i => ?words,
        execVbcast_imm hty hvb hg hx vd⟩⟩
    case vpermb =>
      have hbyte : ∀ i, laneAt 8 y i % 256 = laneAt 8 y i := fun i => Nat.mod_eq_of_lt (laneAt_lt 8 y i)
      have hperm := vperm_reg hvb hb hg hx vd
      simp only [Nat.reduceDiv, hbyte] at hperm
      exact hperm
    case bytes => omega
    case words => omega
  case packs =>
    refine ⟨_, execVpack_eq hty hw hn hb hg hx vd, ?_⟩
    rw [foldl_evOr_evSA _ _ fun i => clampLane_event ..]
    exact if_congr (by simp only [List.mem_range, packedLane]) rfl rfl

end Sys2Proof.Machine
end

section
/-! Proofs about the landing of a guard (07_takes.md R176): what it leaves of a context. Step 3 resolves what waited for a guard: it
may raise a fault, wake contexts and serve queues, and none of that changes of a context what `Ctx.rest` keeps. -/

namespace Sys2Proof.Machine

/-! ### What resolving leaves of a context -/

/-- A context without its sequencing, its events, its faults and what waits for a condition: what step 3 of R176 leaves as it is. -/
def Ctx.rest (x : Ctx) : Ctx :=
  { x with q := Seq.reset, ar := Arith.reset, held := [], relq := [], defer := [], fault := none, pendF := [] }

/-- Every context of every core is as before in what `Ctx.rest` keeps. -/
structure State.SameRest (s t : State) : Prop where
  rest_eq : ∀ n k : Nat, (t.ctx n k).rest = (s.ctx n k).rest

/-- The contexts after one of them is replaced. -/
theorem State.ctx_setCtx (s : State) (n k : Nat) (x : Ctx) (m j : Nat) :
    (s.setCtx n k x).ctx m j = if m = n ∧ j = k then x else s.ctx m j := by
  rw [State.ctx, State.core, agetD_aset]
  by_cases hm : m = n
  · subst hm
    rw [if_pos rfl, Core.ctx, agetD_aset]
    simp
  · rw [if_neg hm, if_neg fun h => hm h.1]

theorem State.ctx_setCtx_self (s : State) (n k : Nat) (x : Ctx) : (s.setCtx n k x).ctx n k = x := by
  rw [State.ctx_setCtx, if_pos ⟨rfl, rfl⟩]

namespace State.SameRest

theorem refl (s : State) : s.SameRest s := ⟨fun _ _ => rfl⟩

section
variable {s t : State} (h : s.SameRest t)
include h

theorem guard (n k i : Nat) : (t.ctx n k).guard i = (s.ctx n k).guard i := by
  change (t.ctx n k).rest.guard i = (s.ctx n k).rest.guard i
  rw [h.rest_eq]

/-- A change outside the cores. -/
theorem of_cores {u : State} (hc : u.cores = t.cores := by rfl) : s.SameRest u :=
  ⟨fun n k => by rw [← h.rest_eq n k, State.ctx, State.ctx, State.core, State.core, hc]⟩

theorem setCtx {n k : Nat} {x : Ctx} (hx : x.rest = (t.ctx n k).rest := by rfl) : s.SameRest (t.setCtx n k x) := by
  refine ⟨fun m j => ?_⟩
  rw [State.ctx_setCtx, ← h.rest_eq]
  split
  · next hmj => rw [hmj.1, hmj.2, hx]
  · rfl

/-- A change of a core outside its contexts. -/
theorem setCore {n : Nat} {c : Core} (hc : c.ctxs = (t.core n).ctxs := by rfl) : s.SameRest (t.setCore n c) := by
  refine ⟨fun m j => ?_⟩
  rw [← h.rest_eq, State.ctx, State.core, agetD_aset]
  split
  · next hm => rw [Core.ctx, hc, hm]
  · rfl

theorem sched (at_ ph k1 k2 k3 : Nat) (ev : Instr) : s.SameRest (t.sched at_ ph k1 k2 k3 ev) := h.of_cores

theorem setTq (q : Nat) (x : Tq) : s.SameRest (t.setTq q x) := h.of_cores

/-! ### Waking contexts and serving queues -/

theorem switch (n : Nat) : s.SameRest (t.switch n) := by
  unfold State.switch
  dsimp only
  split
  · exact h
  · split
    · exact h
    · exact sched h.setCore ..

theorem makeReady (n k : Nat) : s.SameRest (t.makeReady n k) := by
  unfold State.makeReady
  dsimp only
  split
  · exact switch h.setCtx n
  · exact h.setCtx

theorem wake (n k : Nat) : s.SameRest (t.wake n k) := by
  unfold State.wake
  dsimp only
  split
  · split
    · exact setCore h.setCtx
    · exact h.setCtx
  · exact h.makeReady n k

theorem letGo (who : Nat) (entry : Option Nat) (poisoned : Bool) : s.SameRest (t.letGo who entry poisoned) :=
  wake h.setCtx ..

theorem copyLeft (n id : Nat) : s.SameRest (t.copyLeft n id) := by
  have hdone (u : State) (task : Nat) : (u.workDone task).cores = u.cores := by
    unfold State.workDone State.tryComplete
    split
    · split <;> rfl
    · rfl
  unfold State.copyLeft
  split
  · exact h
  · split
    · exact of_cores h.setCore (hdone ..)
    · exact h.setCore

end

theorem serve {s t : State} (h : s.SameRest t) (q n : Nat) : s.SameRest (t.serve q n) := by
  induction n generalizing t with
  | zero => exact h
  | succ n ih =>
    unfold State.serve
    dsimp only
    split
    · exact ih (letGo (h.setTq ..) ..)
    · exact h

section
variable {s t : State} (h : s.SameRest t)
include h

theorem tqJoin (q : Nat) (e : TqIn) : s.SameRest (t.tqJoin q e) := by
  unfold State.tqJoin
  refine serve ?_ ..
  split
  · exact copyLeft h.of_cores ..
  · exact h.of_cores

theorem tqFromHold (q : Nat) : s.SameRest (t.tqFromHold q) := by
  unfold State.tqFromHold
  dsimp only
  split
  · exact h
  · exact tqJoin (h.setTq ..) ..

theorem tqFreed (q : Nat) : s.SameRest (t.tqFreed q) := by
  unfold State.tqFreed
  dsimp only
  split
  · split
    · exact letGo (h.setTq ..) ..
    · exact h.tqFromHold q
  · exact letGo (h.setTq ..) ..
  · exact h.tqFromHold q
  · exact h.setTq ..

/-- A block that is withdrawn changes the sequencing of contexts, queues, barriers and combines (R96, R98). -/
theorem withdraw (n k : Nat) : s.SameRest (t.withdraw n k) := by
  unfold State.withdraw
  extract_lets who
  split
  · exact h
  · extract_lets u
    have hu : s.SameRest u := iteInduction (fun _ => h) fun _ => h.setCtx
    split
    case h_1 | h_2 => exact hu -- a yield, a host ring
    case h_3 => -- a sender
      split
      · exact tqFreed (hu.setTq ..) _
      · exact hu.setTq ..
    case h_4 => -- a receiver
      exact serve (hu.setTq ..) ..
    case h_5 | h_6 => -- an arrival at a barrier or a combine
      split
      · exact hu
      · exact hu.of_cores

/-! ### Faults that fall due, and step 3 of R176 -/

theorem takeFault (n k : Nat) (f : Trap) : s.SameRest (t.takeFault n k f) := by
  unfold State.takeFault
  exact sched (h.withdraw n k).setCtx ..

theorem keepSaved (n : Nat) (id : Option Nat) (f : Trap) : s.SameRest (t.keepSaved n id f) := by
  cases id with
  | none => exact h
  | some id => exact h.setCore

/-- A fault that falls due is taken, kept or left pending (R359). -/
theorem lateFault (n k : Nat) (f : Trap) : s.SameRest (t.lateFault n k f) := by
  unfold State.lateFault
  dsimp only
  split
  · exact h
  · split
    · exact keepSaved h.setCtx ..
    · split
      · exact h.setCtx
      · split
        case h_1 | h_2 => exact h -- free or stopped
        case h_3 => exact h.setCtx -- ready
        case h_4 => -- blocked
          exact makeReady (h.withdraw n k).setCtx ..
        case h_5 | h_6 | h_7 => -- the holder, issuing, holding or waiting
          split
          · split
            · exact takeFault h.setCtx ..
            · exact h.setCtx
          · exact h.takeFault ..

theorem resolve (n k : Nat) : s.SameRest (t.resolve n k) := by
  unfold State.resolve
  extract_lets x free idle y now z issuing f u v
  clear_value f issuing
  have hu : s.SameRest u := by
    refine h.setCtx ?_
    split
    · split <;> rfl
    · rfl
  have hv : s.SameRest v := by
    unfold v
    split
    · split
      · exact hu.lateFault ..
      · exact hu
    · exact hu
  split
  · exact hv
  · exact hv.sched ..

end

end State.SameRest

/-! ### The guards that a landing leaves (R176, R191) -/

/-- The entry of a key in a map whose values are all changed by `f`. -/
theorem aget_map {α β : Type} (f : α → β) (a : Assoc α) (n : Nat) : aget (a.map fun p => (p.1, f p.2)) n = (aget a n).map f := by
  induction a with
  | nil => rfl
  | cons p r ih =>
    simp only [List.map_cons, aget, ih]
    split
    · rfl
    · split <;> rfl

theorem agetD_map {α β : Type} (f : α → β) (a : Assoc α) (n : Nat) (d : α) :
    agetD (a.map fun p => (p.1, f p.2)) n (f d) = f (agetD a n d) := by
  rw [agetD, agetD, aget_map, Option.getD_map]

/-- A guard once guard `i` has landed with `b`: guard logic in flight that waits for it learns the value (R191). -/
def Guard.learn (i : Nat) (b : Bool) (g : Guard) : Guard :=
  { g with opn := g.opn.map fun o => { o with args := o.args.map fun a =>
    if a.known.isNone ∧ a.idx = i then { a with known := some b } else a } }

/-- The guards once guard `i` has landed. -/
theorem Ctx.guard_landGuard {x : Ctx} {i : Nat} {o : GOpen} (h : (x.guard i).opn = some o) (c j : Nat) :
    (x.landGuard c i).guard j = if j = i then ⟨o.value, none⟩ else (x.guard j).learn i o.value := by
  have hg : (x.landGuard c i).g = (aset x.g i ⟨o.value, none⟩).map fun p => (p.1, p.2.learn i o.value) := by
    unfold Ctx.landGuard
    rw [h]
    rfl
  rw [Ctx.guard, hg]
  refine (agetD_map (Guard.learn i o.value) _ j Guard.reset).trans ?_
  rw [agetD_aset]
  split <;> rfl

/-- A guard that is due lands; whatever follows in its cycle leaves the guards as the landing did. -/
theorem happens_guardLanding {s : State} {core ctx gi : Nat} {o : GOpen} (h : ((s.ctx core ctx).guard gi).opn = some o)
    (hdue : o.due = s.cyc) : Happens (.guardLanding core ctx gi) s fun t =>
      (s.setCtx core ctx ((s.ctx core ctx).landGuard s.cyc gi)).SameRest t := by
  refine ⟨_, rfl, ?_⟩
  beta_reduce
  rw [if_pos (by simp [h, hdue])]
  extract_lets t u
  have hu : t.SameRest u := iteInduction (fun _ => (State.SameRest.refl t).sched ..) fun _ => .refl t
  split
  · exact hu
  · exact hu.resolve ..

end Sys2Proof.Machine
end

section
/-! Proofs about guard logic and TAKE.WAIT (07_takes.md R182, R191). -/

namespace Sys2Proof.Machine

/-! ### Operands and landing cycle -/

theorem State.garg_zero {s : State} {l : Lit} (h : l.idx = 0) : s.garg l = ⟨some true, 0, l.neg⟩ := if_pos h

theorem State.garg_open {s : State} {l : Lit} (h : l.idx ≠ 0) (ho : s.me.gopen s.cyc l.idx = true) :
    s.garg l = ⟨none, l.idx, l.neg⟩ := by
  rw [State.garg, if_neg h, if_pos ho]

theorem State.garg_landed {s : State} {l : Lit} (h : l.idx ≠ 0) (ho : s.me.gopen s.cyc l.idx = false) :
    s.garg l = ⟨some (s.me.guard l.idx).val, l.idx, l.neg⟩ := by
  rw [State.garg, if_neg h, if_neg (by simp [ho])]

/-- The cycle in which a literal's guard lands, where it is an open one; 0 otherwise. -/
def State.litDue (s : State) (l : Lit) : Nat :=
  if l.idx ≠ 0 ∧ s.me.gopen s.cyc l.idx = true then (s.me.guard l.idx).opn.elim 0 (·.due) else 0

/-- Guard logic lands at the latest of issue + 1 and the landing cycles of its open operands. -/
theorem State.gdue_eq_foldl (s : State) (ls : List Lit) : s.gdue ls = ls.foldl (fun n l => max n (s.litDue l)) (s.cyc + 1) := by
  unfold State.gdue State.litDue
  congr 1
  funext n l
  split <;> simp

/-! ### Opening a guard -/

theorem guardLogic_of_openLit {s : State} {g : Lit} {w : Cube} (hw : s.openLit g = some w) (gd : Nat) (op : GOp) (ls : List Lit) :
    s.guardLogic g gd op ls = s.openGuard w gd (s.gdue ls) op (ls.map s.garg) := by
  rw [State.guardLogic, hw]

/-- A guard that is open is not opened again (R175). -/
theorem openGuard_reopen {s : State} {gd : Nat} (h0 : gd ≠ 0) (ho : (s.me.guard gd).opn ≠ none) (due : Nat) (op : GOp)
    (args : List GArg) : s.openGuard Cube.tt gd due op args = .error ⟨0x08, 2, gd, 0⟩ := by
  rw [State.openGuard, if_neg (by simp), if_pos ⟨h0, Option.isSome_iff_ne_none.2 ho⟩]

/-- No guard is opened under an open literal (R133). -/
theorem openGuard_open {s : State} {w : Cube} (hw : w.isTrue = false) (gd due : Nat) (op : GOp) (args : List GArg) :
    s.openGuard w gd due op args = .error ⟨0x08, 3, gd, 0⟩ := by
  rw [State.openGuard, if_pos (by simp [hw])]

/-- Guard logic under a literal landed true opens its guard. -/
theorem finish_guardLogic {s : State} {g : Lit} {gd : Nat} (hg : s.Plain g) (h0 : gd ≠ 0) (ho : (s.me.guard gd).opn = none)
    (op : GOp) (ls : List Lit) :
    s.finish (s.guardLogic g gd op ls) = .next (s.openAt gd (s.gdue ls) op (ls.map s.garg)) := by
  rw [guardLogic_of_openLit (State.openLit_of_wlit hg), openGuard_one s h0 ho, finish_ok]

/-- The four instructions run the shape `State.guardLogic`. -/
theorem guardLogicForms_exec (g la lb : Lit) (gd : Nat) (s : State) :
    ∀ i ∈ [Instr.gand g gd la lb, .gor g gd la lb, .gnot g gd la, .gcopy g gd la],
      ∃ op ls, exec i s = s.finish (s.guardLogic g gd op ls) := by
  simp only [List.forall_mem_cons]
  exact ⟨⟨_, _, rfl⟩, ⟨_, _, rfl⟩, ⟨_, _, rfl⟩, ⟨_, _, rfl⟩, by simp⟩

/-- A write of g0 is discarded; an open destination, or an open literal of the instruction itself, is a guard fault. -/
theorem guardLogicForms_unopened {g la lb : Lit} {gd : Nat} {s : State} {i : Instr}
    (hi : i ∈ [Instr.gand g gd la lb, .gor g gd la lb, .gnot g gd la, .gcopy g gd la]) :
    (s.Plain g → gd = 0 → exec i s = .next s) ∧
    (s.Plain g → gd ≠ 0 → (s.me.guard gd).opn ≠ none → Raises i s ⟨0x08, 2, gd, 0⟩) ∧
    ∀ w, s.openLit g = some w → w.isTrue = false → Raises i s ⟨0x08, 3, gd, 0⟩ := by
  obtain ⟨op, ls, hexec⟩ := guardLogicForms_exec g la lb gd s i hi
  rw [Raises, Raises, hexec]
  refine ⟨fun hg h0 => ?zero, fun hg h0 ho => ?reopen, fun w hw hopen => ?openLit⟩
  case zero => rw [guardLogic_of_openLit (State.openLit_of_wlit hg), h0, openGuard_zero, finish_ok]
  case reopen => rw [guardLogic_of_openLit (State.openLit_of_wlit hg), openGuard_reopen h0 ho, finish_error]
  case openLit => rw [guardLogic_of_openLit hw, openGuard_open hopen, finish_error]

/-! ### The obligation -/

/-- Settles O13: the four instructions run one shape, which opens the guard or raises; a landing gives its value to the guard logic
in flight, and what follows in its cycle touches no guard. -/
theorem guardLogic : Obligations.GuardLogic := by
  unfold Obligations.GuardLogic
  refine ⟨⟨fun s g la lb gd => ?issue, fun d x y n m i j => ?value, fun s core ctx gi j o p x hx ho hdue hj hp => ?landing⟩,
    fun s g k => ?takeWait⟩
  case issue =>
    exact ⟨(s.gdue_eq_foldl [la, lb]).trans (Nat.max_assoc ..), s.gdue_eq_foldl [la], State.garg_zero, State.garg_open,
      State.garg_landed, fun hg h0 ho => ⟨finish_guardLogic hg h0 ho .and [la, lb], finish_guardLogic hg h0 ho .or [la, lb],
        finish_guardLogic hg h0 ho .not [la], finish_guardLogic hg h0 ho .value [la]⟩, fun _ => guardLogicForms_unopened⟩
  case value => simp [GOpen.value]
  case landing =>
    subst hx
    obtain ⟨t, hexec, hrest⟩ := happens_guardLanding ho hdue
    refine ⟨t, hexec, ?_⟩
    simp only [hrest.guard, State.ctx_setCtx_self, Ctx.guard_landGuard ho, if_neg hj]
    exact ⟨if_pos trivial, by rw [Guard.learn, hp, Option.map_some]⟩
  case takeWait =>
    exact ⟨fun hshut => congrArg Host.Outcome.next (if_neg fun ⟨h0, ho⟩ => hshut.elim h0 (by simp [ho])),
      fun h0 ho => congrArg Host.Outcome.next (if_pos ⟨h0, ho⟩)⟩

end Sys2Proof.Machine
end
